-- ==== Sys2Proof/Word.lean ====
section
/-! DEFINITION. The word types of the core: 64-bit registers and instruction words (R15), 32-bit lane
words and bytes. -/

namespace Sys2Proof

/-- A register or an instruction word: 64 bits, bit 0 the least significant (R15). -/
abbrev W64 := BitVec 64

/-- A 32-bit word. -/
abbrev W32 := BitVec 32

/-- A byte of local memory, of a ring slot or of a packet. -/
abbrev Byte := BitVec 8

end Sys2Proof
end

