-- ==== Sys2Proof/Syntax.lean ====
section
/-! DEFINITION. The commands of the core, one constructor per row of the opcode table, and the data they carry: the
fields of a sequencer instruction, the descriptor an engine works on, link packets, flits, host-port requests, register
values, and the outcomes that the world outside the core decides. -/

namespace Sys2Proof

/-- A sequencer instruction as one context issues it: the fields of Table 4.6 that every class shares, whether an
arithmetic instruction is of class ALUI (its second operand an immediate) or ALU, and bits [39:0], whose layout is that
of the instruction's class (Table 4.7). CLASS and OP are the constructor's own. -/
structure SeqOp where
  ctx : Nat
  alui : Bool
  gp : BitVec 3
  gn : Bool
  rd : BitVec 5
  ra : BitVec 5
  low : BitVec 40
deriving DecidableEq, Repr

/-- The descriptor a command works on: its ring and its first index (R130, R131). -/
structure DescRef where
  ring : Nat
  idx : Nat
deriving DecidableEq, Repr

/-- A link packet by its header fields and payload (Table 17.3). `v12` marks one that arrived in the Ohmuf Link 1.2
form, which carries no epochs (Table 17.5); `res0` one with a reserved bit set; `rsh` a write of a RESHARD, which the
guards exempt although the header has no bit for it (R396, R398). -/
structure Packet where
  ty : Nat
  vc : Nat
  hops : Nat
  dst : Nat
  src : Nat
  tag : Nat
  status : Nat
  rEpoch : Nat
  lEpoch : Nat
  addr : Nat
  len : Nat
  payload : List Byte
  v12 : Bool
  res0 : Bool
  rsh : Bool
deriving DecidableEq, Repr

/-- A codeword as the active lanes of a port bring it, aligned (R403, R406): for each of them, lowest first, the bits of its symbols,
bit 0 of the first symbol being bit 0. -/
structure FlitIn where
  lanes : List Nat
deriving DecidableEq, Repr

/-- An HPP3 request (Table 17.9). -/
structure HppReq where
  tag : Nat
  lines : Nat
  lcn : Nat
  addr : Nat
deriving DecidableEq, Repr

/-- One write-data beat: a 64-bit byte mask and 64 bytes (section 17.9). -/
structure HppBeat where
  mask : W64
  bytes : List Byte
deriving DecidableEq, Repr

/-- A command to the core: one constructor per row of the opcode table, with the row's own summary. Commands without operands
stand last: the compiler builds no constructor with operands past the 245th. -/
inductive Instr where
  /-- ADD (R115): ALU or ALUI instruction: rd gets a + b modulo 2^64. -/
  | add (o : SeqOp)
  /-- SUB (R115): ALU instruction: rd gets a − b. -/
  | sub (o : SeqOp)
  /-- MUL (R115): ALU or ALUI instruction: rd gets the low 64 bits of a × b. -/
  | mul (o : SeqOp)
  /-- MULHU (R115): ALU instruction: rd gets the high 64 bits of the unsigned product. -/
  | mulhu (o : SeqOp)
  /-- MULHS (R115): ALU instruction: rd gets the high 64 bits of the signed product. -/
  | mulhs (o : SeqOp)
  /-- DIVU (R115): ALU instruction: unsigned quotient; division by zero gives all ones. -/
  | divu (o : SeqOp)
  /-- DIVS (R115): ALU instruction: signed quotient rounded toward zero, with the edge cases of Table 4.8. -/
  | divs (o : SeqOp)
  /-- REMU (R115): ALU instruction: unsigned remainder; b = 0 gives a. -/
  | remu (o : SeqOp)
  /-- REMS (R115): ALU instruction: signed remainder with the sign of a. -/
  | rems (o : SeqOp)
  /-- AND (R115): ALU or ALUI instruction: bitwise AND. -/
  | and (o : SeqOp)
  /-- OR (R115): ALU or ALUI instruction: bitwise OR. -/
  | or (o : SeqOp)
  /-- XOR (R115): ALU or ALUI instruction: bitwise XOR. -/
  | xor (o : SeqOp)
  /-- ANDN (R115): ALU instruction: a AND NOT b. -/
  | andn (o : SeqOp)
  /-- SHL (R115): ALU or ALUI instruction: shift left by b[5:0]. -/
  | shl (o : SeqOp)
  /-- SHR (R115): ALU or ALUI instruction: logical shift right by b[5:0]. -/
  | shr (o : SeqOp)
  /-- SAR (R115): ALU or ALUI instruction: arithmetic shift right by b[5:0]. -/
  | sar (o : SeqOp)
  /-- ROL (R115): ALU instruction: rotate left by b[5:0]. -/
  | rol (o : SeqOp)
  /-- MIN (R115): ALU instruction: signed minimum. -/
  | min (o : SeqOp)
  /-- MAX (R115): ALU instruction: signed maximum. -/
  | max (o : SeqOp)
  /-- MINU (R115): ALU instruction: unsigned minimum. -/
  | minu (o : SeqOp)
  /-- MAXU (R115): ALU instruction: unsigned maximum. -/
  | maxu (o : SeqOp)
  /-- CLZ (R115): ALU instruction: count leading zeros, 64 for zero. -/
  | clz (o : SeqOp)
  /-- CTZ (R115): ALU instruction: count trailing zeros, 64 for zero. -/
  | ctz (o : SeqOp)
  /-- POPC (R115): ALU instruction: number of set bits of a. -/
  | popc (o : SeqOp)
  /-- SEL (R115): ALU instruction: rd gets a if c is nonzero, else b. -/
  | sel (o : SeqOp)
  /-- MADD (R115): ALU instruction: rd gets the low 64 bits of a × b + c. -/
  | madd (o : SeqOp)
  /-- BFX (R115): ALU instruction: bit-field extract, zero-extended. -/
  | bfx (o : SeqOp)
  /-- BFI (R115): ALU instruction: bit-field insert keeping the other bits of rd. -/
  | bfi (o : SeqOp)
  /-- CMPEQ (R115): ALU or ALUI instruction: predicate gets a = b. -/
  | cmpeq (o : SeqOp)
  /-- CMPNE (R115): ALU or ALUI instruction: predicate gets a ≠ b. -/
  | cmpne (o : SeqOp)
  /-- CMPLT (R115): ALU or ALUI instruction: predicate gets signed a < b. -/
  | cmplt (o : SeqOp)
  /-- CMPLE (R115): ALU or ALUI instruction: predicate gets signed a ≤ b. -/
  | cmple (o : SeqOp)
  /-- CMPLTU (R115): ALU or ALUI instruction: predicate gets unsigned a < b. -/
  | cmpltu (o : SeqOp)
  /-- CMPLEU (R115): ALU or ALUI instruction: predicate gets unsigned a ≤ b. -/
  | cmpleu (o : SeqOp)
  /-- PAND (R115): ALU instruction: predicate AND of two predicates. -/
  | pand (o : SeqOp)
  /-- POR (R115): ALU instruction: predicate OR of two predicates. -/
  | por (o : SeqOp)
  /-- PXOR (R115): ALU instruction: predicate XOR of two predicates. -/
  | pxor (o : SeqOp)
  /-- PANDN (R115): ALU instruction: predicate AND NOT of two predicates. -/
  | pandn (o : SeqOp)
  /-- MOVP (R115): ALU instruction: rd gets p7 to p0 as bits [7:0]. -/
  | movp (o : SeqOp)
  /-- MOVTP (R115): ALU instruction: p1 to p7 get a[7:1]. -/
  | movtp (o : SeqOp)
  /-- FADD (R115): ALU instruction: FP64 addition, RNE. -/
  | fadd (o : SeqOp)
  /-- FSUB (R115): ALU instruction: FP64 subtraction, RNE. -/
  | fsub (o : SeqOp)
  /-- FMUL (R115): ALU instruction: FP64 multiplication, RNE. -/
  | fmul (o : SeqOp)
  /-- FDIV (R115): ALU instruction: FP64 division, RNE. -/
  | fdiv (o : SeqOp)
  /-- FSQRT (R115): ALU instruction: FP64 square root, RNE. -/
  | fsqrt (o : SeqOp)
  /-- FMA (R115): ALU instruction: FP64 a × b + c rounded once. -/
  | fma (o : SeqOp)
  /-- FMIN (R115): ALU instruction: FP64 minimum, NaN if either is NaN, −0 below +0. -/
  | fmin (o : SeqOp)
  /-- FMAX (R115): ALU instruction: FP64 maximum, NaN if either is NaN, −0 below +0. -/
  | fmax (o : SeqOp)
  /-- FCMPLT (R115): ALU instruction: predicate gets FP64 a < b, false on NaN. -/
  | fcmplt (o : SeqOp)
  /-- FCMPLE (R115): ALU instruction: predicate gets FP64 a ≤ b, false on NaN. -/
  | fcmple (o : SeqOp)
  /-- FCMPEQ (R115): ALU instruction: predicate gets FP64 a = b, false on NaN. -/
  | fcmpeq (o : SeqOp)
  /-- FCVTI (R115): ALU instruction: FP64 to INT64, RNE, saturating, NaN gives 0. -/
  | fcvti (o : SeqOp)
  /-- ICVTF (R115): ALU instruction: INT64 to FP64, RNE. -/
  | icvtf (o : SeqOp)
  /-- FISFIN (R115): ALU instruction: predicate gets whether a is finite. -/
  | fisfin (o : SeqOp)
  /-- MOVI (R115): ALUI instruction: rd gets the sign-extended 40-bit immediate. -/
  | movi (o : SeqOp)
  /-- ORHI (R115): ALUI instruction: ORs IMM40[23:0] into bits [63:40] of a. -/
  | orhi (o : SeqOp)
  /-- LD (R116): LS instruction: issues a load of 2^SIZE bytes into rd, zero- or sign-extended. -/
  | ld (o : SeqOp)
  /-- ST (R116): LS instruction: issues a store of the low 2^SIZE bytes of s[RD]. -/
  | st (o : SeqOp)
  /-- AMOADD (R116): LS atomic: returns old value and stores old + s[RB] indivisibly. -/
  | amoadd (o : SeqOp)
  /-- AMOSWAP (R116): LS atomic: returns old value and stores s[RB]. -/
  | amoswap (o : SeqOp)
  /-- AMOCAS (R116): LS atomic: returns old value and stores s[RC] if old equals s[RB]. -/
  | amocas (o : SeqOp)
  /-- AMOMAXU (R116): LS atomic: returns old value and stores the unsigned maximum. -/
  | amomaxu (o : SeqOp)
  /-- LOAD_RETURN (R117): Data of an outstanding load or atomic returns, writing rd or faulting the context with the reported cause. -/
  | loadReturn (ctx tag : Nat)
  /-- STORE_ACK (R104): An outstanding store or atomic is acknowledged, releasing fences and releases, or faults the context late on a remote failure. -/
  | storeAck (ctx tag : Nat)
  /-- FETCH_FILL (R100): An instruction cache miss completes and the waiting context becomes READY, or faults on a bad fetch address. -/
  | fetchFill (ctx : Nat)
  /-- B (R118): BR instruction: unconditional relative branch. -/
  | b (o : SeqOp)
  /-- BL (R118): BR instruction: branch and link. -/
  | bl (o : SeqOp)
  /-- JR (R118): BR instruction: jump to s[RA]; misaligned target faults ISA_ILLEGAL. -/
  | jr (o : SeqOp)
  /-- JLR (R118): BR instruction: jump to s[RA] and link. -/
  | jlr (o : SeqOp)
  /-- DBNZ (R118): BR instruction: decrement and branch if nonzero. -/
  | dbnz (o : SeqOp)
  /-- BZ (R118): BR instruction: branch if s[RA] is zero. -/
  | bz (o : SeqOp)
  /-- BNZ (R118): BR instruction: branch if s[RA] is nonzero. -/
  | bnz (o : SeqOp)
  /-- RING_PUT (R119): RING instruction: writes one staging word. -/
  | ringPut (o : SeqOp)
  /-- RING_PUT2 (R119): RING instruction: writes two consecutive staging words. -/
  | ringPut2 (o : SeqOp)
  /-- RING_GETW (R119): RING instruction: reads one staging word into rd. -/
  | ringGetw (o : SeqOp)
  /-- RING_CLR (R119): RING instruction: clears all 24 staging words. -/
  | ringClr (o : SeqOp)
  /-- RING_PUSH (R133): RING instruction: copies the staged descriptor to the ring tail as a release, or waits for ring space. -/
  | ringPush (o : SeqOp)
  /-- RING_PUSHR (R133): RING instruction: as RING_PUSH with the slot taken from a register. -/
  | ringPushr (o : SeqOp)
  /-- RING_TAIL (R119): RING instruction: returns the tail index of a ring slot. -/
  | ringTail (o : SeqOp)
  /-- RING_HEAD (R119): RING instruction: returns the head index of a ring slot. -/
  | ringHead (o : SeqOp)
  /-- WAIT (R121): SYNC instruction: deschedules until the counter reaches the threshold, acting as an acquire. -/
  | wait (o : SeqOp)
  /-- TEST (R121): SYNC instruction: writes a predicate with whether the counter has reached the threshold. -/
  | test (o : SeqOp)
  /-- SIGNAL (R160): SYNC instruction: adds an increment to a local counter as a release, applying saturation and releasing waiters. -/
  | signal (o : SeqOp)
  /-- SIGNALR (R171): SYNC instruction: raises a remote signal to a counter of a job on another core. -/
  | signalr (o : SeqOp)
  /-- CTRRD (R121): SYNC instruction: reads a counter value into rd. -/
  | ctrrd (o : SeqOp)
  /-- FENCE_LD (R105): SYNC instruction: no later load is performed before earlier loads return. -/
  | fenceLd (o : SeqOp)
  /-- FENCE_ST (R105): SYNC instruction: deschedules until earlier stores and atomics are acknowledged. -/
  | fenceSt (o : SeqOp)
  /-- FENCE_ALL (R105): SYNC instruction: both FENCE_LD and FENCE_ST. -/
  | fenceAll (o : SeqOp)
  /-- BARARR (R178): SYNC instruction: arrives at the next generation of a bridle line and records its target. -/
  | bararr (o : SeqOp)
  /-- BARWAIT (R179): SYNC instruction: deschedules until the recorded generation of the line completes. -/
  | barwait (o : SeqOp)
  /-- SUM_POP (R122): SUM instruction: removes the FIFO head, waiting while empty, and unstalls a producer held on a full FIFO. -/
  | sumPop (o : SeqOp)
  /-- SUM_TRY (R122): SUM instruction: pops the head if present, else reports empty. -/
  | sumTry (o : SeqOp)
  /-- SUM_PEEK (R122): SUM instruction: reads the head without removing it. -/
  | sumPeek (o : SeqOp)
  /-- SUM_COUNT (R122): SUM instruction: returns the number of FIFO entries. -/
  | sumCount (o : SeqOp)
  /-- SUM_DROP (R122): SUM instruction: removes the head if there is one. -/
  | sumDrop (o : SeqOp)
  /-- SYS_NOP (R123): SYS instruction with no effect. -/
  | sysNop (o : SeqOp)
  /-- YIELD (R123): SYS instruction: the pipe passes the context over for 16 cycles in which another is ready. -/
  | yield (o : SeqOp)
  /-- EXIT (R96): SYS instruction: after outstanding accesses, the context becomes FREE and its FIFO is emptied. -/
  | exit (o : SeqOp)
  /-- SPAWN (R123): SYS instruction: starts a named or the lowest FREE context at a PC with an argument. -/
  | spawn (o : SeqOp)
  /-- CID (R123): SYS instruction: returns the context's own number. -/
  | cid (o : SeqOp)
  /-- TIMERD (R123): SYS instruction: returns the TIME count. -/
  | timerd (o : SeqOp)
  /-- SLEEPT (R123): SYS instruction: deschedules until the TIME count reaches a deadline. -/
  | sleept (o : SeqOp)
  /-- PGRD (R124): SYS instruction: reads a register of a local control page. -/
  | pgrd (o : SeqOp)
  /-- PGWR (R124): SYS instruction: writes a register of a local control page as a store. -/
  | pgwr (o : SeqOp)
  /-- NOTIFY (R124): SYS instruction: sets a bit of SEQ_NOTIFY, raising the SEQ interrupt cause. -/
  | notify (o : SeqOp)
  /-- SWFAULT (R123): SYS instruction: faults the context with SW_FAULT. -/
  | swfault (o : SeqOp)
  /-- IFLUSH (R101): SYS instruction: deschedules the context while the instruction cache is invalidated. -/
  | iflush (o : SeqOp)
  /-- IFLUSH_DONE (R123): Instruction cache invalidation completes and the flushing context becomes READY. -/
  | iflushDone (ctx : Nat)
  /-- SLEEPT_DEADLINE (R123): The TIME count reaches a SLEEPT deadline and the sleeping context becomes READY. -/
  | sleeptDeadline (ctx : Nat)
  /-- WAIT_TIMEOUT (R183): A context's wait watchdog expires; the wait is abandoned and the context becomes FAULTED. -/
  | waitTimeout (ctx : Nat)
  /-- CTX_PC_WRITE (R125): Write of SEQ_CTX_PC, effective only for a FREE, STOPPED or FAULTED context. -/
  | ctxPcWrite (v : W64)
  /-- CTX_REGDATA_WRITE (R97): Write of SEQ_CTX_REGDATA: sets a register of a stopped context or the start argument of a FREE one. -/
  | ctxRegdataWrite (v : W64)
  /-- DESCRIPTOR_FETCH (R139): RING reads a pushed or doorbelled descriptor's slots and samples header and payload. -/
  | descriptorFetch (ring : Nat)
  /-- DESCRIPTOR_ISSUE (R145): A descriptor whose wait condition holds reaches issue; its checks run in order and it starts or is rejected. -/
  | descriptorIssue (ring : Nat)
  /-- DESCRIPTOR_COMPLETE (R142): A descriptor's writes are acknowledged and summaries entered; it signals in ring order and head advances. -/
  | descriptorComplete (d : DescRef)
  /-- NOP (R138): Descriptor opcode 0x00 of any class: waits, passes header checks, completes and signals. -/
  | nop (d : DescRef)
  /-- SEQ_INTERNAL_SPAWN (R138): SEQ-internal SPAWN descriptor starts a context, or counts a failure in SEQ_SPAWN_FAIL, and signals. -/
  | seqInternalSpawn (d : DescRef)
  /-- DOORBELL (R135): Write of RING_DOORBELL moves a HOSTFED ring's tail into free slots or is refused with DBERR. -/
  | doorbell (v : W64)
  /-- RING_CFG_WRITE (R128): Write of RING_CFG: binds or unbinds a ring, refusing locked fields or a bad binding with CFGERR. -/
  | ringCfgWrite (v : W64)
  /-- RING_BASE_WRITE (R128): Write of RING_BASE, refused with CFGERR while locked. -/
  | ringBaseWrite (v : W64)
  /-- RING_RESUME (R148): RING_CMD RESUME refetches a halted descriptor and returns it to the wait step. -/
  | ringResume (ring : Nat)
  /-- RING_SKIP (R148): RING_CMD SKIP retires a halted descriptor without signalling. -/
  | ringSkip (ring : Nat)
  /-- RING_SKIP_SIGNAL (R148): RING_CMD SKIP_SIGNAL retires a halted descriptor and adds its SIG_INC. -/
  | ringSkipSignal (ring : Nat)
  /-- SETIDX (R157): RING_CMD SETIDX sets head and tail of a disabled idle ring, discarding its descriptors and held signals. -/
  | setidx (ring : Nat) (value : Nat)
  /-- CTR_VAL_WRITE (R162): Write of SYNC_CTR_VAL raises a counter or clears poison; a lower value is refused with CTR_MISUSE. -/
  | ctrValWrite (v : W64)
  /-- CTR_ADD_WRITE (R160): Write of SYNC_CTR_ADD signals the selected counter with INC. -/
  | ctrAddWrite (v : W64)
  /-- COUNTER_ECC (R163): An uncorrectable error in counter storage poisons the counter and records ECC_UNCORR. -/
  | counterEcc (ctr : Nat)
  /-- VMAP_WRITE (R165): Write of SYNC_VMAP for a context, refusing EN with CFGERR if the map runs past LMEM. -/
  | vmapWrite (v : W64)
  /-- VMAP_INV_ENTRY (R167): SYNC_VMAP_INV invalidates one cached translation of a context. -/
  | vmapInvEntry (ctx vctr : Nat)
  /-- VMAP_INV_CTX (R167): SYNC_VMAP_INV with ALL invalidates every translation of a context. -/
  | vmapInvCtx (ctx : Nat)
  /-- WATCH_WRITE (R185): Write of SYNC_WATCHw sets threshold and counter, and sets HIT if armed and already satisfied. -/
  | watchWrite (w : Nat) (v : W64)
  /-- WATCH_CTL_WRITE (R185): Write of SYNC_WATCH_CTL arms watches and clears HIT bits, setting HIT for newly armed satisfied watches. -/
  | watchCtlWrite (v : W64)
  /-- COMPAT_SIGNAL_APPLY (R176): Under COMPAT, a held remote signal is applied when TIME reaches T_RAISE + 1,000 ns. -/
  | compatSignalApply (k : Nat)
  /-- BAR_ENABLE (R180): SYNC_BAR_CFG.EN set moves a line to IDLE with ARRIVALS and GEN zero. -/
  | barEnable (v : W64)
  /-- BAR_DISABLE (R180): SYNC_BAR_CFG.EN cleared moves a line to DISABLED, driving BAR_OUT high. -/
  | barDisable (v : W64)
  /-- BAR_IN_RISE (R177): BAR_IN reads 1 on two consecutive samples in ARRIVED; GEN advances, the line holds and BARWAIT waiters are released. -/
  | barInRise (line : Nat)
  /-- BAR_HOLD_EXPIRE (R177): HOLD REFCLK cycles pass in HOLD and the line goes to RELEASE. -/
  | barHoldExpire (line : Nat)
  /-- BAR_IN_LOW (R177): BAR_IN has read 0 for HOLD samples in RELEASE and the line returns to IDLE, arriving again if counted. -/
  | barInLow (line : Nat)
  /-- SCRUB_READ (R194): A bank's scrub interval elapses and it scrubs its next row, correcting or poisoning words. -/
  | scrubRead (bank : Nat)
  /-- ECC_WRITEBACK (R191): A corrected word is written back in the bank's next free cycle unless a write comes first. -/
  | eccWriteback (word : Nat)
  /-- LMEM_ARB_WRITE (R201): Write of LMEM_ARB, refused with CFGERR for bad shares or ranks. -/
  | lmemArbWrite (v : W64)
  /-- ECC_INJECT_WRITE (R202): Write of LMEM_ECC_INJECT arms a bit flip for the next write of a word. -/
  | eccInjectWrite (v : W64)
  /-- COPYB (R206): DMA descriptor: byte copy between any two global addresses. -/
  | copyb (d : DescRef)
  /-- COPY (R206): DMA descriptor: tensor copy with type and tiling conversion. -/
  | copy (d : DescRef)
  /-- PERMUTE (R205): DMA descriptor: tensor copy with dimensions reordered. -/
  | permute (d : DescRef)
  /-- GATHER (R214): DMA descriptor: destination slices taken from source slices named by an index tensor. -/
  | gather (d : DescRef)
  /-- SCATTER (R215): DMA descriptor: source slices written to destination slices named by an index tensor. -/
  | scatter (d : DescRef)
  /-- FILL (R216): DMA descriptor: writes a pad value into elements or padded positions. -/
  | fill (d : DescRef)
  /-- SPLIT64 (R209): DMA descriptor: splits an FP64 tensor into SLICE8 planes and exponents. -/
  | split64 (d : DescRef)
  /-- DMA_STAGE_WRITE (R226): Write of DMA_STAGE, refused with CFGERR while busy or if running past LMEM. -/
  | dmaStageWrite (v : W64)
  /-- TRANSPOSE (R225): XPB descriptor: copies a 2-D window transposed through a named buffer. -/
  | transpose (d : DescRef)
  /-- STREAM (R231): MXA descriptor: streams rows against a loaded weight block on the named arrays. -/
  | stream (d : DescRef)
  /-- TAPS (R249): MXA descriptor: one-dimensional convolution by tap-shift feed. -/
  | taps (d : DescRef)
  /-- ARRAY_FLIP (R239): An array flips to the full shadow set as the next descriptor's first step enters. -/
  | arrayFlip (array : Nat)
  /-- FORCE7_WRITE (R253): Write of MXA_CFG.FORCE7 requesting a latency rederivation. -/
  | force7Write (v : W64)
  /-- PRODUCT (R285): MVP descriptor: matrix-vector product in passes with epilogue or accumulation. -/
  | product (d : DescRef)
  /-- RUN (R295): VEC descriptor: streams rows through an element program on a chain or gang. -/
  | run (d : DescRef)
  /-- TREDUCE (R321): VEC descriptor: reduces tile registers to a result or summary. -/
  | treduce (d : DescRef)
  /-- LREDUCE (R350): RDU descriptor: lane reduction of an LMEM window or tapped chain outputs. -/
  | lreduce (d : DescRef)
  /-- CREDUCE (R353): RDU descriptor: rank-ordered reduction of contributions through a slot window. -/
  | creduce (d : DescRef)
  /-- XREDUCE (R358): RDU descriptor: combines exact records and reads out the global norm. -/
  | xreduce (d : DescRef)
  /-- SCT_TAP (R361): An amax tap reports at completion and folds into its slot or is discarded. -/
  | sctTap (k : Nat)
  /-- SLOT_CFG_WRITE (R365): Write of SCT_SLOT_CFG, refused with CFGERR if invalid. -/
  | slotCfgWrite (v : W64)
  /-- SLOT_SCALE_WRITE (R365): Write of SCT_SLOT_SCALE, refused with CFGERR outside −126 to 127. -/
  | slotScaleWrite (v : W64)
  /-- REGISTER (R371): WVM descriptor: registers a region with slot A current. -/
  | registerRgn (d : DescRef)
  /-- RELEASE (R382): WVM descriptor: once unpinned and unfrozen, discards PEND and invalidates regions. -/
  | release (d : DescRef)
  /-- OPEN (R378): WVM descriptor: makes the non-current slots PEND for the next step, optionally filled. -/
  | openStep (d : DescRef)
  /-- COMMIT (R379): WVM descriptor: commits the step, or runs as SKIP under GUARD. -/
  | commit (d : DescRef)
  /-- SKIP (R379): WVM descriptor: skips the step, discarding PEND slots. -/
  | skip (d : DescRef)
  /-- PIN (R375): WVM descriptor: pins the selected version of a range of regions under a handle. -/
  | pin (d : DescRef)
  /-- UNPIN (R375): WVM descriptor: releases every pin of a handle. -/
  | unpin (d : DescRef)
  /-- THAW (R381): WVM descriptor: releases the freeze of both slots of regions. -/
  | thaw (d : DescRef)
  /-- WVM_STEP_WRITE (R387): Write of WVM_STEP, refused with CFGERR while WVM runs or a PEND slot exists. -/
  | wvmStepWrite (v : W64)
  /-- PUT (R424): TLK descriptor: writes local bytes to another core as WR packets, optionally teed. -/
  | put (d : DescRef)
  /-- RESHARD (R396): TLK descriptor: moves a distributed tensor to a new owner table and epoch. -/
  | reshard (d : DescRef)
  /-- LGUARD_WRITE (R400): Write of TLK_LGUARD, ignoring EN for a range running past LMEM. -/
  | lguardWrite (v : W64)
  /-- TRAINING_WORD (R406): A training word is received on a lane, advancing lock, configuration and width choice. -/
  | trainingWord (port lane : Nat) (mark : Nat) (good : Nat) (st : Nat)
  /-- TRAINING_TIMEOUT (R406): A training attempt exceeds 20 µs and fails; after three the port becomes FAILED. -/
  | trainingTimeout (port : Nat)
  /-- LANE_LOCK_LOSS (R405): TL_RXLOCK falls on a lane and the port retrains. -/
  | laneLockLoss (port lane : Nat)
  /-- ACK_TIMEOUT (R405): ACK has not advanced for 10 µs with flits unacknowledged, and the port retrains. -/
  | ackTimeout (port : Nat)
  /-- FLIT_DATA (R404): A DATA flit arrives; in order it is accepted with its ACK and credits, else discarded with a REPLAY request. -/
  | flitData (port : Nat) (f : FlitIn)
  /-- FLIT_IDLE (R404): An IDLE flit arrives carrying ACK and a credit return. -/
  | flitIdle (port : Nat) (f : FlitIn)
  /-- FLIT_REPLAY (R404): A REPLAY flit arrives and the sender resends buffered flits after its ACK. -/
  | flitReplay (port : Nat) (f : FlitIn)
  /-- NEGOTIATE (R417): The peer's NEGOTIATE packet arrives and the link version is agreed or the port fails. -/
  | negotiate (port : Nat) (p : Packet)
  /-- WR (R415): A WR packet arrives; it is forwarded, or checked and served and answered with WRACK. -/
  | wr (port : Nat) (p : Packet)
  /-- RD (R415): An RD packet arrives and is served with RDDATA or refused. -/
  | rd (port : Nat) (p : Packet)
  /-- AMO (R415): An AMO packet arrives and is performed indivisibly and answered with AMORSP. -/
  | amo (port : Nat) (p : Packet)
  /-- SIG (R173): A SIG packet arrives and the remote signal is translated and applied or dropped, answered by SIGACK. -/
  | sig (port : Nat) (p : Packet)
  /-- WRACK (R416): A WRACK response arrives, acknowledging a write or failing it with its status. -/
  | wrack (port : Nat) (p : Packet)
  /-- RDDATA (R416): An RDDATA response arrives, delivering read data or failing the request. -/
  | rddata (port : Nat) (p : Packet)
  /-- AMORSP (R416): An AMORSP response arrives with the old value or a failure. -/
  | amorsp (port : Nat) (p : Packet)
  /-- SIGACK (R416): A SIGACK arrives, freeing the held signal or counting a refusal. -/
  | sigack (port : Nat) (p : Packet)
  /-- RESP_TIMEOUT (R416): No response within RESP_TIMEOUT_US fails the request with LINK_DOWN. -/
  | respTimeout (tag : Nat)
  /-- ROUTE_HOLD_TIMEOUT (R414): A request held for an invalid route fails with LINK_DOWN after HOLD_US. -/
  | routeHoldTimeout (k : Nat)
  /-- TIME_SYNC_SEND (R422): A FOLLOW port's interval elapses and it sends TIME_SYNC. -/
  | timeSyncSend (port : Nat)
  /-- TIME_SYNC (R422): A TIME_SYNC arrives at a LEAD port and is answered with TIME_REPLY. -/
  | timeSync (port : Nat) (p : Packet)
  /-- TIME_REPLY (R422): A TIME_REPLY arrives and offset and delay are handed to TIME as a measurement. -/
  | timeReply (port : Nat) (p : Packet)
  /-- CLOSE (R433): A CLOSE packet arrives; the peer answers with CLOSE and marks its port CLOSED. -/
  | close (port : Nat) (p : Packet)
  /-- SWAP (R420): TLK_ROUTE_CMD SWAP makes the staged table active with a new route epoch, or is refused. -/
  | swap (epoch : Nat)
  /-- PORT_ENABLE (R406): Writing TLK_PORT_CTRLn.EN = 1 starts training of a port. -/
  | portEnable (port : Nat)
  /-- PORT_DISABLE (R433): Writing TLK_PORT_CTRLn.EN = 0 closes the port. -/
  | portDisable (port : Nat)
  /-- RETRAIN (R407): TLK_PORT_CTRLn.RETRAIN retrains a port keeping link state. -/
  | retrain (port : Nat)
  /-- TLK_COUNT_CLEAR (R435): A write to a TLK or HPORT counting register clears its counts. -/
  | tlkCountClear (page off : Nat)
  /-- HPP_RD (R427): An inbound HPP3 RD request is served through the offset map. -/
  | hppRd (ch : Nat) (q : HppReq)
  /-- HPP_WR (R427): An inbound HPP3 WR request with its beats is served through the offset map. -/
  | hppWr (ch : Nat) (q : HppReq) (beats : List HppBeat)
  /-- HPP_PEER (R427): An inbound PEER carries a link packet handled as if from a tether port. -/
  | hppPeer (ch : Nat) (q : HppReq) (p : Packet)
  /-- HPP_RESPONSE (R428): A response to an outbound HPP3 request arrives, completing or failing it. -/
  | hppResponse (ch tag status : Nat) (data : List Byte)
  /-- HPORT_TIMEOUT (R428): An outbound request without response within TIMEOUT_US fails with LINK_DOWN. -/
  | hportTimeout (ch tag : Nat)
  /-- HPP_CREDIT (R429): A credit pulse returns a request or beat credit on a channel. -/
  | hppCredit (ch : Nat) (beat : Bool)
  /-- HELLO (R432): The host's HELLO arrives and the HPP version and credits are agreed. -/
  | hello (word : Nat)
  /-- IMG_DATA (R430): An IMG_DATA message delivers words of the repair and fuse image. -/
  | imgData (words : List W32)
  /-- REG_RD (R431): A sideband REG_RD is served as an 8-byte control page read and answered with REG_RSP. -/
  | regRd (off : Nat)
  /-- REG_WR (R431): A sideband REG_WR is served as an 8-byte control page write and answered with REG_RSP. -/
  | regWr (off : Nat) (data : W64)
  /-- BEGIN (R438): SNAP descriptor: writes a FILLING header and makes a generation FILLING. -/
  | begin (d : DescRef)
  /-- JOURNAL (R442): SNAP descriptor: copies JOURNAL streams into the latched generation. -/
  | journal (d : DescRef)
  /-- TRICKLE (R443): SNAP descriptor: copies frozen region slots into the generation. -/
  | trickle (d : DescRef)
  /-- SNAP_CLOSE (R446): SNAP descriptor CLOSE: checks coverage, writes record, entries and a COMPLETE or ABANDONED header. -/
  | snapClose (d : DescRef)
  /-- DIGEST (R445): SNAP descriptor: computes a digest of bytes, writes or compares it. -/
  | digest (d : DescRef)
  /-- RESTORE (R448): SNAP descriptor: copies streams of a generation back and applies the STATE record. -/
  | restore (d : DescRef)
  /-- ABANDON (R439): SNAP descriptor: marks a FILLING generation ABANDONED. -/
  | abandon (d : DescRef)
  /-- SNAP_STREAM_WRITE (R436): Write of a SNAP stream register, refused with CFGERR if invalid or during a fill or restore. -/
  | snapStreamWrite (off : Nat) (v : W64)
  /-- MTBF_WRITE (R447): Write of SNAP_MTBF recomputes SNAP_ADVISE. -/
  | mtbfWrite (v : W64)
  /-- DVFS_POINT_WRITE (R458): Write of PWR_DVFS.POINT sets a new target, starting a change or refused with CFGERR. -/
  | dvfsPointWrite (v : W64)
  /-- LAT_TOL_WRITE (R462): Write of PWR_LAT_TOL, waking the core if the present state is now too deep. -/
  | latTolWrite (v : W64)
  /-- BLOCK_GATE (R463): A block idle for 1,024 cycles gates its clocks and its step leaves the declared load. -/
  | blockGate (unit : Nat)
  /-- REGULATOR_TIMEOUT (R468): No rail reaches power-good within 4 ms and the attempt fails with cause REGULATOR. -/
  | regulatorTimeout (rail : Nat)
  /-- MARCH_TEST_DONE (R197): The LMEM march tests and zero fill finish, with soft repairs applied or a failure. -/
  | marchTestDone (failing : List W64)
  /-- TPULSE_ARM (R475): Write of TIME_TPULSE arms NEXT for the next edge. -/
  | tpulseArm (v : W64)
  /-- TIME_MARK (R478): A write to TIME_MARK produces a MARK event. -/
  | timeMark (v : W64) (who : Nat)
  /-- TRACE_CFG_WRITE (R486): Write of TIME_TRACE_CFG; setting EN resets HEAD and TAIL. -/
  | traceCfgWrite (v : W64)
  /-- TRACE_HEAD_WRITE (R486): Write of TIME_TRACE_HEAD frees records, ignored if out of range. -/
  | traceHeadWrite (v : W64)
  /-- TRACE_RECORD_ACK (R479): A trace record write is acknowledged and TAIL advances past it. -/
  | traceRecordAck (ring : Nat)
  /-- QUIESCE_REQUEST (R22): Setting PG_CTRL.QREQ stops the block starting descriptors. -/
  | quiesceRequest (page : Nat)
  /-- QUIESCE_CLEAR (R22): Clearing PG_CTRL.QREQ lets unstarted descriptors start in original order. -/
  | quiesceClear (page : Nat)
  /-- PG_EN_WRITE (R510): Write of PG_CTRL.EN on an engine page quiesces it and keeps its drogue units gated, or reopens it. -/
  | pgEnWrite (page : Nat) (en : Bool)
  /-- RB_DATA_READ (R484): Read of PG_RB_DATA returns the cursor's word and advances it under AUTO. -/
  | rbDataRead (page : Nat)
  /-- RB_DATA_WRITE (R485): Write of PG_RB_DATA into a writable space of a quiesced page, else ERR. -/
  | rbDataWrite (page : Nat) (v : W64)
  /-- MBIST (R505): Intrusive wrapper instruction running the LMEM march test. -/
  | mbist (bank : Nat)
  /-- MBIST_DONE (R504): The wrapper's march test completes with DONE and FAIL results. -/
  | mbistDone (fail : Bool)
  /-- REGACC (R506): Wrapper update with GO performs one control page access as an inbound request. -/
  | regacc (v : W64) (go : Bool) (write : Bool) (off : Nat)
  /-- IMGREAD (R504): Wrapper instruction capturing one word of the applied image. -/
  | imgread (index : Nat)
  /-- REGISTER_WRITE (R21): Write of a register with no row of its own, applying to descriptors that start after it completes. -/
  | registerWrite (page off : Nat) (v : W64)
  /-- LMEM_ECC_ERROR (R192): An engine's LMEM read during a running descriptor meets an uncorrectable word, which is poisoned, logged, and its descriptor abandoned under R147. -/
  | lmemEccError (word cls : Nat) (d : DescRef)
  /-- RAIL_OUT_OF_BAND (R470): VDD_SRAM or VDD_RET leaves its band and CORE_START_STAT.RETAIN_V is cleared. -/
  | railOutOfBand (rail : Nat)
  /-- BUFFER_WAIT_START (R26): A descriptor waiting for a transposing buffer or staging area starts when it frees. -/
  | bufferWaitStart (d : DescRef)
  /-- MXA_START (R236): A checked MXA descriptor starts on all its arrays once shadow sets and buffers are free. -/
  | mxaStart (d : DescRef)
  /-- FWD_ROW (R304): A forwarded drain row with a matching tag is accepted by the chain's running RUN. -/
  | fwdRow (chain : Nat)
  /-- VEC_START (R324): A checked VEC descriptor starts when its chain or gang is free, reading carry-in and mask. -/
  | vecStart (d : DescRef)
  /-- TAPPED_RUN_START (R349): A tapped RUN starts once an LREDUCE naming its chain and tag is running with room. -/
  | tappedRunStart (d : DescRef)
  /-- CREDUCE_PIECE (R353): A slot counter reaches its value and the collective unit consumes the next piece, signalling a free. -/
  | creducePiece (d : DescRef)
  /-- OPEN_TAKE (R378): A region's non-current slot becomes free and a waiting OPEN takes it. -/
  | openTake (d : DescRef)
  /-- PIN_WAIT_START (R374): A descriptor whose pin would overflow a count starts once the count falls. -/
  | pinWaitStart (d : DescRef)
  /-- RESHARD_PUSH (R396): Preconditions are met; the epoch advances and own old blocks are pushed to new places. -/
  | reshardPush (d : DescRef)
  /-- RESHARD_ANNOUNCE (R396): Push writes are acknowledged and the arrival counter is signalled on every peer. -/
  | reshardAnnounce (d : DescRef)
  /-- RESHARD_COPY (R396): The arrival counter reaches its target and landing copies are moved into place. -/
  | reshardCopy (d : DescRef)
  /-- TEE_BLOCK_ACK (R441): A tee block's writes are acknowledged and its coverage bit is set, or a failure is counted. -/
  | teeBlockAck (k : Nat)
  /-- TRICKLE_REGION_DONE (R443): A region's trickle copy is acknowledged; its freeze is released and DONE set. -/
  | trickleRegionDone (region : Nat)
  /-- ZGATE_HALF_REQUEST (R466): A gated array's work turns dense and it requests the other half of its step. -/
  | zgateHalfRequest (array : Nat)
  /-- MVP_START (R287): MVP starts its next PRODUCT in the cycle after the weight read of the previous descriptor's last pass is granted. -/
  | mvpStart (d : DescRef)
  /-- CTX_START (R97): SEQ_CTX_CTRL START: a FREE context becomes READY at SEQ_CTX_PC with its start argument. -/
  | ctxStart
  /-- CTX_STOP (R97): SEQ_CTX_CTRL STOP: issue stops and the context becomes STOPPED after outstanding loads. -/
  | ctxStop
  /-- CTX_RESUME (R97): SEQ_CTX_CTRL RESUME: a STOPPED or FAULTED context continues at SEQ_CTX_PC. -/
  | ctxResume
  /-- CTX_KILL (R97): SEQ_CTX_CTRL KILL: the context becomes FREE as under EXIT. -/
  | ctxKill
  /-- ICACHE_FLUSH (R125): Write of SEQ_ICACHE.FLUSH invalidates the instruction cache as IFLUSH does. -/
  | icacheFlush
  /-- SPAWN_FAIL_CLEAR (R515): Any write to SEQ_SPAWN_FAIL clears its count. -/
  | spawnFailClear
  /-- DONE_Q_READ (R155): Read of RING_DONE_Q returns and removes the oldest notice and clears OVF. -/
  | doneQRead
  /-- VMAP_INV_GLOBAL (R167): SYNC_VMAP_INV with GLOBAL invalidates every translation of every context. -/
  | vmapInvGlobal
  /-- RSIG_STAT_CLEAR (R185): Any write to SYNC_RSIG_STAT clears its three counts. -/
  | rsigStatClear
  /-- LMEM_ARB_APPLY (R201): A written LMEM_ARB takes effect at the next frame boundary of each bank. -/
  | lmemArbApply
  /-- ECC_STAT_CLEAR (R202): Any write to LMEM_ECC_STAT clears both counts. -/
  | eccStatClear
  /-- FORCE7_APPLY (R253): At the next cycle with no MXA descriptor running, ARRAY_LAT and equaliser delays are derived again. -/
  | force7Apply
  /-- CLR_HIST (R365): SCT_SLOT_CMD CLR_HIST empties the slot's history. -/
  | clrHist
  /-- CLR_PEND (R365): SCT_SLOT_CMD CLR_PEND clears the slot's pending amax. -/
  | clrPend
  /-- SCT_STAT_CLEAR (R365): A write to SCT_STAT with CFGERR = 0 clears its counts. -/
  | sctStatClear
  /-- WVM_HOLD (R379): No write resolution remains; the hold begins and regions, SCT and step counts change in one cycle. -/
  | wvmHold
  /-- SNAP_LATCH_COPY (R438): After the hold, every SCT slot is copied into the STATE record. -/
  | snapLatchCopy
  /-- LGUARD_STAT_CLEAR (R400): A write to TLK_LGUARD_STAT with V = 0 clears DROPPED. -/
  | lguardStatClear
  /-- TIME_EXCHANGE_TIMEOUT (R422): A time exchange not completed in 100 µs is dropped. -/
  | timeExchangeTimeout
  /-- ROUTE_COPY (R435): TLK_ROUTE_CMD COPY copies the active table into STAGED. -/
  | routeCopy
  /-- ROUTE_CLEAR (R435): TLK_ROUTE_CMD CLEAR marks every staged entry invalid. -/
  | routeClear
  /-- IMG_END (R503): IMG_END completes the image, which is checked and applied or fails the start. -/
  | imgEnd
  /-- IMAGE_TIMEOUT (R503): No IMG_END within 100 ms of IMG_REQ fails the start with cause IMAGE. -/
  | imageTimeout
  /-- DETACH_REQ (R433): A sideband DETACH_REQ starts a live detach. -/
  | detachReq
  /-- DETACH (R433): HPORT_LIVE.CMD DETACH starts a live detach, quiescing pages in order. -/
  | detach
  /-- DETACH_COMPLETE (R433): Detach steps 2 to 6 finish; outputs clamp, DETACH_DONE is sent and the core enters P3. -/
  | detachComplete
  /-- DETACH_TIMEOUT (R433): DETACH_MS passes; running descriptors are abandoned and a forced detach completes. -/
  | detachTimeout
  /-- SNAP_STAT_CLEAR (R454): A write to SNAP_STAT with CFGERR = 0 clears its counts. -/
  | snapStatClear
  /-- PWR_HOLD (R461): PWR_CTRL HOLD wakes the core and keeps it in P0. -/
  | pwrHold
  /-- PWR_RELEASE (R460): PWR_CTRL RELEASE ends the hold. -/
  | pwrRelease
  /-- PWR_OFF (R460): PWR_CTRL OFF enters P3 if every engine page is quiesced, else sets CFGERR. -/
  | pwrOff
  /-- DVFS_STEP_DONE (R458): One operating-point step completes and the next step toward the target begins. -/
  | dvfsStepDone
  /-- P1_ENTRY (R460): Quiet lasts P1_AFTER and the core enters the deepest allowed state. -/
  | p1Entry
  /-- P2_ENTRY (R460): Quiet lasts P2_AFTER and the state choice is evaluated again, possibly entering P2 or P3. -/
  | p2Entry
  /-- WAKE_EXIT_DONE (R461): The exit latency from P1 or P2 completes and the core handles its wake event in P0. -/
  | wakeExitDone
  /-- DROGUE_ADMIT (R464): With no ramp running, the lowest-ranked waiting request is admitted if it fits the budget. -/
  | drogueAdmit
  /-- RAMP_DONE (R464): An admitted ramp ends and its block starts. -/
  | rampDone
  /-- LEND_OFFER (R467): Quiet lasts LEND_AFTER and the core offers unused budget on PL_AMT with PL_REQ. -/
  | lendOffer
  /-- PL_ACK_RISE (R467): PL_ACK rises while offered and the budget becomes lent. -/
  | plAckRise
  /-- PL_ACK_FALL (R467): PL_ACK falls, returning the lent budget. -/
  | plAckFall
  /-- RECLAIM_LATE (R467): PL_ACK stays high RECLAIM_US after PL_REQ fell and RECLAIM_LATE is set. -/
  | reclaimLate
  /-- UNDERVOLTAGE (R456): VIN_1V8 below 1.72 V for 0.5 µs sets UV, stops admissions and drops to point 0. -/
  | undervoltage
  /-- UV_RECOVER (R456): VIN_1V8 stays at or above 1.746 V for 10 µs and PWR returns to the set point. -/
  | uvRecover
  /-- POWER_LOSS (R456): VIN_1V8 below 1.60 V shuts the regulators and loses all state. -/
  | powerLoss
  /-- OVERVOLTAGE (R489): VIN_1V8 above 1.98 V for 1 µs shuts the regulators and leaves the core in P3. -/
  | overvoltage
  /-- POWER_ON (R488): VIN_1V8 rises through 1.60 V and the core enters power-on reset. -/
  | powerOn
  /-- PORST_ASSERT (R490): PORST_N falls and abandons whatever is running. -/
  | porstAssert
  /-- PORST_RELEASE (R468): PORST_N release starts a cold start. -/
  | porstRelease
  /-- WRST_RELEASE (R471): WRST_N release starts a warm start, escalated if retained state is invalid. -/
  | wrstRelease
  /-- WAKE_N (R492): A qualified low on WAKE_N starts a cold start from P3 or ends P1 or P2. -/
  | wakeN
  /-- START_CMD_WARM (R471): CORE_START_CMD WARM starts a warm start. -/
  | startCmdWarm
  /-- START_CMD_COLD (R468): CORE_START_CMD COLD starts a cold start. -/
  | startCmdCold
  /-- RAIL_POWER_GOOD (R468): Rails reach power-good and the cold start proceeds to the image exchange. -/
  | railPowerGood
  /-- COLD_START_RETRY (R469): One millisecond after a failed attempt, the cold start begins again at step 1. -/
  | coldStartRetry
  /-- PLL_LOCK (R468): The core PLL locks and the start proceeds to page reset and release of context 0. -/
  | pllLock
  /-- PLL_LOCK_TIMEOUT (R468): No PLL lock within 0.5 ms fails the start with cause PLL. -/
  | pllLockTimeout
  /-- TPULSE_EDGE (R475): A TPULSE rising edge measures the time error against an armed NEXT, or counts MISSED. -/
  | tpulseEdge
  /-- HOLDOVER_EXPIRE (R477): HOLDOVER_MS passes without an accepted measurement and LOCK is cleared. -/
  | holdoverExpire
  /-- TIME_STAT_CLEAR (R486): Any write to TIME_STAT clears MISSED and DISCARDED. -/
  | timeStatClear
  /-- TRACE_STAT_CLEAR (R486): Any write to TIME_TRACE_STAT clears its LOST count. -/
  | traceStatClear
  /-- WS_BYPASS (R504): Wrapper instruction selecting the bypass register. -/
  | wsBypass
  /-- WS_EXTEST (R505): Intrusive wrapper instruction driving outputs and capturing inputs. -/
  | wsExtest
  /-- WS_CLAMP (R505): Intrusive wrapper instruction holding outputs at boundary values. -/
  | wsClamp
  /-- WS_SAFE (R505): Intrusive wrapper instruction putting outputs at held levels. -/
  | wsSafe
  /-- WS_INTEST (R505): Intrusive wrapper instruction selecting internal scan chains. -/
  | wsIntest
  /-- TW_WRSTN (R504): TW_WRSTN low resets the wrapper instruction to WS_BYPASS. -/
  | twWrstn
  /-- REFCLK_STOP (R493): REFCLK stops outside P3 and the core's state becomes undefined until PORST_N. -/
  | refclkStop
deriving DecidableEq, Repr

end Sys2Proof
end

