-- ==== Sys2Proof/Config.lean ====
section
/-! DEFINITION. What an implementation fixes: the build parameters of Table 0.2 at their Herend values, and the free
values, which the spec leaves open and nothing in the model can evaluate. -/

namespace Sys2Proof.Config

/-- Resident thread contexts: CORE_BUILD2.SEQ_CONTEXTS. -/
def contexts : Nat := 1024
/-- Issue pipes: CORE_BUILD2.SEQ_PIPES. -/
def pipes : Nat := 4
/-- Rings: 32 per context (CORE_BUILD2.RING_COUNT). -/
def rings : Nat := 32768
/-- log2 of the physical counters: CORE_BUILD2.CTR_LOG2. -/
def ctrLog2 : Nat := 16
/-- Physical counters. -/
def counters : Nat := 65536
/-- Arrays built: CORE_BUILD0.ARRAYS. -/
def arrays : Nat := 4
/-- Cube-rows and cube-columns per array: CORE_BUILD0.ARRAY_SIDE. -/
def arraySide : Nat := 32
/-- Vector chains: CORE_BUILD0.VEC_CHAINS. -/
def chains : Nat := 4
/-- Lanes per chain: CORE_BUILD0.VEC_LANES. -/
def lanes : Nat := 512
/-- Tether ports: CORE_BUILD0.TLK_PORTS. -/
def ports : Nat := 4
/-- Host port channels: CORE_BUILD0.HPORT_CHANNELS. -/
def channels : Nat := 16
/-- LMEM banks: CORE_BUILD0.LMEM_BANKS. -/
def banks : Nat := 256
/-- Bank size in KiB: CORE_BUILD1.LMEM_BANK_KIB. -/
def bankKib : Nat := 768
/-- LMEM bytes: 192 MiB. -/
def lmemBytes : Nat := 0xC000000
/-- Rows of a bank: lines of 64 bytes. -/
def bankRows : Nat := 12288
/-- Transposing buffers: CORE_BUILD1.XPB_COUNT. -/
def xpbCount : Nat := 4
/-- Transposing buffer size in KiB: CORE_BUILD1.XPB_KIB. -/
def xpbKib : Nat := 256
/-- Drain accumulator words per array: CORE_BUILD1.DRN_ACC_KIB × 256. -/
def accWords : Nat := 524288
/-- MVP FP8 MAC per cycle: CORE_BUILD1.MVP_MACS8. -/
def mvpMacs8 : Nat := 8192

/-- Patch level that PG_VERSION.PATCH reports on every page; it changes no behaviour (R11). -/
opaque patch : Nat

/-- A fresh value that the spec leaves undefined: the argument is the count of free values taken so far. -/
opaque freeNat : Nat → Nat

/-- Bit `i` of the fresh value `n`: an undefined choice between two outcomes. -/
def freeBit (n : Nat) : Bool := freeNat n % 2 = 1

/-- Which code within the stated error a bounded function of the vector engine or of the drain epilogue gives: function code and
operand bits to a choice (log 16). -/
opaque transc : Nat → Nat → Nat

/-- The integer that RESCALE of an INT32 entry gives where C, or the sum, is no number: entry, C and contribution (R267, R369;
log 86). -/
opaque rescaled : Nat → Nat → Nat → Nat

/-- The scale exponent that a NaN in the history of a scale slot gives (R363; log 29). -/
opaque nanScale : Nat → Int

/-- Whether a write whose packet has these bytes is one of a RESHARD: its guards exempt it, and no field of the header says so
(R396, R398; log 88). -/
opaque reshardWrite : List Byte → Bool

end Sys2Proof.Config
end

