-- ==== Sys2Proof/Machine/Bits.lean ====
section
/-! DEFINITION. Bit fields, sign extension and byte order (R15): the one place where a register value is taken
apart into fields and put together again. Field positions are written (low bit, width). -/

namespace Sys2Proof.Machine

/-- The field of `w` bits that starts at bit `lo` of a number. -/
def bits (x lo w : Nat) : Nat := (x >>> lo) % 2 ^ w

/-- The field of `w` bits that starts at bit `lo` of a register value. -/
def fld (r : W64) (lo w : Nat) : Nat := bits r.toNat lo w

/-- Bit `i` of a register value. -/
def bitAt (r : W64) (i : Nat) : Bool := r.toNat.testBit i

/-- A number that is 1 for true. -/
def b2n (b : Bool) : Nat := if b then 1 else 0

/-- The sum of fields (low bit, width, value) as a number; fields do not overlap. -/
def packNat : List (Nat × Nat × Nat) → Nat
  | [] => 0
  | (lo, w, v) :: rest => ((v % 2 ^ w) <<< lo) + packNat rest

/-- A register value from its fields (low bit, width, value); every bit no field names reads zero (R16). -/
def pack (fs : List (Nat × Nat × Nat)) : W64 := BitVec.ofNat 64 (packNat fs)

/-- Takes the bits of `new` that `mask` selects and keeps the others of `old`: a write of a register whose other
bits are RO or RES0 (R15, R16). -/
def maskWrite (mask old new : W64) : W64 := (old &&& ~~~mask) ||| (new &&& mask)

/-- The mask of the fields (low bit, width). -/
def maskOf (fs : List (Nat × Nat)) : W64 := pack (fs.map fun p => (p.1, p.2, 2 ^ p.2 - 1))

/-- Every bit outside the fields (low bit, width) is zero: the RES0 rule for words checked at issue. -/
def onlyFields (r : W64) (fs : List (Nat × Nat)) : Bool := (r &&& ~~~(maskOf fs)) == 0#64

/-- The low `w` bits of `x` as a two's complement number. -/
def sext (w x : Nat) : Int :=
  let y := x % 2 ^ w
  if w ≠ 0 ∧ 2 ^ (w - 1) ≤ y then (y : Int) - (2 ^ w : Nat) else (y : Int)

/-- An integer reduced modulo 2^64. -/
def w64 (i : Int) : W64 := BitVec.ofInt 64 i

/-- The low `w` bits of `x`, sign-extended to 64 bits. -/
def sextW (w x : Nat) : W64 := w64 (sext w x)

/-- An integer reduced modulo 2^w. -/
def modInt (w : Nat) (i : Int) : Nat := (i % ((2 ^ w : Nat) : Int)).toNat

/-- A count that stays at its largest value: saturating counters of `w` bits. -/
def satAdd (w a b : Nat) : Nat := min (a + b) (2 ^ w - 1)

/-- A number from its little-endian bytes. -/
def leNat : List Byte → Nat
  | [] => 0
  | b :: bs => b.toNat + 256 * leNat bs

/-- The `n` little-endian bytes of a number. -/
def leBytes : Nat → Nat → List Byte
  | 0, _ => []
  | n + 1, v => BitVec.ofNat 8 v :: leBytes n (v / 256)

/-- A word from 8 little-endian bytes. -/
def leWord (bs : List Byte) : W64 := BitVec.ofNat 64 (leNat bs)

/-- The words of a byte string, 8 bytes each. -/
def leWords : Nat → List Byte → List W64
  | 0, _ => []
  | n + 1, bs => leWord (bs.take 8) :: leWords n (bs.drop 8)

/-- The little-endian bytes of a list of words. -/
def wordsBytes (ws : List W64) : List Byte := ws.flatMap fun w => leBytes 8 w.toNat

/-- The smallest multiple of `u` that is at least `n`. -/
def roundUp (n u : Nat) : Nat := (n + u - 1) / u * u

/-- Division rounded up. -/
def ceilDiv (n u : Nat) : Nat := (n + u - 1) / u

/-- `true` for the numbers of a list that are all multiples of `u`. -/
def aligned (u n : Nat) : Bool := n % u == 0

/-- Indices that wrap modulo 2^32 (ring heads and tails, R130; generations, R179). -/
def sub32 (a b : Nat) : Nat := (a + 2 ^ 32 - b % 2 ^ 32) % 2 ^ 32

/-- Addition modulo 2^32. -/
def add32 (a b : Nat) : Nat := (a + b) % 2 ^ 32

/-- The list of the numbers from `a` that are `n` in count. -/
def rangeFrom (a : Nat) : Nat → List Nat
  | 0 => []
  | n + 1 => a :: rangeFrom (a + 1) n

/-- The element at an index of a list, or a default past its end. -/
def nth {α : Type} (d : α) : List α → Nat → α
  | [], _ => d
  | x :: _, 0 => x
  | _ :: xs, n + 1 => nth d xs n

/-- A list with the element at one index replaced; past its end nothing changes. -/
def setNth {α : Type} (v : α) : List α → Nat → List α
  | [], _ => []
  | _ :: xs, 0 => v :: xs
  | x :: xs, n + 1 => x :: setNth v xs n

end Sys2Proof.Machine
end

