-- ==== Sys2Proof/Machine/Sparse.lean ====
section
/-! DEFINITION. Sparse storage: a list of (key, value) pairs in one canonical form, keys strictly rising and no value
equal to the one an unlisted key has, so that equal contents are equal data. Contexts, rings, counters, slots,
regions, routes, lane words and local memory are all held in it. -/

namespace Sys2Proof.Machine

/-- A sparse table: only the keys whose value differs from the table's default are listed. -/
abbrev SMap (α : Type) := List (Nat × α)

/-- The value at a key, `d` where the key is not listed. -/
def SMap.get {α : Type} (d : α) : SMap α → Nat → α
  | [], _ => d
  | (k, v) :: rest, n => if k = n then v else SMap.get d rest n

/-- The table without a key. -/
def SMap.erase {α : Type} : SMap α → Nat → SMap α
  | [], _ => []
  | (k, v) :: rest, n => if k = n then SMap.erase rest n else (k, v) :: SMap.erase rest n

/-- The table with a key listed, in key order. -/
def SMap.insert {α : Type} (v : α) : SMap α → Nat → SMap α
  | [], n => [(n, v)]
  | (k, w) :: rest, n =>
    if n < k then (n, v) :: (k, w) :: rest
    else if k = n then (n, v) :: rest
    else (k, w) :: SMap.insert v rest n

/-- The table after a write: writing the default removes the key. -/
def SMap.set {α : Type} [DecidableEq α] (d : α) (m : SMap α) (n : Nat) (v : α) : SMap α :=
  if v = d then SMap.erase m n else SMap.insert v m n

/-- Applies a function to the value at a key. -/
def SMap.upd {α : Type} [DecidableEq α] (d : α) (m : SMap α) (n : Nat) (f : α → α) : SMap α :=
  SMap.set d m n (f (SMap.get d m n))

/-- Applies a function to every listed value, dropping those that become the default. -/
def SMap.mapVal {α : Type} [DecidableEq α] (d : α) (f : Nat → α → α) : SMap α → SMap α
  | [] => []
  | (k, v) :: rest => SMap.set d (SMap.mapVal d f rest) k (f k v)

/-- The keys of a table lie above a bound, rise strictly, and no value is the default. -/
def SMap.wfFrom {α : Type} [DecidableEq α] (d : α) : Nat → SMap α → Bool
  | _, [] => true
  | lo, (k, v) :: rest => decide (lo ≤ k) && !(decide (v = d)) && SMap.wfFrom d (k + 1) rest

/-- The canonical form of a table. -/
def SMap.wf {α : Type} [DecidableEq α] (d : α) (m : SMap α) : Bool := SMap.wfFrom d 0 m

/-- The least number from `lo` on, below `lo + fuel`, that satisfies a test. -/
def firstFrom (p : Nat → Bool) (lo : Nat) : Nat → Option Nat
  | 0 => none
  | fuel + 1 => if p lo then some lo else firstFrom p (lo + 1) fuel

/-! ## Byte memory -/

/-- Byte memory: listed cells, every unlisted byte zero (the contents that cold start writes, R195). -/
abbrev Mem := List Host.Cell

/-- What an unlisted byte reads as: zero, the content that the cold start writes over all of LMEM (R195). -/
def Mem.unlisted : Byte := 0#8

/-- The byte at an address. -/
def Mem.get (m : Mem) (a : Nat) : Byte := SMap.get Mem.unlisted m a

/-- The memory after one byte is written. -/
def Mem.set (m : Mem) (a : Nat) (b : Byte) : Mem := SMap.set Mem.unlisted m a b

/-- Consecutive bytes from an address. -/
def Mem.read (m : Mem) (a n : Nat) : List Byte := (rangeFrom a n).map (Mem.get m)

/-- The memory after consecutive bytes are written from an address. -/
def Mem.write (m : Mem) (a : Nat) : List Byte → Mem
  | [] => m
  | b :: bs => Mem.write (Mem.set m a b) (a + 1) bs

/-- A little-endian number of `n` bytes. -/
def Mem.readNat (m : Mem) (a n : Nat) : Nat := leNat (Mem.read m a n)

/-- The canonical form: addresses strictly rising, no listed byte equal to what an unlisted one reads as. -/
def Memory.wf (m : Mem) : Bool := SMap.wf Mem.unlisted m

end Sys2Proof.Machine
end

