-- ==== Sys2Proof/Machine/State.lean ====
section
/-! DEFINITION. The state of the core as plain data: one structure per block, every register, queue, counter, memory and
mode that the spec gives it, the queue of waiting commands, and the state right after reset. -/

namespace Sys2Proof.Machine

/-! ## Reasons to stop -/

/-- Why the machine stops with a fault. -/
inductive Fault where
  /-- Raised by every command but PORST_ASSERT, PORST_RELEASE and POWER_LOSS while the state is undefined: REFCLK has
  stopped outside P3 and PORST_N has not yet been asserted (R493). Safe: the spec gives the state no value there. -/
  | stateUndefined
deriving DecidableEq, Repr

/-- Why a command is refused. -/
inductive Refusal where
  /-- Raised by an arm of exec whose command has no meaning yet. Safe: nothing is claimed of it. -/
  | notModelled (mnemonic : String)
deriving DecidableEq, Repr

/-! ## Pages: the common header (Table 22.1) -/

/-- The common header of one control page: what of it is storage. -/
structure PageHdr where
  fault : BitVec 20
  mask : BitVec 20
  first : Nat
  ftime : Nat
  intEn : BitVec 8
  en : Bool
  qreq : Bool
  rbWord : Nat
  rbItem : Nat
  rbSpace : Nat
  rbAuto : Bool
  rbErr : Bool
deriving DecidableEq, Repr

/-- A page header after reset (Table 22.2). -/
def PageHdr.reset : PageHdr :=
  { fault := 0, mask := 0, first := 0, ftime := 0, intEn := 0, en := true, qreq := false
    rbWord := 0, rbItem := 0, rbSpace := 0, rbAuto := false, rbErr := false }

/-! ## SEQ -/

/-- Context states (Table 4.1). -/
inductive CtxState where
  | free | ready | waiting | faulted | stopped
deriving DecidableEq, Repr

/-- What a wait with reason MEMORY waits for. -/
inductive MemWait where
  /-- results of earlier loads or atomics into these registers (R99) -/
  | regs (rs : List Nat)
  /-- one of the 8 loads -/
  | loadSlot
  /-- one of the 16 unacknowledged stores and atomics -/
  | storeSlot
  /-- every earlier store and atomic acknowledged (FENCE.ST and releases, R105, R106) -/
  | stores
  /-- every access of the context (EXIT, R96) -/
  | all
  /-- a place in the hold queue of remote signals (R174) -/
  | sigQueue
deriving DecidableEq, Repr

/-- Wait reasons with the kept condition (Table 4.4). -/
inductive Wait where
  | none
  /-- virtual counter, its translation (`none`: untranslatable) and the threshold -/
  | counter (v : Nat) (p : Option Nat) (thr : Nat)
  | summary
  | ringSpace (ring need : Nat)
  | memory (m : MemWait)
  | fetch (line : Nat)
  | time (deadline : Nat)
  | barrier (line target : Nat)
  | flush
deriving DecidableEq, Repr

/-- Kinds of outstanding access of a context. -/
inductive AccKind where
  | load | store | amo
deriving DecidableEq, Repr

/-- What an outstanding access has come back with. -/
inductive AccRes where
  | pending
  | done (v : Nat)
  | failed (code : Nat)
deriving DecidableEq, Repr

/-- One outstanding access of a context (R99). -/
structure Acc where
  tag : Nat
  /-- the PC of its instruction -/
  pc : W64
  kind : AccKind
  rd : Nat
  size : Nat
  sx : Bool
  addr : Nat
  res : AccRes
  /-- its data have been written to rd -/
  returned : Bool
  /-- it has been acknowledged -/
  acked : Bool
deriving DecidableEq, Repr

/-- A summary FIFO entry: VALUE and META (R108). -/
structure Summary where
  value : Nat
  meta' : Nat
deriving DecidableEq, Repr

/-- A thread context (R93) with the accesses it has outstanding and its wait. -/
structure Ctx where
  regs : SMap W64
  preds : BitVec 8
  pc : W64
  st : CtxState
  wait : Wait
  fault : Nat
  late : Bool
  sums : List Summary
  staging : SMap W64
  startArg : W64
  accs : List Acc
  nextTag : Nat
  /-- TIME at which the present timed wait began, and what the watchdog had reached before it (R97, R182) -/
  waitFrom : Nat
  waitedBefore : Nat
  /-- cycles for which the round robin still passes the context over (YIELD) -/
  passOver : Nat
  /-- a STOP waits for outstanding loads -/
  stopping : Bool
  /-- a KILL waits for outstanding accesses -/
  ending : Bool
  /-- stopped by the SEQ page's quiesce request, to resume when it clears (Table 22.5) -/
  quiesceStop : Bool
  /-- SEQ_CTX_PC was written while a wait is kept: the end of the wait leaves the PC where it is (R97) -/
  moved : Bool
  /-- bridle lines: the target generation of the latest BARARR (R178) -/
  barTarget : SMap (Option Nat)
deriving DecidableEq, Repr

/-- A FREE context: everything zero (R94). -/
def Ctx.idle : Ctx :=
  { regs := [], preds := 0, pc := 0, st := .free, wait := .none, fault := 0, late := false, sums := []
    staging := [], startArg := 0, accs := [], nextTag := 0, waitFrom := 0, waitedBefore := 0, passOver := 0
    stopping := false, ending := false, quiesceStop := false, moved := false, barTarget := [] }

/-- The SEQ block. -/
structure SeqSt where
  ctxs : SMap Ctx
  bootPc : W64
  ctxSel : Nat
  regIdx : Nat
  notify : W64
  misses : Nat
  sumDropped : Nat
  spawnFail : Nat
  /-- valid lines of the instruction cache: line number and its 8 words -/
  icache : SMap (List W64)
  /-- cached lines whose words in LMEM have changed and that go on as they were: line and what LMEM holds (R101) -/
  icacheKept : SMap (List W64)
  /-- words delivered for a line fetched from outside the core, by global address -/
  fillBuf : List Host.Cell
  /-- last issued context of each pipe (R98) -/
  lastIssued : SMap Nat
deriving DecidableEq, Repr

/-! ## RING -/

/-- Where a fetched descriptor stands (R139). -/
inductive Phase where
  /-- halted, and its slots in host memory are being read again for a RESUME -/
  | refetch
  /-- fetched; not yet issued -/
  | waiting
  /-- its issue checks passed; its start waits for a resource, admission or a quiesce request -/
  | checked
  /-- started -/
  | running
  /-- its work is done; it completes when its writes are acknowledged and its summaries entered -/
  | worked
  /-- completed; its signal waits for earlier descriptors of the ring (R142) -/
  | completed
deriving DecidableEq, Repr

/-- A weight set (R72): cells at bytes 2 × (128 k + n), scales at 0x8000 + 8 n + q. The cells of the latest load at or past
`kmax` rows or `nmax` columns hold nothing the spec states: free values counted from `free`. -/
structure WSet where
  bytes : Mem
  kmax : Nat
  nmax : Nat
  free : Nat
deriving DecidableEq, Repr

/-- A weight set written zero (R518). -/
def WSet.zero : WSet := ⟨[], 128, 128, 0⟩

/-- A descriptor in flight. -/
structure Desc where
  idx : Nat
  /-- slots it occupies: 1 or 3 (R131) -/
  slots : Nat
  /-- its 8 or 24 words as sampled at fetch -/
  words : List W64
  phase : Phase
  /-- step 2 reached: WAIT_CTR and SIG_CTR are translated (R166) -/
  atStep2 : Bool
  waitP : Option Nat
  sigP : Option Nat
  tReady : Option Nat
  tStart : Option Nat
  tDone : Option Nat
  /-- its signal was held under R142 -/
  held : Bool
  /-- retired by SKIP or SKIP_SIGNAL: neither record, event nor notice (R148) -/
  silent : Bool
  /-- structures read at issue: LMEM offset and byte (R517) -/
  cap : Mem
  /-- register values, scales and versions sampled at start, by the keys of the engine's file -/
  samp : SMap Int
  /-- bytes that reads outside the core returned, by global address -/
  rbuf : List Host.Cell
  /-- pins it holds: (region, slot), slot 0 A and 1 B (R374) -/
  pins : List (Nat × Nat)
  /-- regions to whose PEND slot it holds a write resolution (R376) -/
  writes : List Nat
  /-- resolved name ranges (R372): offset, length and the slot's base, for its reads and for its writes -/
  rmap : List (Nat × Nat × Nat)
  wmap : List (Nat × Nat × Nat)
  /-- transposing buffers it holds (R26) -/
  bufs : List Nat
  /-- it holds the staging area (R222) -/
  staged : Bool
  /-- summaries it has produced that are not yet in the FIFO (R109), and its place in the order of completion once all else is
  over; 0 before -/
  sums : List Summary
  due : Nat
  /-- amax taps that report at completion: slot, FP32 code rounded up and finite flag (R361) -/
  taps : List (Nat × Nat × Bool)
  /-- SCT_GEN as it stood at the start (R361) -/
  gen : Nat
  /-- RDU_EPOCH.CUR as it stood at the start, which its writes to other cores carry (R393) -/
  lEpoch : Nat
  /-- arrays it is on: array and 1 loading or loaded, 2 streaming, 3 its last step has entered (R236, R239) -/
  arrs : List (Nat × Nat)
  /-- the mask read at the start, bit n for unit or element n (R247, R306) -/
  mask : Nat
  /-- chains it holds, the first of a gang first (R293) -/
  chs : List Nat
  /-- forwarded rows it has accepted: active lanes as FP32 codes (R304) -/
  took : List (List (Nat × Nat))
  /-- what tapped RUNs have fed it: element index and FP64 code; and how many have passed their last row (R349) -/
  fed : List (Nat × Nat)
  fedRuns : Nat
  /-- a CREDUCE: running values of the present segment as FP32 codes, the exact squared norm with the flags of R344 in
  bits 0 to 2, the largest magnitude so far, and the lowest non-finite rank -/
  part : List Nat
  norm : Int
  flags : Nat
  peak : Nat
  badRank : Option Nat
  /-- progress within its work -/
  prog : Nat
  /-- bytes of this core that it writes once its writes to other cores are acknowledged, by global address, with those that keep
  some of their bits and the requestor class (R67) -/
  later : SMap Byte
  laterKept : List Nat
  laterCls : Nat
  /-- bytes of this core that other engines have written since it started: offset and what the byte held before (R30); and those
  that it reads as they were -/
  raced : SMap Byte
  seen : SMap Byte
  /-- which descriptor wrote such a byte last: ring and index (R29) -/
  racedBy : SMap (Nat × Nat)
  /-- arrays whose weight sets have changed since it started, with both sets as they were (R72) -/
  wraced : List (Nat × WSet × WSet)
  /-- carry slots that it writes with `later` (R67, R314) -/
  laterCarry : SMap Nat
  /-- bytes on other cores that count when all are acknowledged (Table 8.11) -/
  uncounted : Nat
  /-- bytes that it has written (Table 20.5) -/
  wrote : Nat
deriving DecidableEq, Repr

/-- A ring (R126) and what RING keeps of it. -/
structure Ring where
  en : Bool
  hostfed : Bool
  prio : Bool
  cls : Nat
  log2 : Nat
  base : Nat
  head : Nat
  tail : Nat
  halted : Bool
  abandoned : Bool
  cfgErr : Bool
  dbErr : Bool
  fault : Nat
  fidx : Nat
  tsEn : Bool
  tsAddr : Nat
  /-- descriptors fetched and not retired, oldest first -/
  descs : List Desc
  /-- bytes of slots in host memory that have been read, by global address -/
  rbuf : List Host.Cell
  /-- SETIDX commands that have taken effect: a slot read made before one brings nothing after it (R139) -/
  era : Nat
deriving DecidableEq, Repr

/-- A ring after reset (Tables 5.9 to 5.13). -/
def Ring.reset : Ring :=
  { en := false, hostfed := false, prio := false, cls := 0, log2 := 4, base := 0, head := 0, tail := 0
    halted := false, abandoned := false, cfgErr := false, dbErr := false, fault := 0, fidx := 0
    tsEn := false, tsAddr := 0, descs := [], rbuf := [], era := 0 }

/-- The RING block. -/
structure RingSt where
  rings : SMap Ring
  sel : Nat
  /-- notices: (ring, index), oldest first; at most 64 (R155) -/
  doneQ : List (Nat × Nat)
  doneOvf : Bool
  /-- the ring after the one last taken by each class (R143) -/
  lastTaken : SMap Nat
  /-- descriptors with summaries whose work and writes are over, so far: their order is the order of completion (R28) -/
  dues : Nat
deriving DecidableEq, Repr

/-! ## SYNC -/

/-- A physical counter (R159, R163). -/
structure Ctr where
  value : Nat
  poisoned : Bool
deriving DecidableEq, Repr

def Ctr.zero : Ctr := ⟨0, false⟩

/-- SYNC_VMAP and SYNC_CTX_WDOG of one context (Tables 6.9, 6.10). -/
structure CtxMap where
  en : Bool
  base : Nat
  len : Nat
  cfgErr : Bool
  limit : Nat
deriving DecidableEq, Repr

def CtxMap.reset : CtxMap := ⟨false, 0, 0, false, 0⟩

/-- A remote signal (Table 6.3) held or in flight. -/
structure RSig where
  lcn : Nat
  job : Nat
  ctr : Nat
  inc : Nat
  epoch : Nat
  tRaise : Nat
  /-- sent, and waiting for its SIGACK under this tag (R416) -/
  sent : Option Nat
deriving DecidableEq, Repr

/-- A remote signal that has arrived, and COMPAT may hold it until its time (R176). -/
structure InSig where
  src : Nat
  job : Nat
  ctr : Nat
  inc : Nat
  epoch : Nat
  tRaise : Nat
  /-- it came in the 1.2 form: no epochs and no T_RAISE -/
  untimed : Bool
  /-- the counter it translated to on arrival (R166), when held by COMPAT -/
  target : Nat
deriving DecidableEq, Repr

/-- Bridle line states (Table 6.5). -/
inductive LineState where
  | disabled | idle | arrived | hold | release
deriving DecidableEq, Repr

/-- A bridle line (Table 6.16). -/
structure Line where
  en : Bool
  localCount : Nat
  hold : Nat
  st : LineState
  input : Bool
  stray : Bool
  gen : Nat
  arrivals : Nat
  /-- REFCLK cycles spent in HOLD -/
  held : Nat
deriving DecidableEq, Repr

def Line.reset : Line :=
  { en := false, localCount := 1, hold := 8, st := .disabled, input := false, stray := false, gen := 0, arrivals := 0
    held := 0 }

/-- A watch (Table 6.17). -/
structure Watch where
  thresh : Nat
  ctr : Nat
  armed : Bool
  hit : Bool
deriving DecidableEq, Repr

def Watch.reset : Watch := ⟨0, 0, false, false⟩

/-- The SYNC block. -/
structure SyncSt where
  ctrs : SMap Ctr
  compat : Bool
  wdog : Nat
  ctxSel : Nat
  maps : SMap CtxMap
  ctrSel : Nat
  satCtr : Nat
  misCtr : Nat
  eccCtr : Nat
  satV : Bool
  misV : Bool
  eccV : Bool
  jobSel : Nat
  /-- job map: CTX with bit 16 VALID (Table 6.14) -/
  jobs : SMap Nat
  stale : Nat
  nojob : Nat
  refused : Nat
  epochMin : Nat
  /-- translation cache: key context × 65,536 + virtual counter, value entry word -/
  tcache : SMap (Option Nat)
  held : List RSig
  compatHeld : List InSig
  barSel : Nat
  lines : SMap Line
  watches : SMap Watch
  /-- TIME at which the present quiet spell began; `none` while not quiet (R184) -/
  quietSince : Option Nat
deriving DecidableEq, Repr

/-! ## TIME -/

/-- A trace ring (Table 20.8). -/
structure Trace where
  base : Nat
  cfg : W64
  head : Nat
  tail : Nat
  lost : Nat
  ovf : Bool
  /-- records dropped since the last record written -/
  lostNow : Nat
  seq : Nat
  /-- records written whose write is not yet acknowledged -/
  unacked : Nat
deriving DecidableEq, Repr

def Trace.reset : Trace :=
  { base := 0, cfg := 0x00007FFA0FFFFF0C, head := 0, tail := 0, lost := 0, ovf := false, lostNow := 0, seq := 0
    unacked := 0 }

/-- The TIME block. -/
structure TimeSt where
  count : Nat
  frac : Nat
  /-- ns that have passed since the latest REFCLK edge, in P0 (R474) -/
  sub : Nat
  rate : Nat
  cfg : W64
  next : Nat
  nextV : Bool
  lock : Bool
  missed : Nat
  discarded : Nat
  lastE : Int
  /-- correction still to be removed, in 2^-32 ns (R476) -/
  pendingFix : Int
  /-- ns still to be removed by advancing at half rate (R476) -/
  slowLeft : Nat
  /-- consecutive measurements within 20 ns (R477) -/
  good : Nat
  /-- count at the previous accepted measurement -/
  lastMeas : Option Nat
  /-- the last 16 measurements: stamp, e, δ (Table 20.5) -/
  meas : List (Nat × Int × Int)
  sel : Nat
  traces : SMap Trace
  /-- records for LMEM made while it could not be written (P1, P2, a warm start): ring, address and bytes -/
  waiting : List (Nat × Nat × List Byte)
deriving DecidableEq, Repr

/-! ## LMEM -/

/-- What the check bits of an 8-byte word say (R190 to R192). -/
inductive WordErr where
  | ok | single | double | poison
deriving DecidableEq, Repr

/-- Repairs and latency of a bank (Table 7.11). -/
structure Bank where
  rowsUsed : Nat
  colsUsed : Nat
  soft : Bool
  /-- next row to scrub, and whether it has finished its rows in this pass -/
  scrubRow : Nat
  scrubDone : Bool
deriving DecidableEq, Repr

def Bank.reset : Bank := ⟨0, 0, false, 0, false⟩

/-- The LMEM block. -/
structure LmemSt where
  mem : Mem
  /-- words whose check bits are not clean, by word number (offset / 8) -/
  ecc : SMap WordErr
  /-- corrected words waiting for their write-back -/
  wbQueue : List Nat
  eccWb : Bool
  scrubEn : Bool
  scrubInterval : Nat
  arb : W64
  arbPending : Option W64
  arbErr : Bool
  ceCount : Nat
  ueCount : Nat
  logWord : Nat
  logClass : Nat
  logV : Bool
  injWord : Nat
  injBits : Nat
  injArm : Bool
  passes : Nat
  scrubLate : Bool
  /-- cycles for which the present scrub pass has run (R194) -/
  passCycles : Nat
  hard : Nat
  softCount : Nat
  bankSel : Nat
  banks : SMap Bank
  repairs : List W64
  stalls : SMap Nat
deriving DecidableEq, Repr

/-! ## Requests that leave the core -/

/-- Who made a request that left the core, and so what its response does. -/
inductive Who where
  /-- a load, store or atomic of a context, by its access tag -/
  | access (ctx tag : Nat)
  /-- an instruction cache fill of a line (global address / 64) -/
  | fill (line : Nat)
  /-- a slot access by RING, in an era of the ring -/
  | slot (ring era : Nat)
  /-- an access of a descriptor -/
  | desc (ring idx : Nat)
  /-- a tee block, by its number (R441) -/
  | tee (id : Nat)
  /-- the timestamp record of a descriptor -/
  | stamp (ring idx : Nat)
  /-- a trace record of a trace ring -/
  | trace (ring : Nat)
  /-- a held remote signal -/
  | signal
  /-- an inbound request that host memory serves, by its number -/
  | serve (id : Nat)
deriving DecidableEq, Repr

/-- Kinds of request. -/
inductive ReqKind where
  | rd | wr | amo | sig
deriving DecidableEq, Repr

/-- A request made here that has no response yet. -/
structure Req where
  tag : Nat
  kind : ReqKind
  /-- global address; for host memory the offset in this core's host memory aperture -/
  addr : Nat
  len : Nat
  data : List Byte
  vc : Nat
  who : Who
  rEpoch : Nat
  lEpoch : Nat
  /-- port 0 to 3, 4 the host fabric, 5 host memory -/
  egress : Nat
  /-- TIME at which it was first transmitted, or at which its hold began -/
  since : Nat
  /-- it has been transmitted (R416) -/
  sent : Bool
deriving DecidableEq, Repr

/-- A packet in a transmitter. A packet in transit occupies a receive buffer until it leaves: port, channel and credits of it
(R410). -/
structure QPkt where
  pkt : Packet
  held : Option (Nat × Nat × Nat)
deriving DecidableEq, Repr

/-- A DATA flit in the replay buffer: its sequence number, how often it has been replayed, and its payload (R404, R405). -/
structure BufFlit where
  seq : Nat
  count : Nat
  data : List Byte
deriving DecidableEq, Repr

/-- A flit as it is sent (Table 17.1); `data` is the payload of a DATA flit. -/
structure TxFlit where
  ft : Nat
  cvc : Nat
  seq : Nat
  ack : Nat
  cred : Nat
  data : List Byte
deriving DecidableEq, Repr

/-- An outbound PEER request: 1,024 × channel + tag, the TIME at which it was sent, and its packet (R425). -/
structure PeerReq where
  tag : Nat
  since : Nat
  pkt : Packet
deriving DecidableEq, Repr

/-- An inbound request to the host memory aperture that waits for host memory: where it came from (port 0 to 3, 4 the fabric,
5 + c channel c of the host port), its packet, the data that has come back and the first failure. -/
structure Proxy where
  id : Nat
  via : Nat
  pkt : Packet
  cells : List Host.Cell
  status : Nat
deriving DecidableEq, Repr

/-! ## TLK -/

/-- Port states (Table 17.13). -/
inductive PortState where
  | down | train | negotiate | up | closed | failed
deriving DecidableEq, Repr

/-- A tether port. -/
structure Port where
  en : Bool
  v12 : Bool
  role : Nat
  st : PortState
  width : Nat
  ver : Nat
  peer : Nat
  good : Nat
  corr : Nat
  uncorr : Nat
  replays : Nat
  /-- attempts failed in a row; a retrain keeps link state -/
  attempts : Nat
  retraining : Bool
  /-- TIME at which the present attempt began (R406) -/
  trainFrom : Nat
  /-- per lane: consecutive MARK words found -/
  marks : SMap Nat
  /-- STATE of the training words that are sent, and their GOOD once it is CONFIG (Table 17.2) -/
  txTrain : Nat
  sentGood : Nat
  /-- CONFIG has been received, with this GOOD; END has been received -/
  peerCfg : Bool
  peerGood : Nat
  peerEnd : Bool
  /-- the first active lane of a degraded port -/
  base : Nat
  /-- consecutive uncorrectable codewords (R405) -/
  badRun : Nat
  /-- next sequence number to send, last in-order flit received, last ACK, and the ACK of the last flit sent -/
  txSeq : Nat
  rxSeq : Nat
  lastAck : Nat
  ackSent : Nat
  /-- TIME from which ACK has not advanced with flits unacknowledged (R405) -/
  ackFrom : Nat
  /-- a retrain is over, and the peer's IDLE flit has not come from which this side replays -/
  resync : Bool
  /-- a damaged flit was met and its REPLAY sent; later flits are discarded until the expected one -/
  rxLost : Bool
  /-- flits sent and not acknowledged -/
  replay : List BufFlit
  /-- packets waiting for the transmitter, in order, and the bytes of packets that have left it for flits to come -/
  txq : List QPkt
  txbuf : List Byte
  /-- the flits sent since the codeword stream began, in order -/
  wire : List TxFlit
  /-- credits held for DATA, SIGNAL, CTRL, SNAP (R410) -/
  credits : SMap Nat
  /-- credits of receive buffers freed and not yet returned, by channel (R410) -/
  owed : SMap Nat
  /-- bytes of the received packet stream that do not yet make a packet -/
  rx : List Byte
  /-- packets of which a flit is not acknowledged, with the number of their last flit -/
  flying : List (Nat × QPkt)
  /-- packets of DATA and SNAP sent while both waited, modulo 8 (R410) -/
  turn : Nat
  /-- bit v: the packet of channel v sent last was made here, so a waiting transit packet is next (R410) -/
  turns : Nat
  /-- an exchange of time messages in progress: t1; and the TIME of the last TIME_SYNC (R422) -/
  exch : Option Nat
  syncAt : Option Nat
  /-- this side has sent CLOSE and waits for its peer's (R433 step 5) -/
  closing : Bool
deriving DecidableEq, Repr

/-- A port after reset (Tables 17.12 to 17.14). -/
def Port.reset : Port :=
  { en := false, v12 := false, role := 0, st := .down, width := 0, ver := 0, peer := 0xFFFFF, good := 0
    corr := 0, uncorr := 0, replays := 0, attempts := 0, retraining := false, trainFrom := 0, marks := [], txTrain := 0
    sentGood := 0, peerCfg := false, peerGood := 0, peerEnd := false, base := 0, badRun := 0, txSeq := 0, rxSeq := 4095
    lastAck := 4095, ackSent := 4095, ackFrom := 0, resync := false, rxLost := false
    replay := [], txq := [], txbuf := [], wire := [], credits := [], owed := [], rx := [], flying := [], turn := 0, turns := 0
    exch := none, syncAt := none
    closing := false }

/-- A local guard (TLK_LGUARD, R398). -/
structure Guard where
  en : Bool
  base : Nat
  lines : Nat
deriving DecidableEq, Repr

def Guard.off : Guard := ⟨false, 0, 0⟩

/-- A route entry after reset: EGRESS 0, ALT 6, VALID 0 (Table 17.15). -/
def routeReset : Nat := 0x3000000

/-- The TLK block. -/
structure TlkSt where
  cfg : W64
  ports : SMap Port
  routeEpoch : Nat
  routeSel : Nat
  routeTable : Bool
  active : SMap Nat
  staged : SMap Nat
  cfgErr : Bool
  noroute : Nat
  loop : Nat
  timeCfg : Nat
  /-- outstanding requests on ports and the fabric (R416), and requests held for a route (R414) -/
  out : List Req
  heldReqs : List Req
  /-- requests beyond the 4,096 outstanding (R416) -/
  waitReqs : List Req
  nextTag : Nat
  /-- inbound requests that wait for host memory, and the number of the next -/
  proxies : List Proxy
  nextProxy : Nat
  rshBytes : Nat
  guardSel : Nat
  guards : SMap Guard
  guardDropped : Nat
  guardLcn : Nat
  guardV : Bool
deriving DecidableEq, Repr

/-! ## HPORT -/

/-- HPORT states (Table 17.18). -/
inductive HpState where
  | down | negotiate | up | detaching | detached
deriving DecidableEq, Repr

/-- An item on a response lane (R498): channel, the header of Table 21.5, and the 64 bytes of a data item, none with a bare header. -/
structure RspItem where
  ch : Nat
  header : W32
  data : List Byte
deriving DecidableEq, Repr

/-- The HPORT block. -/
structure HportSt where
  timeoutUs : Nat
  major : Nat
  minor : Nat
  channels : Nat
  tags : Nat
  maxLines : Nat
  peer : Bool
  st : HpState
  timeouts : Nat
  errRsp : Nat
  inbRefused : Nat
  detachMs : Nat
  last : Nat
  /-- a detach has begun at this TIME -/
  detachFrom : Option Nat
  /-- outbound requests awaiting a response; the tag is 1,024 × channel + tag -/
  out : List Req
  /-- requests and beats the host has granted per channel: key 2c for requests, 2c + 1 for beats -/
  credits : SMap Nat
  /-- write-data beats of sent requests that wait for a credit, per channel (R429) -/
  due : SMap Nat
  /-- items sent on the response lanes, latest last, and those that wait for the lanes to run (R498, R499) -/
  responses : List RspItem
  rspWait : List RspItem
  /-- what the host holds of the core's grants, keyed as above, and what has been freed and not returned (R429) -/
  grant : SMap Nat
  owed : SMap Nat
  /-- PEER requests sent to the fabric, those of them that await a response, and packets that wait for credits of their channel -/
  peers : List PeerReq
  peerOut : List PeerReq
  peerWait : List QPkt
  /-- a detach has come to step 6: nothing is sent, and inbound requests are refused (R433) -/
  refusing : Bool
  /-- sideband messages sent, latest last (Table 17.10) -/
  sideband : List (List W32)
deriving DecidableEq, Repr

/-! ## RDU -/

/-- The RDU block (Tables 14.9 to 14.12). -/
structure RduSt where
  epoch : Nat
  /-- RDU_TAPn bits [17:0] -/
  taps : SMap Nat
  nonfinStep : Bool
  nonfinSrc : Nat
  nonfinV : Bool
  pieces : Nat
  /-- cycles in PIECE_WAIT -/
  pwait : Nat
deriving DecidableEq, Repr

/-! ## CORE: starts -/

/-- Where the core stands between power-up and running (R456, R468, Tables 19.6 and 19.7). -/
inductive StartPhase where
  /-- VIN_1V8 below 1.60 V -/
  | unpowered
  /-- power-on reset: PORST_N low, or powered and PORST_N not yet released -/
  | powerOn
  /-- P3: only WAKE_N is seen -/
  | p3
  /-- rails down for 1 ms after a failed attempt -/
  | retry
  /-- a cold start is in progress: step 1 to 4, or 5 while its BASE step waits -/
  | cold (step : Nat)
  /-- a warm start is in progress: step 2 or 3, or 4 while its BASE step waits -/
  | warm (step : Nat)
  /-- started -/
  | running
  /-- an intrusive wrapper instruction has taken the core: it answers only the wrapper until PORST_N (R505) -/
  | wrapper
  /-- REFCLK has stopped outside P3: the state is undefined until PORST_N (R493) -/
  | undefined
deriving DecidableEq, Repr

/-- The start registers of the CORE page and what the start sequence keeps. -/
structure CoreSt where
  phase : StartPhase
  present : Nat
  irqRoute : W64
  /-- CORE_START_STAT (Table 19.17) -/
  kind : Nat
  retainV : Bool
  fails : Nat
  cause : Nat
  p3Cause : Bool
  durUs : Nat
  /-- ns of the present series before the present attempt -/
  durBefore : Nat
  /-- TIME at which the present start began: 0 for a cold start -/
  startedAt : Nat
  /-- TIME at which the present step of a cold start began (R468, R503) -/
  stepFrom : Nat
  /-- image words received in step 2, and the image as applied -/
  imgWords : List W32
  image : List W32
  /-- the host's HELLO has been received in this cold start -/
  helloSeen : Bool
  dieId : W64
  /-- start attempts, latest first: CORE_START_STAT and stamp (Table 20.5) -/
  attempts : List (Nat × Nat)
  /-- a warm start waits for a COMMIT or SKIP hold to end (R471) -/
  warmWaits : Bool
deriving DecidableEq, Repr

/-! ## PWR -/

/-- A request to the drogue with what it was made under (R463, R472): 1 to 12 as the units below; 13 to 16 the second half of
an array's step, 17 to 20 the first half (R466). -/
structure PwrReq where
  unit : Nat
  /-- TIME at which it was made -/
  since : Nat
  step : Nat
  rank : Nat
  /-- PWR_BUDGET.AMPS and PWR_SLEW as taken when it was made (R472) -/
  amps : Nat
  slew : Nat
deriving DecidableEq, Repr

/-- The PWR block: registers, the drogue, the envelope and the power state. Steps, budgets and the declared load count
0.125 A. Units of the drogue: 0 BASE, 1 to 4 arrays, 5 to 8 chains, 9 MVP, 10 RDU, 11 MOVE, 12 DVFS (Table 19.5). -/
structure PwrSt where
  latTol : Nat
  cfg : W64
  held : Bool
  point : Nat
  cur : Nat
  busy : Bool
  /-- a downward step is in progress (R458) -/
  down : Bool
  slew : Nat
  step : W64
  prio : Nat
  budget : W64
  /-- 0 P0, 1 P1, 2 P2 -/
  state : Nat
  /-- an exit from P1 or P2 is in progress, for this wake event (Table 19.4) -/
  waking : Option Nat
  /-- commands that wait for P0 or for the end of a warm start (R175, R461) -/
  wakeCmds : List Instr
  wakeDeferred : Bool
  uv : Bool
  /-- an undervoltage excursion is in progress: no admissions, point 0 -/
  uvNow : Bool
  reclaimLate : Bool
  cfgErr : Bool
  /-- 0 HELD, 1 OFFERED, 2 LENT, 3 RECLAIMING -/
  lend : Nat
  lent : Nat
  plReq : Bool
  plAmt : Nat
  /-- PL_AMT has stood for a REFCLK cycle (R497) -/
  amtStable : Bool
  plAck : Bool
  /-- TIME at which PL_REQ fell, while a reclaim waits for PL_ACK -/
  reclaimFrom : Option Nat
  /-- TIME from which a new LEND_AFTER of quiet is counted -/
  offerFrom : Nat
  /-- requests waiting for admission, oldest first, and the one that ramps -/
  queue : List PwrReq
  ramp : Option PwrReq
  /-- TIME at which that ramp ends (R464) -/
  rampEnd : Nat
  /-- ungated units with the step that each has been admitted for; of unit 12, an upward step whose ramp has ended -/
  ungated : SMap (Option Nat)
  /-- arrays that run on half their step (R466) -/
  half : SMap Bool
  decl : Nat
  deferNs : Nat
deriving DecidableEq, Repr

/-! ## Wrapper (R504 to R506) -/

/-- The test wrapper: its instruction register and data registers. -/
structure WrapSt where
  instr : Nat
  mbistGo : Bool
  mbistDone : Bool
  mbistFail : Bool
  mbistBank : Nat
  accOff : Nat
  accWrite : Bool
  accStatus : Nat
  accData : W64
  imgIndex : Nat
  imgWord : Nat
  /-- the bypass bit; the boundary register's output cells, in the order of `PinCell`, and its input cells, BAR_IN and then PL_ACK;
  and what outputs show while the functional state is undefined (R504, R505) -/
  bypass : Bool
  bndOut : Nat
  bndIn : Nat
  undef : Nat
deriving DecidableEq, Repr

/-! ## DMA and XPB -/

/-- The DMA block (Tables 8.8 to 8.11). -/
structure DmaSt where
  cfg : W64
  stage : W64
  stageErr : Bool
  permRange : Bool
  bytes : Nat
  padSkip : Nat
deriving DecidableEq, Repr

/-- The XPB block (Table 8.13). A buffer is held by a descriptor (`Desc.bufs`), and what it holds is visible to nobody
after its holder (R224): the bytes that the holder has put into its lines, keyed 262,144 × buffer + 512 × line + place; 256 where
it has put none. -/
structure XpbSt where
  tiles : Nat
  cells : SMap Nat
deriving DecidableEq, Repr

/-! ## WVM -/

/-- The state of a region's non-current slot (R370). -/
inductive Other where
  | empty | prev | pend
deriving DecidableEq, Repr

/-- A parameter region (R370, Tables 15.10 and 15.11). Pins and write resolutions are held by descriptors and handles. -/
structure Rgn where
  valid : Bool
  aBase : Nat
  bBase : Nat
  len : Nat
  kind : Bool
  trickle : Bool
  /-- slot B is current -/
  curB : Bool
  other : Other
  frozenA : Bool
  frozenB : Bool
  firstA : Nat
  firstB : Nat
  /-- the slot that the latching COMMIT froze, until it is thawed (R443) -/
  latSlot : Option Nat
deriving DecidableEq, Repr

def Rgn.reset : Rgn :=
  { valid := false, aBase := 0, bBase := 0, len := 0, kind := false, trickle := false, curB := false, other := .empty
    frozenA := false, frozenB := false, firstA := 0, firstB := 0, latSlot := none }

/-- A pin handle (R375, Table 15.12). -/
structure PinH where
  first : Nat
  count : Nat
  valid : Bool
  step : Nat
  /-- the pinned slots: (region, slot) -/
  slots : List (Nat × Nat)
deriving DecidableEq, Repr

def PinH.reset : PinH := ⟨0, 0, false, 0, []⟩

/-- The WVM block. -/
structure WvmSt where
  opt : Nat
  batch : Nat
  sel : Nat
  pinSel : Nat
  rgns : SMap Rgn
  handles : SMap PinH
  cfgErr : Bool
  guarded : Nat
  commits : Nat
  skips : Nat
  snapOpt : Nat
  snapGen : Bool
  snapV : Bool
  /-- a COMMIT or SKIP that waits for write resolutions to end: ring and index (R379 step 1) -/
  wants : Option (Nat × Nat)
  /-- the hold is in force for this COMMIT or SKIP (R379 step 2) -/
  hold : Option (Nat × Nat)
deriving DecidableEq, Repr

/-! ## MXA, FEED, DRN and VEC -/

/-- An array with its feeder and its drain. -/
structure MxaArr where
  act : WSet
  shd : WSet
  steps : Nat
  lat : Nat
  spare : Nat
  eq : Nat
  elems : Nat
  nonfin : Nat
  /-- it stalls for a shadow load, and the cycles in which it has (R239) -/
  stalled : Bool
  lstall : Nat
  /-- gated cubes of each of its last 64 steps since it began to run on half its step, latest first (R466) -/
  gates : List Nat
  /-- latency of the last bank from which each cube-row has read, 0 before (Table 20.5) -/
  bankLat : SMap Nat
deriving DecidableEq, Repr

def MxaArr.reset : MxaArr := ⟨.zero, .zero, 0, 0, 0, 0, 0, 0, false, 0, [], []⟩

/-- The MXA and FEED blocks. -/
structure MxaSt where
  arrays : SMap MxaArr
  zgEn : Bool
  force7 : Bool
  /-- a write to FORCE7 has not taken effect yet (R253) -/
  f7Wait : Bool
  gated : Nat
  /-- cycles in which streams X0, X1, W0 and W1 alternated (R232) -/
  alts : SMap Nat
deriving DecidableEq, Repr

/-- The drains: the accumulators as the bytes of their aperture (R70). -/
structure DrnSt where
  acc : Mem
deriving DecidableEq, Repr

/-- A drain row on its way to a chain (R271): its active lanes as FP32 codes. -/
structure FwdRow where
  array : Nat
  chain : Nat
  /-- row group of the descriptor's streamed rows -/
  group : Nat
  ring : Nat
  idx : Nat
  tag : Nat
  lanes : List (Nat × Nat)
deriving DecidableEq, Repr

/-- The MVP block. -/
structure MvpSt where
  passes : Nat
  nonfin : Nat
  wstall : Nat
deriving DecidableEq, Repr

/-! ## SCT -/

/-- A slot of the scale tracker (R360, Tables 14.15 to 14.17). -/
structure SctSlot where
  cfg : W64
  /-- X as its 8-bit code -/
  x : Nat
  good : Nat
  /-- committed amax values as FP32 codes, newest first -/
  hist : List Nat
  amax : Nat
  taps : Nat
  fin : Bool
deriving DecidableEq, Repr

def SctSlot.reset : SctSlot :=
  { cfg := 0x180007D001010040, x := 0, good := 0, hist := [], amax := 0, taps := 0, fin := true }

/-- The SCT block. -/
structure SctSt where
  gen : Nat
  sel : Nat
  slots : SMap SctSlot
  late : Nat
  losstap : Nat
  nonfin : Nat
  cfgErr : Bool
  /-- taps held by a quiesce request (Table 22.5): slot, code, finite flag and generation -/
  held : List (Nat × Nat × Bool × Nat)
deriving DecidableEq, Repr

/-- The vector engine: the tile registers as the bytes of their aperture (R71). -/
structure VecSt where
  tiles : Mem
  /-- carry slots: key 2048 × chain + 512 × slot + lane -/
  carry : SMap Nat
  /-- drain rows not accepted yet, oldest first -/
  fwd : List FwdRow
  anyMask : Nat
  permRange : Bool
  /-- rows that left S7, by chain -/
  rows : SMap Nat
  nonfin : Nat
  sums : Nat
  /-- cycles in which a chain waited for an LMEM grant -/
  lstalls : SMap Nat
  /-- what the OR of R322 shows of cells that a clear of the tile registers leaves set: a defect, which no command makes or mends -/
  stuck : Nat
deriving DecidableEq, Repr

/-! ## SNAP -/

/-- A snapshot stream (R436, Table 18.9) and what SNAP keeps of its copy in the FILLING generation. -/
structure Stream where
  cfg : W64
  src : W64
  genA : W64
  genB : W64
  tag : Nat
  done : Bool
  /-- digest terms of the blocks written, by block (R445, R446) -/
  digs : SMap Nat
deriving DecidableEq, Repr

def Stream.reset : Stream := ⟨0, 0, 0, 0, 0, false, []⟩

/-- A tee block in the tee buffer: its writes are outstanding, or have all been answered (R440, R441). -/
structure Tee where
  /-- number of the tee, and the layout epoch that its writes carry (R393) -/
  id : Nat
  lEpoch : Nat
  stream : Nat
  block : Nat
  tag : Nat
  len : Nat
  digest : Nat
  failed : Bool
deriving DecidableEq, Repr

/-- The SNAP block (Tables 18.7 to 18.11) with the latch of R438. -/
structure SnapSt where
  cfg : W64
  hdrA : W64
  hdrB : W64
  /-- generation states: 0 EMPTY, 1 FILLING, 2 COMPLETE, 3 ABANDONED -/
  stA : Nat
  stB : Nat
  latched : Bool
  batchC : Nat
  stepA : Nat
  stepB : Nat
  /-- recorded at the latch: BATCH after the commit, TIME, RDU_EPOCH and SCT_GEN -/
  latBatch : Nat
  latTime : Nat
  latEpoch : Nat
  latGen : Nat
  /-- the copy of the SCT slots into the STATE record is still to be made -/
  latCopy : Bool
  sel : Nat
  streams : SMap Stream
  tees : List Tee
  /-- number of the next tee -/
  teeNext : Nat
  teefail : Nat
  teeIdle : Nat
  xfreeze : Nat
  cfgErr : Bool
  rsState : Nat
  skew : Bool
  mismatch : Bool
  rsStream : Nat
  batchSaved : Nat
  /-- cost of the FILLING generation in ns (R447) -/
  costNs : Nat
  lastUs : Nat
  mtbf : Nat
deriving DecidableEq, Repr

/-! ## Events and free values -/

/-- A stamped event (Table 20.1). -/
structure Event where
  stamp : Nat
  kind : Nat
  page : Nat
  d0 : W64
  d1 : W64
  /-- a DONE event without TS_REQ: only for rings with ALLDONE -/
  onlyAll : Bool
deriving DecidableEq, Repr

/-! ## The core -/

/-- Everything in the core but the queue of commands. -/
structure Chip where
  pages : SMap PageHdr
  seq : SeqSt
  ring : RingSt
  sync : SyncSt
  time : TimeSt
  lmem : LmemSt
  tlk : TlkSt
  hport : HportSt
  rdu : RduSt
  core : CoreSt
  pwr : PwrSt
  wrap : WrapSt
  dma : DmaSt
  xpb : XpbSt
  wvm : WvmSt
  mxa : MxaSt
  drn : DrnSt
  mvp : MvpSt
  sct : SctSt
  vec : VecSt
  snap : SnapSt
  /-- events not yet offered to the trace rings -/
  events : List Event
  /-- pages whose PG_FAULT_FIRST was loaded in the present command (R481) -/
  firsts : List Nat
  /-- requests made in the present command that have not reached a transmitter -/
  outbox : List Req
  /-- free values taken so far: the model's own field, not the spec's -/
  free : Nat
deriving DecidableEq, Repr

/-- The state of the machine: the core and the commands that wait, first in first out. -/
structure State where
  chip : Chip
  pending : List Instr
deriving DecidableEq, Repr

/-! ## Reset (the values of the register summary; R94, R456, log 1) -/

/-- The SEQ block after reset: context 0 is READY at SEQ_BOOT_PC, every other context FREE. -/
def SeqSt.reset : SeqSt :=
  { ctxs := [(0, { Ctx.idle with st := .ready })], bootPc := 0, ctxSel := 0, regIdx := 0, notify := 0, misses := 0
    sumDropped := 0, spawnFail := 0, icache := [], icacheKept := [], fillBuf := [], lastIssued := [] }

def RingSt.reset : RingSt := { rings := [], sel := 0, doneQ := [], doneOvf := false, lastTaken := [], dues := 0 }

def SyncSt.reset : SyncSt :=
  { ctrs := [], compat := false, wdog := 0x989680, ctxSel := 0, maps := [], ctrSel := 0, satCtr := 0, misCtr := 0
    eccCtr := 0, satV := false, misV := false, eccV := false, jobSel := 0, jobs := [], stale := 0, nojob := 0
    refused := 0, epochMin := 0, tcache := [], held := [], compatHeld := [], barSel := 0, lines := []
    watches := [], quietSince := none }

def TimeSt.reset : TimeSt :=
  { count := 0, frac := 0, sub := 0, rate := 0x1400000000, cfg := 0xBB807D003E800, next := 0, nextV := false, lock := false
    missed := 0, discarded := 0, lastE := 0, pendingFix := 0, slowLeft := 0, good := 0, lastMeas := none, meas := []
    sel := 0, traces := [], waiting := [] }

def LmemSt.reset : LmemSt :=
  { mem := [], ecc := [], wbQueue := [], eccWb := true, scrubEn := true, scrubInterval := 0x1000
    arb := 0x2C688242124, arbPending := none, arbErr := false, ceCount := 0, ueCount := 0, logWord := 0, logClass := 0
    logV := false, injWord := 0, injBits := 0, injArm := false, passes := 0, scrubLate := false, passCycles := 0
    hard := 0, softCount := 0, bankSel := 0, banks := [], repairs := [], stalls := [] }

def TlkSt.reset : TlkSt :=
  { cfg := 0xF100064003E8, ports := [], routeEpoch := 0, routeSel := 0, routeTable := false, active := [], staged := []
    cfgErr := false, noroute := 0, loop := 0, timeCfg := 0x3E8, out := [], heldReqs := [], waitReqs := [], nextTag := 0
    proxies := [], nextProxy := 0
    rshBytes := 0, guardSel := 0, guards := [], guardDropped := 0
    guardLcn := 0, guardV := false }

def HportSt.reset : HportSt :=
  { timeoutUs := 0x7D0, major := 0, minor := 0, channels := 0, tags := 0, maxLines := 0, peer := false, st := .down
    timeouts := 0, errRsp := 0, inbRefused := 0, detachMs := 0x64, last := 0, detachFrom := none, out := []
    credits := [], due := [], responses := [], rspWait := [], grant := [], owed := [], peers := [], peerOut := [], peerWait := [], refusing := false
    sideband := [] }

def RduSt.reset : RduSt :=
  { epoch := 0, taps := [], nonfinStep := false, nonfinSrc := 0, nonfinV := false, pieces := 0, pwait := 0 }

def CoreSt.reset : CoreSt :=
  { phase := .powerOn, present := 0, irqRoute := 0, kind := 1, retainV := false, fails := 0, cause := 0
    p3Cause := false, durUs := 0, durBefore := 0, startedAt := 0, stepFrom := 0, imgWords := [], image := [], helloSeen := false
    dieId := 0, attempts := [], warmWaits := false }

def PwrSt.reset : PwrSt :=
  { latTol := 0x3E8, cfg := 0x00114014_00C807D0, held := false, point := 3, cur := 3, busy := false, down := false, slew := 0xC8
    step := 0x00501810_30488024, prio := 0x2C688, budget := 0x15C640, state := 0, waking := none, wakeCmds := []
    wakeDeferred := false, uv := false, uvNow := false, reclaimLate := false, cfgErr := false, lend := 0, lent := 0
    plReq := false, plAmt := 0, amtStable := true, plAck := false, reclaimFrom := none, offerFrom := 0, queue := [], ramp := none
    rampEnd := 0, ungated := [], half := [], decl := 0, deferNs := 0 }

def WrapSt.reset : WrapSt :=
  { instr := 0, mbistGo := false, mbistDone := false, mbistFail := false, mbistBank := 0, accOff := 0, accWrite := false
    accStatus := 0, accData := 0, imgIndex := 0, imgWord := 0, bypass := false, bndOut := 0
    bndIn := 0, undef := 0 }

def DmaSt.reset : DmaSt := { cfg := 0x10F, stage := 0, stageErr := false, permRange := false, bytes := 0, padSkip := 0 }

def WvmSt.reset : WvmSt :=
  { opt := 0, batch := 0, sel := 0, pinSel := 0, rgns := [], handles := [], cfgErr := false, guarded := 0, commits := 0
    skips := 0, snapOpt := 0, snapGen := false, snapV := false, wants := none, hold := none }

def MxaSt.reset : MxaSt := { arrays := [], zgEn := true, force7 := false, f7Wait := false, gated := 0, alts := [] }

def SctSt.reset : SctSt :=
  { gen := 0, sel := 0, slots := [], late := 0, losstap := 0, nonfin := 0, cfgErr := false, held := [] }

def VecSt.reset : VecSt :=
  { tiles := [], carry := [], fwd := [], anyMask := 0xF, permRange := false, rows := [], nonfin := 0, sums := 0, lstalls := [], stuck := 0 }

def SnapSt.reset : SnapSt :=
  { cfg := 0xFFFFF, hdrA := 0, hdrB := 0, stA := 0, stB := 0, latched := false, batchC := 0, stepA := 0, stepB := 0
    latBatch := 0, latTime := 0, latEpoch := 0, latGen := 0, latCopy := false, sel := 0, streams := [], tees := [], teeNext := 0
    teefail := 0, teeIdle := 0, xfreeze := 0, cfgErr := false, rsState := 0, skew := false, mismatch := false
    rsStream := 0, batchSaved := 0, costNs := 0, lastUs := 0, mtbf := 0 }

/-- The core right after PORST_N has fallen: power-on reset. -/
def Chip.reset : Chip :=
  { pages := [], seq := .reset, ring := .reset, sync := .reset, time := .reset, lmem := .reset, tlk := .reset
    hport := .reset, rdu := .reset, core := .reset, pwr := .reset, wrap := .reset, dma := .reset, xpb := ⟨0, []⟩
    wvm := .reset, mxa := .reset, drn := ⟨[]⟩, mvp := ⟨0, 0, 0⟩, sct := .reset, vec := .reset, snap := .reset
    events := [], firsts := [], outbox := [], free := 0 }

/-- The machine right after reset: the core in power-on reset with PORST_N low, and no command waiting. -/
def State.reset : State := { chip := .reset, pending := [] }

end Sys2Proof.Machine
end

