-- ==== Sys2Proof/Machine/Num.lean ====
section
/-! DEFINITION. Exact numbers, the element formats and the rounding of Number Formats, Rounding and Special Values:
decoding a bit pattern, exact arithmetic on the decoded values, and the one rounding function that every conversion,
every FP64 instruction of the sequencer and every engine uses (R38 to R54, R516). -/

namespace Sys2Proof.Machine

/-- A value as arithmetic sees it: (-1)^neg × m × 2^e with a signed zero for m = 0, an infinity, or NaN
(every NaN input is a quiet NaN without payload, R39). -/
inductive XNum where
  | fin (neg : Bool) (m : Nat) (e : Int)
  | inf (neg : Bool)
  | nan
deriving DecidableEq, Repr

/-- The number +0. -/
def XNum.zero : XNum := .fin false 0 0

/-- The number +1. -/
def XNum.one : XNum := .fin false 1 0

/-- An integer as a number; 0 is +0. -/
def XNum.ofInt (i : Int) : XNum := .fin (decide (i < 0)) i.natAbs 0

/-- Neither NaN nor infinite. -/
def XNum.isFinite : XNum → Bool
  | .fin _ _ _ => true
  | _ => false

/-- NaN. -/
def XNum.isNaN : XNum → Bool
  | .nan => true
  | _ => false

/-- A zero of either sign. -/
def XNum.isZero : XNum → Bool
  | .fin _ m _ => m == 0
  | _ => false

/-- The sign bit; NaN counts as positive (the core carries no NaN sign, R39). -/
def XNum.sign : XNum → Bool
  | .fin n _ _ => n
  | .inf n => n
  | .nan => false

/-- Negation; NaN stays NaN. -/
def XNum.neg : XNum → XNum
  | .fin n m e => .fin (!n) m e
  | .inf n => .inf (!n)
  | .nan => .nan

/-- The magnitude. -/
def XNum.abs : XNum → XNum
  | .fin _ m e => .fin false m e
  | .inf _ => .inf false
  | .nan => .nan

/-- m × 2^(e − lo) for lo ≤ e, with the sign. -/
def scaledInt (neg : Bool) (m : Nat) (e lo : Int) : Int :=
  let v : Int := ((m <<< (e - lo).toNat : Nat) : Int)
  if neg then -v else v

/-- Exact addition. An exact zero sum is −0 only for two zeros (or more) of negative sign, else +0: IEEE 754 under
round to nearest. -/
def XNum.add : XNum → XNum → XNum
  | .nan, _ => .nan
  | _, .nan => .nan
  | .inf a, .inf b => if a = b then .inf a else .nan
  | .inf a, _ => .inf a
  | _, .inf b => .inf b
  | .fin n1 m1 e1, .fin n2 m2 e2 =>
    let lo := min e1 e2
    let s := scaledInt n1 m1 e1 lo + scaledInt n2 m2 e2 lo
    if s = 0 then .fin (n1 && n2) 0 0 else .fin (decide (s < 0)) s.natAbs lo

/-- Exact subtraction. -/
def XNum.sub (a b : XNum) : XNum := XNum.add a b.neg

/-- Exact multiplication; infinity times zero is NaN. -/
def XNum.mul : XNum → XNum → XNum
  | .nan, _ => .nan
  | _, .nan => .nan
  | .inf a, .inf b => .inf (a != b)
  | .inf a, .fin n m _ => if m = 0 then .nan else .inf (a != n)
  | .fin n m _, .inf b => if m = 0 then .nan else .inf (n != b)
  | .fin n1 m1 e1, .fin n2 m2 e2 => .fin (n1 != n2) (m1 * m2) (e1 + e2)

/-- A number times a power of two. -/
def XNum.scale (k : Int) : XNum → XNum
  | .fin n m e => .fin n m (e + k)
  | x => x

/-- A quotient with more than enough bits for any rounding of the core: at least 128 significant bits and a last bit
that is set when the division leaves a remainder. -/
def XNum.div : XNum → XNum → XNum
  | .nan, _ => .nan
  | _, .nan => .nan
  | .inf _, .inf _ => .nan
  | .inf a, .fin n _ _ => .inf (a != n)
  | .fin n _ _, .inf b => .fin (n != b) 0 0
  | .fin n1 m1 e1, .fin n2 m2 e2 =>
    if m2 = 0 then (if m1 = 0 then .nan else .inf (n1 != n2))
    else if m1 = 0 then .fin (n1 != n2) 0 0
    else
      let k := 130 + Nat.log2 m2 - Nat.log2 m1
      let q := (m1 <<< k) / m2
      let r := (m1 <<< k) % m2
      .fin (n1 != n2) (2 * q + (if r = 0 then 0 else 1)) (e1 - e2 - (k : Int) - 1)

/-- The integer square root by bits: `acc` has the bits above `i` decided. -/
def isqrtFrom (n : Nat) : Nat → Nat → Nat
  | 0, acc => acc
  | i + 1, acc =>
    let t := acc + 2 ^ i
    isqrtFrom n i (if t * t ≤ n then t else acc)

/-- The largest number whose square is at most `n`. -/
def isqrt (n : Nat) : Nat := isqrtFrom n (Nat.log2 n / 2 + 1) 0

/-- A square root with more than enough bits for any rounding of the core; the last bit is set when it is inexact.
The root of a negative number is NaN and the root of −0 is −0 (IEEE 754). -/
def XNum.sqrt : XNum → XNum
  | .nan => .nan
  | .inf n => if n then .nan else .inf false
  | .fin n m e =>
    if m = 0 then .fin n 0 0
    else if n then .nan
    else
      let k := 260 - Nat.log2 m
      let k := if (e - (k : Int)) % 2 = 0 then k else k + 1
      let v := m <<< k
      let s := isqrt v
      .fin false (2 * s + (if s * s = v then 0 else 1)) ((e - (k : Int)) / 2 - 1)

/-- Comparison of two numbers; `none` when either is NaN. +0 equals −0. -/
def XNum.cmp : XNum → XNum → Option Ordering
  | .nan, _ => none
  | _, .nan => none
  | .inf a, .inf b => some (if a = b then .eq else if a then .lt else .gt)
  | .inf a, .fin _ _ _ => some (if a then .lt else .gt)
  | .fin _ _ _, .inf b => some (if b then .gt else .lt)
  | .fin n1 m1 e1, .fin n2 m2 e2 =>
    let lo := min e1 e2
    some (compare (scaledInt n1 m1 e1 lo) (scaledInt n2 m2 e2 lo))

/-- a < b; false when either is NaN. -/
def XNum.lt (a b : XNum) : Bool := XNum.cmp a b == some .lt

/-- a ≤ b; false when either is NaN. -/
def XNum.le (a b : XNum) : Bool := XNum.cmp a b == some .lt || XNum.cmp a b == some .eq

/-- a = b; false when either is NaN. -/
def XNum.eq (a b : XNum) : Bool := XNum.cmp a b == some .eq

/-- The minimum: NaN if either operand is NaN; −0 is below +0 (Table 4.8). -/
def XNum.min (a b : XNum) : XNum :=
  match XNum.cmp a b with
  | none => .nan
  | some .lt => a
  | some .gt => b
  | some .eq => if a.sign then a else b

/-- The maximum: NaN if either operand is NaN; −0 is below +0 (Table 4.8). -/
def XNum.max (a b : XNum) : XNum :=
  match XNum.cmp a b with
  | none => .nan
  | some .lt => b
  | some .gt => a
  | some .eq => if a.sign then b else a

/-- floor(log2 |x|) of a nonzero finite number. -/
def XNum.expo : XNum → Int
  | .fin _ m e => e + (Nat.log2 m : Int)
  | _ => 0

/-! ## Rounding modes -/

/-- Rounding modes (Table 2.6). -/
inductive Round where
  | rne | rtz | rup | rdn | sr
deriving DecidableEq, Repr

/-- Rounding mode codes; 0b101 to 0b111 are no mode (R49). -/
def Round.ofCode : Nat → Option Round
  | 0 => some .rne
  | 1 => some .rtz
  | 2 => some .rup
  | 3 => some .rdn
  | 4 => some .sr
  | _ => none

/-- Whether a truncated magnitude is raised to the next one: `a` the truncated magnitude, `rem` of the `s` bits cut
off, `r` the 24-bit random value of stochastic rounding (Table 2.6, R50). -/
def roundsUp (md : Round) (neg : Bool) (a rem s r : Nat) : Bool :=
  match md with
  | .rne => decide (2 ^ s < 2 * rem) || (decide (2 * rem = 2 ^ s) && decide (a % 2 = 1))
  | .rtz => false
  | .rup => !neg && decide (rem ≠ 0)
  | .rdn => neg && decide (rem ≠ 0)
  | .sr =>
    let t := if 24 ≤ s then rem >>> (s - 24) else rem <<< (24 - s)
    decide (2 ^ 24 ≤ t + r)

/-- The magnitude m × 2^e rounded to a multiple of 2^q, as that multiple. -/
def roundTo (md : Round) (r : Nat) (neg : Bool) (m : Nat) (e q : Int) : Nat :=
  if q ≤ e then m <<< (e - q).toNat
  else
    let s := (q - e).toNat
    let a := m >>> s
    if roundsUp md neg a (m % 2 ^ s) s r then a + 1 else a

/-- A number rounded to an integer in a mode; NaN gives `none`, infinities give `none`. -/
def XNum.toInt? (md : Round) (r : Nat) : XNum → Option Int
  | .fin n m e =>
    let k : Int := ((roundTo md r n m e 0 : Nat) : Int)
    some (if n then -k else k)
  | _ => none

/-! ## Floating-point formats (Table 2.3) -/

/-- A floating-point format: field widths, bias, its special codes and its largest finite value. -/
structure FFmt where
  frac : Nat
  expBits : Nat
  bias : Int
  /-- infinities and NaNs at the largest exponent field (IEEE shape) -/
  ieee : Bool
  /-- the canonical NaN of Table 2.4, where the format has one -/
  nan : Option Nat
  /-- the code of the largest finite magnitude -/
  maxCode : Nat
deriving DecidableEq, Repr

def fp64 : FFmt := ⟨52, 11, 1023, true, some 0x7FF8000000000000, 0x7FEFFFFFFFFFFFFF⟩
def fp32 : FFmt := ⟨23, 8, 127, true, some 0x7FC00000, 0x7F7FFFFF⟩
def bf16 : FFmt := ⟨7, 8, 127, true, some 0x7FC0, 0x7F7F⟩
def fp16 : FFmt := ⟨10, 5, 15, true, some 0x7E00, 0x7BFF⟩
def e4m3 : FFmt := ⟨3, 4, 7, false, some 0x7F, 0x7E⟩
def e5m2 : FFmt := ⟨2, 5, 15, true, some 0x7E, 0x7B⟩
def e3m2 : FFmt := ⟨2, 3, 3, false, none, 0x1F⟩
def e2m3 : FFmt := ⟨3, 2, 1, false, none, 0x1F⟩
def e2m1 : FFmt := ⟨1, 2, 1, false, none, 0x7⟩

/-- The bits of a format. -/
def FFmt.width (f : FFmt) : Nat := 1 + f.expBits + f.frac

/-- The exponent of the format's least significant subnormal bit. -/
def FFmt.qmin (f : FFmt) : Int := 1 - f.bias - (f.frac : Int)

/-- The value of a bit pattern (R38). -/
def FFmt.decode (f : FFmt) (x : Nat) : XNum :=
  let neg := x.testBit (f.expBits + f.frac)
  let mag := x % 2 ^ (f.expBits + f.frac)
  let fr := x % 2 ^ f.frac
  let ex := mag >>> f.frac
  if f.ieee && decide (ex = 2 ^ f.expBits - 1) then (if fr = 0 then .inf neg else .nan)
  else if decide (f.ieee = false) && decide (f.nan = some mag) then .nan
  else if ex = 0 then .fin neg fr f.qmin
  else .fin neg (2 ^ f.frac + fr) (f.qmin + (ex : Int) - 1)

/-- The code of the magnitude n × 2^q, for n of at most frac + 1 bits (or 2^(frac + 1) after a carry) and q at least
`qmin`; the code of a magnitude past the largest finite one exceeds `maxCode`. -/
def FFmt.magCode (f : FFmt) (n : Nat) (q : Int) : Nat :=
  if n < 2 ^ f.frac then n else (((q - f.qmin).toNat + 1) <<< f.frac) + (n - 2 ^ f.frac)

/-- The code of an infinity, for formats that have one. -/
def FFmt.infCode (f : FFmt) : Nat := f.maxCode + 1

/-- Conversion to a floating-point format (Table 2.7): rounding in the mode, then the rules for values past the
largest finite one, for infinities and for NaN. Under SR a value between the largest finite one and the next power gives the one or
the infinity as its draw says; Table 2.7 could also mean the infinity always. DESIGN CHOICE (log 83). `sat` is the descriptor's SAT flag; formats without infinities always
saturate. -/
def FFmt.encode (f : FFmt) (md : Round) (sat : Bool) (r : Nat) (v : XNum) : Nat :=
  let sgn (n : Bool) := if n then 2 ^ (f.expBits + f.frac) else 0
  match v with
  | .nan => f.nan.getD 0
  | .inf n => sgn n + (if sat || !f.ieee then f.maxCode else f.infCode)
  | .fin n m e =>
    if m = 0 then sgn n
    else
      let q := max (e + (Nat.log2 m : Int) - (f.frac : Int)) f.qmin
      let code := f.magCode (roundTo md r n m e q) q
      let past :=
        if sat || !f.ieee then f.maxCode
        else match md with
          | .rne => f.infCode
          | .sr => f.infCode
          | .rtz => f.maxCode
          | .rup => if n then f.maxCode else f.infCode
          | .rdn => if n then f.infCode else f.maxCode
      sgn n + (if code ≤ f.maxCode then code else past)

/-- A number rounded to a format under RNE, as a number again: one correctly rounded operation. -/
def FFmt.rnd (f : FFmt) (v : XNum) : XNum := f.decode (f.encode .rne false 0 v)

/-! ## Element types (Table 2.1) -/

/-- Element types of the core. -/
inductive Ty where
  | fp64 | fp32 | bf16 | fp16 | e4m3 | e5m2
  | mx8e4m3 | mx8e5m2 | mx6e3m2 | mx6e2m3 | mx4e2m1 | mxint8
  | int8 | uint8 | int16 | int32 | int64 | uint32
  | e8m0 | bool1 | slice8
deriving DecidableEq, Repr

/-- Type codes; 0x15 to 0x1F are no type (R35). -/
def Ty.ofCode : Nat → Option Ty
  | 0x00 => some .fp64 | 0x01 => some .fp32 | 0x02 => some .bf16 | 0x03 => some .fp16
  | 0x04 => some .e4m3 | 0x05 => some .e5m2 | 0x06 => some .mx8e4m3 | 0x07 => some .mx8e5m2
  | 0x08 => some .mx6e3m2 | 0x09 => some .mx6e2m3 | 0x0A => some .mx4e2m1 | 0x0B => some .mxint8
  | 0x0C => some .int8 | 0x0D => some .uint8 | 0x0E => some .int16 | 0x0F => some .int32
  | 0x10 => some .int64 | 0x11 => some .uint32 | 0x12 => some .e8m0 | 0x13 => some .bool1
  | 0x14 => some .slice8
  | _ => none

/-- The code of a type. -/
def Ty.code : Ty → Nat
  | .fp64 => 0x00 | .fp32 => 0x01 | .bf16 => 0x02 | .fp16 => 0x03 | .e4m3 => 0x04 | .e5m2 => 0x05
  | .mx8e4m3 => 0x06 | .mx8e5m2 => 0x07 | .mx6e3m2 => 0x08 | .mx6e2m3 => 0x09 | .mx4e2m1 => 0x0A
  | .mxint8 => 0x0B | .int8 => 0x0C | .uint8 => 0x0D | .int16 => 0x0E | .int32 => 0x0F | .int64 => 0x10
  | .uint32 => 0x11 | .e8m0 => 0x12 | .bool1 => 0x13 | .slice8 => 0x14

/-- Bits of an element, without block scales (Table 2.1). -/
def Ty.bits : Ty → Nat
  | .fp64 => 64 | .fp32 => 32 | .bf16 => 16 | .fp16 => 16 | .e4m3 => 8 | .e5m2 => 8
  | .mx8e4m3 => 8 | .mx8e5m2 => 8 | .mx6e3m2 => 6 | .mx6e2m3 => 6 | .mx4e2m1 => 4 | .mxint8 => 8
  | .int8 => 8 | .uint8 => 8 | .int16 => 16 | .int32 => 32 | .int64 => 64 | .uint32 => 32
  | .e8m0 => 8 | .bool1 => 1 | .slice8 => 8

/-- The microscaling types, whose blocks of 32 carry an E8M0 scale (R43). -/
def Ty.isMx : Ty → Bool
  | .mx8e4m3 | .mx8e5m2 | .mx6e3m2 | .mx6e2m3 | .mx4e2m1 | .mxint8 => true
  | _ => false

/-- Signed or unsigned integer types with their width. -/
def Ty.asInt : Ty → Option (Bool × Nat)
  | .int8 => some (true, 8) | .uint8 => some (false, 8) | .int16 => some (true, 16) | .int32 => some (true, 32)
  | .int64 => some (true, 64) | .uint32 => some (false, 32)
  | _ => none

/-- The floating-point format of a type's elements, for MX types that of the element without its scale. -/
def Ty.asFloat : Ty → Option FFmt
  | .fp64 => some Machine.fp64 | .fp32 => some Machine.fp32 | .bf16 => some Machine.bf16 | .fp16 => some Machine.fp16
  | .e4m3 => some Machine.e4m3 | .e5m2 => some Machine.e5m2 | .mx8e4m3 => some Machine.e4m3
  | .mx8e5m2 => some Machine.e5m2 | .mx6e3m2 => some Machine.e3m2 | .mx6e2m3 => some Machine.e2m3
  | .mx4e2m1 => some Machine.e2m1
  | _ => none

/-- Under FTZ a subnormal becomes the zero of its sign (R309). -/
def FFmt.flush (f : FFmt) (ftz : Bool) (x : Nat) : Nat :=
  let mag := x % 2 ^ (f.expBits + f.frac)
  if ftz && decide (0 < mag ∧ mag < 2 ^ f.frac) then x - mag else x

/-- Under FTZ an element whose bits are a subnormal of its own format is the zero of its sign; of an MX type the element's bits
decide, whatever its scale (R54, log 87). -/
def Ty.flush (t : Ty) (ftz : Bool) (x : Nat) : Nat :=
  match t.asFloat with
  | some f => f.flush ftz x
  | none => x

/-- The value of an E8M0 byte (R41). -/
def e8m0Value (x : Nat) : XNum := if x % 256 = 255 then .nan else .fin false 1 ((x % 256 : Nat) - 127 : Int)

/-- The value of an element's bits, for MX types before the block's scale (R38, R40 to R43). -/
def Ty.decode (t : Ty) (x : Nat) : XNum :=
  match t.asFloat with
  | some f => f.decode x
  | none =>
    match t with
    | .e8m0 => e8m0Value x
    | .mxint8 => (XNum.ofInt (sext 8 x)).scale (-6)
    | .bool1 => XNum.ofInt ((x % 2 : Nat) : Int)
    | .slice8 => XNum.ofInt (sext 8 x)
    | t =>
      match t.asInt with
      | some (true, w) => XNum.ofInt (sext w x)
      | some (false, w) => XNum.ofInt ((x % 2 ^ w : Nat) : Int)
      | none => .nan

/-- The bounds of an integer type. -/
def intRange (signed : Bool) (w : Nat) : Int × Int :=
  if signed then (-(2 ^ (w - 1) : Nat), (2 ^ (w - 1) : Nat) - 1) else (0, (2 ^ w : Nat) - 1)

/-- Conversion to an integer type: rounds in the mode, saturates to the range, NaN gives 0 (Table 2.7, R52). -/
def encodeInt (signed : Bool) (w : Nat) (md : Round) (r : Nat) (v : XNum) : Nat :=
  let (lo, hi) := intRange signed w
  match v with
  | .nan => 0
  | .inf n => modInt w (if n then lo else hi)
  | .fin n m e =>
    let k : Int := ((roundTo md r n m e 0 : Nat) : Int)
    let i := if n then -k else k
    modInt w (max lo (min hi i))

/-- Conversion to E8M0 (R516). -/
def encodeE8m0 (md : Round) (r : Nat) (v : XNum) : Nat :=
  match v with
  | .nan => 0xFF
  | .inf _ => 0xFF
  | .fin n m e =>
    if m = 0 then 0
    else if n then 0xFF
    else
      let l := Nat.log2 m
      let k := e + (l : Int)
      let rest := m - 2 ^ l
      let up : Bool :=
        match md with
        | .rtz => false
        | .rdn => false
        | .rup => decide (rest ≠ 0)
        | .rne => decide (2 ^ l ≤ 2 * rest)
        | .sr => decide (2 ^ 24 ≤ (rest <<< 24) / 2 ^ l + r)
      let j := if up then k + 1 else k
      if j < -127 then 0x00 else if 127 < j then 0xFE else (j + 127).toNat

/-- Conversion of a value to a type that carries no block scale (R52). MX elements go through `mxElem`. -/
def Ty.encode (t : Ty) (md : Round) (sat : Bool) (r : Nat) (v : XNum) : Nat :=
  match t with
  | .e8m0 => encodeE8m0 md r v
  | .bool1 => if v.isZero then 0 else 1
  | .slice8 => 0
  | t =>
    match t.asInt with
    | some (sg, w) => encodeInt sg w md r v
    | none =>
      match t.asFloat with
      | some f => f.encode md sat r v
      | none => 0

/-! ## Microscaling blocks (R44 to R47) -/

/-- emax of an MX element type (Table 2.5). -/
def Ty.mxEmax : Ty → Int
  | .mx8e4m3 => 8 | .mx8e5m2 => 15 | .mx6e3m2 => 4 | .mx6e2m3 => 2 | .mx4e2m1 => 2 | _ => 0

/-- The largest magnitude of a list of finite values. -/
def amaxOf : List XNum → XNum
  | [] => .zero
  | v :: vs => XNum.max v.abs (amaxOf vs)

/-- The scale byte of a block from its values before conversion, and whether the elements are all written as zero
(R47 steps 1 to 3). -/
def mxScale (t : Ty) (vs : List XNum) : Nat × Bool :=
  if vs.any (fun v => !v.isFinite) then (0xFF, true)
  else
    let a := amaxOf vs
    if a.isZero then (0x00, true)
    else
      let x := max (-127) (min 127 (a.expo - t.mxEmax))
      ((x + 127).toNat, false)

/-- One MX element under a scale byte that is not 0xFF (R47 step 4): saturating, in the rounding mode. -/
def mxElem (t : Ty) (scale : Nat) (md : Round) (r : Nat) (v : XNum) : Nat :=
  let w := v.scale (127 - (scale : Int))
  match t with
  | .mxint8 => encodeInt true 8 md r (w.scale 6)
  | t =>
    match t.asFloat with
    | some f => f.encode md true r w
    | none => 0

/-- A block of values as its scale byte and its element codes; `rs` gives each element's random value. -/
def mxBlock (t : Ty) (md : Round) (rs : Nat → Nat) (vs : List XNum) : Nat × List Nat :=
  let (sc, allZero) := mxScale t vs
  let n := vs.length
  let is := rangeFrom 0 n
  (sc, is.map fun i => if allZero then 0 else mxElem t sc md (rs i) (nth .zero vs i))

/-- The value of an MX element: its element value times the scale; a 0xFF scale makes it NaN (R46). -/
def mxValue (t : Ty) (scale x : Nat) : XNum :=
  if scale % 256 = 255 then .nan else (t.decode x).scale ((scale % 256 : Nat) - 127 : Int)

/-- Pad values (Table 3.7, R89): the bits written for a code, `none` for a reserved code. -/
def padBits (t : Ty) (code : Nat) : Option Nat :=
  if 4 < code then none
  else
    some <| match t with
    | .e8m0 => match code with
      | 0 => 0x00 | 1 => 0x7F | 2 => 0x00 | 3 => 0xFE | _ => 0xFF
    | t =>
      match code with
      | 0 => 0
      | 1 => (match t with
        | .mxint8 => 64
        | _ => t.encode .rne false 0 .one)
      | 2 => (match t with
        | .mxint8 => 0x80
        | _ => t.encode .rne false 0 (.inf true))
      | 3 => (match t with
        | .mxint8 => 0x7F
        | _ => t.encode .rne false 0 (.inf false))
      | _ => t.encode .rne false 0 .nan

/-! ## Slice form (R61 to R63) -/

/-- The integers N of a row under exponent E and slice count s (R61 step 2). -/
def sliceInt (s : Nat) (E : Int) (v : XNum) : Int :=
  match v with
  | .fin n m e =>
    let k : Int := ((roundTo .rne 0 n m (e + (7 * (s : Int) - 1 - E)) 0 : Nat) : Int)
    if n then -k else k
  | _ => 0

/-- The largest exponent of the nonzero finite elements of a row; 0 if there are none (R61 step 1). -/
def rowExpo : List XNum → Option Int
  | [] => none
  | v :: vs =>
    if v.isFinite && !v.isZero then
      some (match rowExpo vs with
        | some e => max v.expo e
        | none => v.expo)
    else rowExpo vs

/-- The lower slices of a nonnegative remainder: `n` base-128 digits, most significant first. -/
def sliceDigits : Nat → Nat → List Int
  | 0, _ => []
  | n + 1, r => ((r >>> (7 * n)) % 128 : Nat) :: sliceDigits n (r % 2 ^ (7 * n))

/-- The s slices of N (R61 step 4). -/
def slicesOf (s : Nat) (N : Int) : List Int :=
  let w : Int := ((2 ^ (7 * (s - 1)) : Nat) : Int)
  let d1 := N.fdiv w
  d1 :: sliceDigits (s - 1) (N - d1 * w).toNat

/-- The split of a row: the exponent, the slices of every element, and whether the row is non-finite (R61, R63). -/
def splitRow (s : Nat) (vs : List XNum) : Int × List (List Int) × Bool :=
  let bad := vs.any fun v => !v.isFinite
  let E := (rowExpo vs).getD 0
  let top : Int := ((2 ^ (7 * s) : Nat) : Int)
  let E := if vs.any (fun v => decide ((sliceInt s E v).natAbs = top.natAbs)) then E + 1 else E
  (E, vs.map (fun v => if bad then List.replicate s (0 : Int) else slicesOf s (sliceInt s E v)), bad)

end Sys2Proof.Machine
end

