-- ==== Sys2Proof/Machine/Tld.lean ====
section
/-! DEFINITION. Global addresses, Tensor Layout Descriptors and owner tables (Global Addresses, Tensor Layouts and
Owner Tables): fields, the checks of R75 to R77 and R82 to R85, and where an element lies (R78 to R81, R86). Positions
are bit offsets from the tensor's base, so that elements narrower than a byte have one as well. -/

namespace Sys2Proof.Machine

/-! ## Global addresses (R65 to R68) -/

/-- The logical core number of a global address (Table 3.1). -/
def lcnOf (a : Nat) : Nat := bits a 44 20

/-- The offset of a global address (Table 3.1). -/
def offOf (a : Nat) : Nat := bits a 0 44

/-- A global address from its fields. -/
def gaddr (lcn off : Nat) : Nat := lcn % 2 ^ 20 * 2 ^ 44 + off % 2 ^ 44

/-- The LCN that means self (R66). -/
def selfLcn : Nat := 0xFFFFF

/-- The regions of the offset map (Table 3.2). -/
inductive Region where
  | lmem | drain | tile | weight | pages | host
deriving DecidableEq, Repr

/-- First offset and one past the last offset of a region on Herend (Table 3.2). -/
def Region.span : Region → Nat × Nat
  | .lmem => (0x0, 0xC000000)
  | .drain => (0x10000000, 0x10800000)
  | .tile => (0x11000000, 0x11400000)
  | .weight => (0x12000000, 0x12080000)
  | .pages => (0x100000000, 0x100140000)
  | .host => (0x10000000000, 0x100000000000)

/-- Every region, for lookup. -/
def Region.all : List Region := [.lmem, .drain, .tile, .weight, .pages, .host]

/-- The region that holds `n` bytes from an offset whole; `none` if they run past 0x0FFF_FFFF_FFFF, cross regions or
touch an offset no region has (R67, R68). Zero bytes lie in the region of their offset. -/
def regionOf (off n : Nat) : Option Region :=
  Region.all.find? fun r => decide (r.span.1 ≤ off) && decide (off + max n 1 ≤ r.span.2)

/-! ## The descriptor (Table 3.4) -/

/-- A tensor layout descriptor. -/
structure Tld where
  base : Nat
  dims : List Nat
  strides : List Nat
  scaleOff : Nat
  tyCode : Nat
  rank : Nat
  tiling : Nat
  epoch : Nat
  owner : Nat
  pad : Nat
  /-- a reserved bit is set -/
  res0 : Bool
deriving DecidableEq, Repr

/-- A TLD from its 64 bytes (Table 3.4). -/
def tldOf (bs : List Byte) : Tld :=
  let n (at_ k : Nat) : Nat := leNat ((bs.drop at_).take k)
  let b56 := n 56 1
  let b57 := n 57 1
  { base := n 0 8
    dims := (rangeFrom 0 6).map fun i => n (8 + 4 * i) 4
    strides := (rangeFrom 0 5).map fun i => n (32 + 4 * i) 4
    scaleOff := n 52 4
    tyCode := bits b56 0 5
    rank := bits b57 0 3
    tiling := bits b57 4 3
    epoch := n 58 2
    owner := n 60 3
    pad := bits (n 63 1) 0 4
    res0 := decide (bits b56 5 3 ≠ 0) || b57.testBit 3 || b57.testBit 7 || decide (bits (n 63 1) 4 4 ≠ 0) }

/-- The element type; `fp64` stands for a code that is none, which `wellFormed` refuses. -/
def Tld.ty (t : Tld) : Ty := (Ty.ofCode t.tyCode).getD .fp64

/-- Length of a dimension. -/
def Tld.dim (t : Tld) (n : Nat) : Nat := if n < t.rank then nth 0 t.dims n else 1

/-- Byte stride of a dimension from 1 on. -/
def Tld.stride (t : Tld) (n : Nat) : Nat := nth 0 t.strides (n - 1)

/-- Element width in bits. -/
def Tld.w (t : Tld) : Nat := t.ty.bits

/-- K elements of a SKEW32 slot (R80). -/
def Tld.ks (t : Tld) : Nat := if t.ty = .mx4e2m1 then 8 else 4

/-- Slot size of SKEW32 in bytes (R80). -/
def Tld.slot (t : Tld) : Nat := if t.w ≤ 8 then 16 else if t.w = 16 then 32 else 64

/-- Row groups per SKEW32 unit (R80). -/
def Tld.units (t : Tld) : Nat := 64 / t.slot

/-- The allocation unit of a dimension (R76). -/
def Tld.allocUnit (t : Tld) (n : Nat) : Nat :=
  match t.tiling, n with
  | 1, 0 => 4
  | 1, 1 => 4
  | 2, 0 => 32 * t.ks
  | 2, 1 => 4 * t.units
  | 3, 0 => 512
  | 3, 1 => 32
  | _, _ => 1

/-- The allocated length of a dimension (R76). -/
def Tld.alloc (t : Tld) (n : Nat) : Nat := roundUp (t.dim n) (t.allocUnit n)

/-- The distance of the dimensions from 2 on (section 3.4): H. -/
def Tld.high (t : Tld) (ix : List Nat) : Nat :=
  nth 0 ix 2 * t.stride 2 + nth 0 ix 3 * t.stride 3 + nth 0 ix 4 * t.stride 4 + nth 0 ix 5 * t.stride 5

/-- The bit offset of an element from the base, by tiling (R78 to R81). -/
def Tld.pos (t : Tld) (ix : List Nat) : Nat :=
  let w := t.w
  let i0 := nth 0 ix 0
  let i1 := nth 0 ix 1
  let h := t.high ix
  match t.tiling with
  | 1 => 8 * (i1 / 4 * t.stride 1 + h + i0 / 4 * (2 * w)) + i1 % 4 * (4 * w) + i0 % 4 * w
  | 2 =>
    let ks := t.ks
    let r := i1 / 4
    let b := i0 / (32 * ks)
    let j := i0 % (32 * ks) / ks
    8 * (r / t.units * t.stride 1 + b * 2048 + (j + r) % 32 * 64 + r % t.units * t.slot + h)
      + i1 % 4 * (ks * w) + i0 % ks * w
  | 3 =>
    8 * (i1 / 32 * t.stride 1 + h) + i0 / 512 * (32 * 512 * w) + i1 % 32 * (512 * w) + i0 % 512 * w
  | 4 => 8 * (i0 * t.stride 1 + h) + i1 * w
  | _ => 8 * (i1 * t.stride 1 + h) + i0 * w

/-- The index, in the allocation, of the element whose last byte lies furthest from the base: every index at its
largest, and for SKEW32 the slot of the last row group that the rotation puts on line 31. DEDUCED (log 12). -/
def Tld.lastIndex (t : Tld) : List Nat :=
  let l (n : Nat) : Nat := if n < t.rank then t.alloc n - 1 else 0
  let i1 := l 1
  let i0 :=
    if t.tiling = 2 then
      let r := i1 / 4
      let b := l 0 / (32 * t.ks)
      b * 32 * t.ks + (31 + 32 - r % 32) % 32 * t.ks + (t.ks - 1)
    else l 0
  [i0, i1, l 2, l 3, l 4, l 5]

/-- An extent that is empty because some dimension is zero (R76). -/
def Tld.empty (t : Tld) : Bool := (rangeFrom 0 t.rank).any fun n => t.dim n == 0

/-- Bytes of the elements' part of the extent. -/
def Tld.elemBytes (t : Tld) : Nat := if t.empty then 0 else (t.pos t.lastIndex + t.w + 7) / 8

/-- Bytes of one scale line: Q of R82. -/
def Tld.scaleLine (t : Tld) : Nat := roundUp (ceilDiv (t.dim 0) 32) 64

/-- Byte offset of the scale of the block that holds an element, from the base (R82). -/
def Tld.scalePos (t : Tld) (ix : List Nat) : Nat :=
  let q := t.scaleLine
  64 * t.scaleOff + nth 0 ix 0 / 32
    + nth 0 ix 1 * q
    + nth 0 ix 2 * (q * t.dim 1)
    + nth 0 ix 3 * (q * t.dim 1 * t.dim 2)
    + nth 0 ix 4 * (q * t.dim 1 * t.dim 2 * t.dim 3)
    + nth 0 ix 5 * (q * t.dim 1 * t.dim 2 * t.dim 3 * t.dim 4)

/-- Bytes of the scale array (R82). -/
def Tld.scaleBytes (t : Tld) : Nat :=
  if t.empty then 0 else t.scaleLine * t.dim 1 * t.dim 2 * t.dim 3 * t.dim 4 * t.dim 5

/-- Bytes of the extent, from the base (R76, R82). -/
def Tld.extent (t : Tld) : Nat :=
  if t.ty.isMx then max t.elemBytes (64 * t.scaleOff + t.scaleBytes) else t.elemBytes

/-- The scale array and the elements overlap (R82). -/
def Tld.scaleOverlap (t : Tld) : Bool :=
  t.ty.isMx && !t.empty && decide (64 * t.scaleOff < t.elemBytes)

/-- Minimum rank of a tiling (Table 3.5). -/
def Tld.rankOk (t : Tld) : Bool := decide (1 ≤ t.rank ∧ t.rank ≤ 6) && (decide (t.tiling = 0) || decide (2 ≤ t.rank))

/-- The tiling takes the type (Table 3.5). -/
def Tld.tyOk (t : Tld) : Bool :=
  match t.tiling with
  | 0 => true
  | 1 => decide (t.ty ≠ .bool1)
  | 2 => decide (t.w ≤ 32) && decide (t.ty ≠ .bool1) && decide (t.ty ≠ .e8m0)
  | 3 => (decide (t.w = 8) || decide (t.w = 16) || decide (t.w = 32)) && !t.ty.isMx && decide (t.ty ≠ .e8m0)
  | 4 => decide (8 ≤ t.w) && !t.ty.isMx
  | _ => false

/-- Base and strides are aligned (Table 3.5, R36). -/
def Tld.alignOk (t : Tld) : Bool :=
  let el := if 16 ≤ t.w then t.w / 8 else 1
  let st := (rangeFrom 1 (t.rank - 1)).map t.stride
  aligned el t.base && st.all (aligned el) &&
  match t.tiling with
  | 0 => !t.ty.isMx || st.all (aligned (4 * t.w))
  | 1 => aligned 64 t.base && aligned 64 (t.stride 1)
  | 2 => aligned 2048 t.base && aligned 2048 (t.stride 1)
  | 3 => aligned 64 t.base && aligned 64 (t.stride 1)
  | _ => true

/-- Fields of dimensions at or past the rank are zero (R75). -/
def Tld.tailOk (t : Tld) : Bool :=
  (rangeFrom t.rank (6 - t.rank)).all fun n => nth 0 t.dims n == 0 && (n == 0 || t.stride n == 0)

/-- The further conditions on a SLICE8 tensor (R83). -/
def Tld.sliceOk (t : Tld) : Bool :=
  decide (t.ty ≠ .slice8) ||
    (decide (t.rank = 2) && decide (t.owner = 0) && decide (t.tiling = 0 ∨ t.tiling = 1 ∨ t.tiling = 2)
      && decide (t.scaleOff = 0))

/-- The checks of R75, R82 and R83 on a TLD alone. The scale array of a distributed tensor is checked in its blocks (R86). A TLD
with an owner and a nonzero BASE is refused: Table 3.4 wants BASE 0 there and names no fault. DESIGN CHOICE (log 81). -/
def Tld.wellFormed (t : Tld) : Bool :=
  (Ty.ofCode t.tyCode).isSome && t.rankOk && decide (t.tiling ≤ 4) && t.tailOk && t.tyOk && t.alignOk
    && decide (t.ty.isMx = decide (t.scaleOff ≠ 0)) && decide (t.pad ≤ 4) && !t.res0
    && (decide (t.owner = 0) || decide (t.base = 0)) && t.sliceOk && (decide (t.owner ≠ 0) || !t.scaleOverlap)

/-- Allocated bytes of one STRIDE1 step (R77). -/
def Tld.lineBytes (t : Tld) : Nat :=
  match t.tiling with
  | 0 => if t.ty.isMx then ceilDiv (t.dim 0) 32 * (4 * t.w) else ceilDiv (t.dim 0 * t.w) 8
  | 1 => t.alloc 0 / 4 * (2 * t.w)
  | 2 => t.alloc 0 / (32 * t.ks) * 2048
  | 3 => t.alloc 0 / 512 * (32 * 512 * t.w / 8)
  | _ => ceilDiv (t.dim 1 * t.w) 8

/-- STRIDE1 steps that dimensions 0 and 1 span (Table 3.9). -/
def Tld.steps (t : Tld) : Nat :=
  match t.tiling with
  | 0 => t.dim 1
  | 1 => t.alloc 1 / 4
  | 2 => t.alloc 1 / (4 * t.units)
  | 3 => t.alloc 1 / 32
  | _ => t.dim 0

/-- Nested strides: no two elements of a destination share a byte (R77). -/
def Tld.nested (t : Tld) : Bool :=
  (decide (t.rank < 2) || decide (t.lineBytes ≤ t.stride 1))
    && (decide (t.rank < 3) || decide (t.stride 1 * t.steps ≤ t.stride 2))
    && (rangeFrom 3 (t.rank - 3)).all fun n => decide (t.stride (n - 1) * t.alloc (n - 1) ≤ t.stride n)

/-- One index clamped to its dimension (R90). -/
def clampIdx (i : Int) (d : Nat) : Nat := (max 0 (min i ((d : Int) - 1))).toNat

/-- Index tuples of a window, dimension 0 fastest: starts and counts per dimension. -/
def windowIdx : List (Nat × Nat) → List (List Nat)
  | [] => [[]]
  | (s, n) :: rest => (windowIdx rest).flatMap fun hi => (rangeFrom s n).map fun i => i :: hi

/-- Linear index of an element in its tensor, dimension 0 fastest (R51). -/
def linearIdx : List Nat → List Nat → Nat
  | d :: ds, i :: is => i + d * linearIdx ds is
  | _, _ => 0

/-! ## SLICE8 tensors (R64, R83) -/

/-- Bytes from one plane to the next: the plane's extent rounded up to 64. -/
def Tld.plane (t : Tld) : Nat := roundUp t.elemBytes 64

/-- Bytes of a SLICE8 tensor of `s` planes whose split has `ne` lines. -/
def Tld.sliceExtent (t : Tld) (s ne : Nat) : Nat := s * t.plane + 2 * ne

/-! ## Owner tables (R84 to R88) -/

/-- An owner table as read from LMEM. -/
structure OwnerTab where
  splitA : Nat
  splitB : Nat
  epoch : Nat
  na : Nat
  nb : Nat
  ptsA : List Nat
  ptsB : List Nat
  /-- (ADDR, VALID) of block (a, b) at a × NB + b -/
  entries : List (Nat × Bool)
  /-- a reserved field is nonzero -/
  res0 : Bool
deriving DecidableEq, Repr

/-- The block lengths along a split. -/
def ptsLen (pts : List Nat) (a : Nat) : Nat := nth 0 pts (a + 1) - nth 0 pts a

/-- The table's dimension B is absent: SPLIT_B 0b111. -/
def OwnerTab.noB (o : OwnerTab) : Bool := o.splitB == 7

/-- A block holds an index: neither of its splits is empty (R85). -/
def OwnerTab.full (o : OwnerTab) (i : Nat) : Bool :=
  ptsLen o.ptsA (i / max 1 o.nb) != 0 && (o.noB || ptsLen o.ptsB (i % max 1 o.nb) != 0)

/-- Bytes of an owner table with NA and NB blocks (R84). -/
def ownerBytes (na nb : Nat) : Nat := 64 + roundUp (4 * (na + 1)) 64 + roundUp (4 * (nb + 1)) 64 + 16 * (na * nb)

/-- An owner table from bytes of LMEM (`rd offset count`) at an offset (R84, Tables 3.6 and 3.8). The entry of an empty block is
not read (R85). -/
def ownerOf (rd : Nat → Nat → Nat) (off : Nat) : OwnerTab :=
  let h := rd off 8
  let na := bits h 32 16
  let nb := bits h 48 16
  let pa := off + 64
  let pb := pa + roundUp (4 * (na + 1)) 64
  let pe := pb + roundUp (4 * (nb + 1)) 64
  let words := (rangeFrom 1 7).map fun i => rd (off + 8 * i) 8
  let o : OwnerTab :=
    { splitA := bits h 0 3, splitB := bits h 4 3, epoch := bits h 16 16, na := na, nb := nb
      ptsA := (rangeFrom 0 (na + 1)).map fun i => rd (pa + 4 * i) 4
      ptsB := (rangeFrom 0 (nb + 1)).map fun i => rd (pb + 4 * i) 4
      entries := []
      res0 := h.testBit 3 || decide (bits h 7 9 ≠ 0) || words.any (fun w => w != 0) }
  let es := if na * nb ≤ 65536 then (rangeFrom 0 (na * nb)) else []
  let ents := es.map fun i => if o.full i then (rd (pe + 16 * i) 8, rd (pe + 16 * i + 8) 8) else (0, 0)
  { o with
    entries := ents.map fun e => (e.1, e.2.testBit 0)
    res0 := o.res0 || ents.any fun e => e.2 / 2 != 0 }

/-- Split points start at 0, end at the dimension and do not decrease. -/
def ptsOk (d : Nat) (pts : List Nat) : Bool :=
  (nth 1 pts 0 == 0) && (pts.getLast? == some d) && (pts.zip (pts.drop 1)).all fun p => decide (p.1 ≤ p.2)

/-- Split points but the last are multiples of the allocation unit (R85). -/
def ptsAligned (u : Nat) (pts : List Nat) : Bool := (pts.dropLast).all (aligned u)

/-- The block of an index: the last whose first index is at most it and that is not empty. -/
def blockOf : List Nat → Nat → Nat
  | s :: t :: rest, i => if decide (s ≤ i) && decide (i < t) then 0 else 1 + blockOf (t :: rest) i
  | _, _ => 0

/-- The alignment unit of split points along a dimension of a tensor. -/
def Tld.splitUnit (t : Tld) (d : Nat) : Nat :=
  if d = 0 ∧ t.ty.isMx then max 32 (t.allocUnit 0) else if d ≤ 1 then t.allocUnit d else 1

/-- The checks of R85 on a table for a tensor. A header whose SPLIT_A or SPLIT_B is no dimension, or whose NA or NB is out of the
range of Table 3.6, is refused too, and an entry's ADDR may have any alignment. DESIGN CHOICE (log 81). -/
def OwnerTab.wellFormed (o : OwnerTab) (t : Tld) : Bool :=
  decide (o.splitA < t.rank) && (o.noB || decide (o.splitB < t.rank)) && decide (o.splitA ≠ o.splitB)
    && decide (1 ≤ o.na ∧ 1 ≤ o.nb) && (!o.noB || decide (o.nb = 1)) && decide (o.na * o.nb ≤ 65536) && !o.res0
    && ptsOk (t.dim o.splitA) o.ptsA && ptsAligned (t.splitUnit o.splitA) o.ptsA
    && (o.noB || (ptsOk (t.dim o.splitB) o.ptsB && ptsAligned (t.splitUnit o.splitB) o.ptsB))
    && (rangeFrom 0 (o.na * o.nb)).all fun i => !o.full i || (nth (0, false) o.entries i).2

/-- The tensor that holds a block of a distributed tensor, as its owner stores it (R86). -/
def OwnerTab.block (o : OwnerTab) (t : Tld) (a b : Nat) : Tld :=
  let ds := setNth (ptsLen o.ptsA a) t.dims o.splitA
  let ds := if o.noB then ds else setNth (ptsLen o.ptsB b) ds o.splitB
  { t with base := (nth (0, false) o.entries (a * o.nb + b)).1, dims := ds, owner := 0 }

/-- Where an element of a tensor lies: the tensor that stores it and its index there (R86). -/
def resolveElem (o : Option OwnerTab) (t : Tld) (ix : List Nat) : Tld × List Nat :=
  match o with
  | none => (t, ix)
  | some o =>
    let ia := nth 0 ix o.splitA
    let a := blockOf o.ptsA ia
    let ix1 := setNth (ia - nth 0 o.ptsA a) ix o.splitA
    if o.noB then (o.block t a 0, ix1)
    else
      let ib := nth 0 ix o.splitB
      let b := blockOf o.ptsB ib
      (o.block t a b, setNth (ib - nth 0 o.ptsB b) ix1 o.splitB)

/-! ## Reading and writing elements -/

/-- The global address of byte `k` of a tensor: never carries into the LCN (R67). -/
def byteAddr (base k : Nat) : Nat := lcnOf base * 2 ^ 44 + (offOf base + k) % 2 ^ 44

/-- `w` bits at bit offset `pos` of a tensor through a byte reader. -/
def readBits (rb : Nat → Byte) (base pos w : Nat) : Nat :=
  let n := (pos % 8 + w + 7) / 8
  bits (leNat ((rangeFrom (pos / 8) n).map fun k => rb (byteAddr base k))) (pos % 8) w

/-- One element through a tensor and its owner table, with its block scale for MX types (R46); under FTZ its subnormals are
zero. -/
def readElemFtz (ftz : Bool) (rb : Nat → Byte) (o : Option OwnerTab) (t : Tld) (ix : List Nat) : XNum :=
  let (b, jx) := resolveElem o t ix
  let x := b.ty.flush ftz (readBits rb b.base (b.pos jx) b.w)
  if b.ty.isMx then mxValue b.ty (rb (byteAddr b.base (b.scalePos jx))).toNat x else b.ty.decode x

/-- One element through a tensor and its owner table. -/
def readElem (rb : Nat → Byte) (o : Option OwnerTab) (t : Tld) (ix : List Nat) : XNum := readElemFtz false rb o t ix

/-- The raw bits of an element. -/
def readRaw (rb : Nat → Byte) (o : Option OwnerTab) (t : Tld) (ix : List Nat) : Nat :=
  let (b, jx) := resolveElem o t ix
  readBits rb b.base (b.pos jx) b.w

/-- The byte addresses an element's bits occupy, its scale byte included for MX types. -/
def elemAddrs (o : Option OwnerTab) (t : Tld) (ix : List Nat) : List Nat :=
  let (b, jx) := resolveElem o t ix
  let pos := b.pos jx
  (rangeFrom (pos / 8) ((pos % 8 + b.w + 7) / 8)).map (byteAddr b.base)
    ++ (if b.ty.isMx then [byteAddr b.base (b.scalePos jx)] else [])

/-- A pending write of `w` bits at bit offset `pos` from a base. -/
structure BitWrite where
  base : Nat
  pos : Nat
  w : Nat
  val : Nat
deriving DecidableEq, Repr

/-- The write that stores an element's bits. -/
def elemWrite (o : Option OwnerTab) (t : Tld) (ix : List Nat) (v : Nat) : BitWrite :=
  let (b, jx) := resolveElem o t ix
  ⟨b.base, b.pos jx, b.w, v⟩

/-- The write that stores the scale of the block holding an element. -/
def scaleWrite (o : Option OwnerTab) (t : Tld) (ix : List Nat) (v : Nat) : BitWrite :=
  let (b, jx) := resolveElem o t ix
  ⟨b.base, 8 * b.scalePos jx, 8, v⟩

/-- A bit write as byte writes over what the bytes held: (global address, byte). -/
def BitWrite.bytes (rb : Nat → Byte) (x : BitWrite) : List (Nat × Byte) :=
  let n := (x.pos % 8 + x.w + 7) / 8
  let ks := rangeFrom (x.pos / 8) n
  let old := leNat (ks.map fun k => rb (byteAddr x.base k))
  let lo := x.pos % 8
  let m := ((2 ^ x.w - 1) <<< lo)
  let new := (old - (old &&& m)) + ((x.val % 2 ^ x.w) <<< lo)
  (ks.map (byteAddr x.base)).zip (leBytes n new)

end Sys2Proof.Machine
end

