-- ==== Sys2Proof/Machine/Ops.lean ====
section
/-! DEFINITION. The named operations that every block shares: reading and updating contexts, rings, counters and pages,
recording a fault (R480, R481), producing an event (R478), free values, and local memory with its error-correcting
code (R186 to R193). -/

namespace Sys2Proof.Machine

/-! ## Fault causes (Table 20.3) -/

/-- Fault causes. -/
inductive Cause where
  | descMalformed | lenExceeds | isaIllegal | addrUnmapped | copyOverlap | tiedWeight | layoutStale | versionAbsent
  | ctrSat | ctrMisuse | waitTimeout | swFault | eccUncorr | linkDown | routeEpoch | versionMismatch
  | snapIncomplete | restoreMismatch | rngSkew | startFail
deriving DecidableEq, Repr

/-- Cause byte of a fault code. -/
def Cause.code : Cause → Nat
  | .descMalformed => 0x01 | .lenExceeds => 0x02 | .isaIllegal => 0x03 | .addrUnmapped => 0x04
  | .copyOverlap => 0x05 | .tiedWeight => 0x06 | .layoutStale => 0x07 | .versionAbsent => 0x08
  | .ctrSat => 0x10 | .ctrMisuse => 0x11 | .waitTimeout => 0x12 | .swFault => 0x13 | .eccUncorr => 0x20
  | .linkDown => 0x21 | .routeEpoch => 0x22 | .versionMismatch => 0x23 | .snapIncomplete => 0x30
  | .restoreMismatch => 0x31 | .rngSkew => 0x32 | .startFail => 0x33

/-- PG_FAULT bit of a cause. -/
def Cause.bit : Cause → Nat
  | .descMalformed => 0 | .lenExceeds => 1 | .isaIllegal => 2 | .addrUnmapped => 3 | .copyOverlap => 4
  | .tiedWeight => 5 | .layoutStale => 6 | .versionAbsent => 7 | .ctrSat => 8 | .ctrMisuse => 9
  | .waitTimeout => 10 | .swFault => 11 | .eccUncorr => 12 | .linkDown => 13 | .routeEpoch => 14
  | .versionMismatch => 15 | .snapIncomplete => 16 | .restoreMismatch => 17 | .rngSkew => 18 | .startFail => 19

/-- Every cause. -/
def Cause.all : List Cause :=
  [.descMalformed, .lenExceeds, .isaIllegal, .addrUnmapped, .copyOverlap, .tiedWeight, .layoutStale, .versionAbsent,
   .ctrSat, .ctrMisuse, .waitTimeout, .swFault, .eccUncorr, .linkDown, .routeEpoch, .versionMismatch,
   .snapIncomplete, .restoreMismatch, .rngSkew, .startFail]

/-- The cause of a fault code, by its low byte. -/
def Cause.ofCode (code : Nat) : Option Cause := Cause.all.find? fun k => k.code == code % 256

/-- A fault code: page index and cause (R480). -/
def faultCode (page : Nat) (k : Cause) : Nat := page * 256 + k.code

/-! ## Page numbers (Table 1.1) -/

def pCORE : Nat := 0
def pSEQ : Nat := 1
def pRING : Nat := 2
def pSYNC : Nat := 3
def pTIME : Nat := 4
def pLMEM : Nat := 5
def pDMA : Nat := 6
def pXPB : Nat := 7
def pFEED : Nat := 8
def pMXA : Nat := 9
def pDRN : Nat := 10
def pMVP : Nat := 11
def pVEC : Nat := 12
def pRDU : Nat := 13
def pSCT : Nat := 14
def pWVM : Nat := 15
def pHPORT : Nat := 16
def pTLK : Nat := 17
def pSNAP : Nat := 18
def pPWR : Nat := 19

/-- The page of the block that executes an engine class (Table 5.3). -/
def classPage (cls : Nat) : Nat :=
  match cls with
  | 0 => pDMA | 1 => pMXA | 2 => pMVP | 3 => pVEC | 4 => pRDU | 5 => pTLK | 6 => pSNAP | 7 => pWVM | 8 => pXPB
  | _ => pSEQ

/-! ## Accessors -/

def pageOf (c : Chip) (p : Nat) : PageHdr := SMap.get PageHdr.reset c.pages p
def updPage (p : Nat) (f : PageHdr → PageHdr) (c : Chip) : Chip := { c with pages := SMap.upd .reset c.pages p f }

def ctxOf (c : Chip) (n : Nat) : Ctx := SMap.get Ctx.idle c.seq.ctxs n
def setCtx (n : Nat) (x : Ctx) (c : Chip) : Chip := { c with seq.ctxs := SMap.set .idle c.seq.ctxs n x }
def updCtx (n : Nat) (f : Ctx → Ctx) (c : Chip) : Chip := setCtx n (f (ctxOf c n)) c

def ringOf (c : Chip) (n : Nat) : Ring := SMap.get Ring.reset c.ring.rings n
def setRing (n : Nat) (x : Ring) (c : Chip) : Chip := { c with ring.rings := SMap.set .reset c.ring.rings n x }
def updRing (n : Nat) (f : Ring → Ring) (c : Chip) : Chip := setRing n (f (ringOf c n)) c

def ctrOf (c : Chip) (n : Nat) : Ctr := SMap.get Ctr.zero c.sync.ctrs n
def setCtr (n : Nat) (x : Ctr) (c : Chip) : Chip := { c with sync.ctrs := SMap.set .zero c.sync.ctrs n x }

def portOf (c : Chip) (n : Nat) : Port := SMap.get Port.reset c.tlk.ports n
def updPort (n : Nat) (f : Port → Port) (c : Chip) : Chip :=
  { c with tlk.ports := SMap.upd .reset c.tlk.ports n f }

/-- The TIME count of the cycle (R474). -/
def now (c : Chip) : Nat := c.time.count + c.time.sub

/-- A scalar register; s0 reads zero (R93). -/
def Ctx.reg (x : Ctx) (r : Nat) : W64 := if r = 0 then 0#64 else SMap.get 0#64 x.regs r

/-- A write of a scalar register; a write of s0 is discarded (R93). -/
def Ctx.setReg (x : Ctx) (r : Nat) (v : W64) : Ctx :=
  if r = 0 then x else { x with regs := SMap.set 0#64 x.regs r v }

/-- A predicate; p0 reads true (R93). -/
def Ctx.pred (x : Ctx) (p : Nat) : Bool := if p = 0 then true else x.preds.getLsbD p

/-- A write of a predicate; a write of p0 is discarded (R93). -/
def Ctx.setPred (x : Ctx) (p : Nat) (v : Bool) : Ctx :=
  if p = 0 ∨ 8 ≤ p then x
  else { x with preds := if v then x.preds ||| (1#8 <<< p) else x.preds &&& ~~~(1#8 <<< p) }

/-- p7 to p0 as bits [7:0]; bit 0 reads 1 (MOVP). -/
def Ctx.predWord (x : Ctx) : W64 := (x.preds ||| 1#8).setWidth 64

/-- p1 to p7 from bits [7:1] (MOVTP). -/
def Ctx.setPreds (x : Ctx) (v : W64) : Ctx := { x with preds := v.setWidth 8 &&& 0xFE#8 }

/-! ## Events, faults, free values -/

/-- Produces an event, stamped with the present TIME count (R478). -/
def emit (kind page : Nat) (d0 d1 : W64) (c : Chip) : Chip :=
  { c with events := c.events ++ [⟨now c, kind, page, d0, d1, false⟩] }

/-- The word of a FAULT event: code, context and ring, 0xFFFF where none (Table 20.1). -/
def faultWord (code ctx ring : Nat) : W64 := pack [(0, 16, code), (16, 16, ctx), (32, 16, ring)]

/-- What FIRST holds once a fault is recorded: the code if no bit was set, and of the faults of one command, which is one cycle,
the lowest code (R481). -/
def firstAfter (c : Chip) (page code : Nat) (h : PageHdr) : Nat :=
  if h.fault = 0#20 then code else if c.firsts.contains page then min code h.first else h.first

/-- Records a fault on a page (R481): sets the cause's bit, loads FIRST and TIME if no bit was set, and produces a FAULT
event naming the context and the ring (0xFFFF where none) with `d1` its index or PC. -/
def recordFault (page : Nat) (k : Cause) (code ctx ring : Nat) (d1 : W64) (c : Chip) : Chip :=
  let h := pageOf c page
  emit 0x04 page (faultWord code ctx ring) d1
    { updPage page (fun h =>
        { h with
          fault := h.fault ||| (1#20 <<< k.bit)
          first := firstAfter c page code h
          ftime := if h.fault = 0#20 then now c else h.ftime }) c with
      firsts := if h.fault = 0#20 then page :: c.firsts else c.firsts }

/-- Records a fault of the page's own code with neither context nor ring. -/
def pageFault (page : Nat) (k : Cause) (c : Chip) : Chip :=
  recordFault page k (faultCode page k) 0xFFFF 0xFFFF 0#64 c

/-- Takes one free value: the machine goes on with a value that nothing constrains. -/
def takeFree (c : Chip) : Nat × Chip := (Config.freeNat c.free, { c with free := c.free + 1 })

/-- A count of cycles grows by as many as the spec does not say: arbitration and pipeline timing are not modelled. -/
def growCount (old : Nat) (c : Chip) : Nat × Chip :=
  let (x, c) := takeFree c
  ((old + x) % 2 ^ 48, c)

/-! ## Local memory -/

/-- The words of a list of byte offsets that carry an error, with it. -/
def errWords (c : Chip) (offs : List Nat) : List (Nat × WordErr) :=
  c.lmem.ecc.filter fun p => offs.any fun a => a / 8 == p.1

/-- An uncorrectable state of a word. -/
def WordErr.bad : WordErr → Bool
  | .double => true
  | .poison => true
  | _ => false

/-- Poisons a word at its first uncorrectable detection, or reports it again (R192). -/
def poisonWord (cls w : Nat) (was : WordErr) (c : Chip) : Chip :=
  let c :=
    if was = .poison then c
    else { c with
      lmem.ecc := SMap.set .ok c.lmem.ecc w .poison
      lmem.ueCount := satAdd 16 c.lmem.ueCount 1
      lmem.logWord := if c.lmem.logV then c.lmem.logWord else w
      lmem.logClass := if c.lmem.logV then c.lmem.logClass else cls
      lmem.logV := true }
  pageFault pLMEM .eccUncorr c

/-- Corrects a single-bit error met by a read: counted, and written back later when ECC_WB is set (R191). -/
def correctWord (w : Nat) (c : Chip) : Chip :=
  { c with
    lmem.ceCount := satAdd 32 c.lmem.ceCount 1
    lmem.wbQueue := if c.lmem.eccWb && !(c.lmem.wbQueue.contains w) then c.lmem.wbQueue ++ [w] else c.lmem.wbQueue }

/-- The effects of reading bytes of LMEM in a requestor class, and whether an uncorrectable word was among them, in which
case its data reach no reader (R190 to R192). -/
def eccRead (cls : Nat) (offs : List Nat) (c : Chip) : Bool × Chip :=
  let ws := errWords c offs
  (ws.any fun p => p.2.bad,
   ws.foldl (fun c p =>
      match p.2 with
      | .ok => c
      | .single => correctWord p.1 c
      | e => poisonWord cls p.1 e c) c)

/-- All eight bytes of a word are among the cells, and none of them keeps old bits. -/
def coversWord (kept : List Nat) (cells : List (Nat × Byte)) (w : Nat) : Bool :=
  (rangeFrom (8 * w) 8).all fun a => (cells.any fun p => p.1 == a) && !(kept.contains a)

/-- The words in error that the cells write only in part; `kept` names bytes of the cells that keep some of their bits. A
partial write is a read-modify-write (R188). -/
def partialErr (kept : List Nat) (cells : List (Nat × Byte)) (c : Chip) : List (Nat × WordErr) :=
  (errWords c (cells.map Prod.fst)).filter fun p => !(coversWord kept cells p.1)

/-- The words that the cells write only in part and that are uncorrectable (R193). -/
def partialBad (kept : List Nat) (cells : List (Nat × Byte)) (c : Chip) : List (Nat × WordErr) :=
  (partialErr kept cells c).filter fun p => p.2.bad

/-- The error state of a written word, with an armed injection (Table 7.8). -/
def injected (c : Chip) (w : Nat) (e : WordErr) : WordErr :=
  if c.lmem.injArm && decide (c.lmem.injWord = w) then
    (if c.lmem.injBits = 1 then .single else if c.lmem.injBits = 2 then .double else e)
  else e

/-- Writes bytes of LMEM: whole words replace a word and clear its poison, a partial write of an uncorrectable word
writes nothing to it, one of a word with a single error corrects it, and an armed error injection strikes the first write
to its word (R188, R191, R193, R202). -/
def lmemWriteCells (kept : List Nat) (cells : List (Nat × Byte)) (c : Chip) : Chip :=
  let bad := (partialBad kept cells c).map Prod.fst
  let fixed := (partialErr kept cells c).length - bad.length
  let live := cells.filter fun p => !(bad.contains (p.1 / 8))
  let mem := live.foldl (fun m p => Mem.set m p.1 p.2) c.lmem.mem
  let hit := c.lmem.injArm && live.any fun p => p.1 / 8 == c.lmem.injWord
  let ecc := SMap.mapVal .ok (fun w e => if live.any (fun p => p.1 / 8 == w) then .ok else e) c.lmem.ecc
  let ecc := if hit then SMap.set .ok ecc c.lmem.injWord (injected c c.lmem.injWord .ok) else ecc
  let wb := c.lmem.wbQueue.filter fun w => !(live.any fun p => p.1 / 8 == w)
  { c with
    lmem.mem := mem, lmem.ecc := ecc, lmem.wbQueue := wb, lmem.injArm := c.lmem.injArm && !hit
    lmem.ceCount := satAdd 32 c.lmem.ceCount fixed }

/-- Consecutive bytes as cells. -/
def cellsAt (off : Nat) : List Byte → List (Nat × Byte)
  | [] => []
  | b :: bs => (off, b) :: cellsAt (off + 1) bs

/-- Writes consecutive bytes of LMEM. -/
def lmemWrite (off : Nat) (bs : List Byte) (c : Chip) : Chip := lmemWriteCells [] (cellsAt off bs) c

/-- Bytes of LMEM as stored. -/
def lmemBytes (c : Chip) (off n : Nat) : List Byte := Mem.read c.lmem.mem off n

/-- A little-endian number in LMEM as stored. -/
def lmemNat (c : Chip) (off n : Nat) : Nat := Mem.readNat c.lmem.mem off n

/-- A range lies in mapped LMEM. -/
def inLmem (off n : Nat) : Bool := decide (off + n ≤ Config.lmemBytes)

/-! ## The core's own LCN and local addresses (R31, R66) -/

/-- The LCN that the active route table's SELF entry holds; `none` before the first SWAP. -/
def ownLcn (c : Chip) : Option Nat :=
  (c.tlk.active.find? fun p => p.2.testBit 26 && bits p.2 20 3 == 7).map fun p => bits p.2 0 20

/-- The address targets this core. -/
def isSelf (c : Chip) (a : Nat) : Bool := lcnOf a == selfLcn || ownLcn c == some (lcnOf a)

/-- The LMEM offset of a range, if it lies in this core's LMEM whole. -/
def localLmem (c : Chip) (a n : Nat) : Option Nat :=
  if isSelf c a && decide (regionOf (offOf a) n = some .lmem) then some (offOf a) else none

/-! ## Saturating statistics of a page -/

/-- An array that CORE_ARRAY_PRESENT reports present (R7). -/
def bitOf (mask i : Nat) : Bool := mask.testBit i

end Sys2Proof.Machine
end

