-- ==== Sys2Proof/Machine/Drogue.lean ====
section
/-! DEFINITION. The drogue as the starts of engines meet it (Power, Clocks, Wake and Start, section 19.4): units, steps, ranks,
requests and which of them is admitted next (R463 to R466). -/

namespace Sys2Proof.Machine

/-- The unit that a request is for: the halves of an array's step are requests of the array (R466). -/
def unitOf (u : Nat) : Nat := if 17 ≤ u then u - 16 else if 13 ≤ u then u - 12 else u

/-- The requester of a unit, in the order of Table 19.5: 0 BASE to 6 DVFS. -/
def requesterOf (u : Nat) : Nat :=
  let u := unitOf u
  if u = 0 then 0 else if u ≤ 4 then 1 else if u ≤ 8 then 2 else u - 6

/-- The step field of a requester (Table 19.12). -/
def stepField (c : Chip) (k : Nat) : Nat := fld c.pwr.step (8 * k) 8

/-- The step of a request made now; the second half of an array's step is what the first leaves. -/
def stepOf (c : Chip) (u : Nat) : Nat :=
  let s := stepField c (requesterOf u)
  if 17 ≤ u then s / 2 else if 13 ≤ u then s - s / 2 else s

/-- The rank of a request made now: BASE before all (Tables 19.5 and 19.13). -/
def rankOf (c : Chip) (u : Nat) : Nat :=
  let k := requesterOf u
  if k = 0 then 0 else bits c.pwr.prio (3 * (k - 1)) 3 + 1

/-- PWR_BUDGET fields, in units of 0.125 A: the budget as taken, IDLE and RESERVE. -/
def budgetOf (c : Chip) : Nat := min (fld c.pwr.budget 0 12) 0x640
def idleLoad (c : Chip) : Nat := fld c.pwr.budget 12 12
def reserveOf (c : Chip) : Nat := fld c.pwr.budget 24 12

/-- PWR_STEP.BASE. -/
def baseStep (c : Chip) : Nat := stepField c 0

/-- SLEW as taken. -/
def slewOf (c : Chip) : Nat := max 8 c.pwr.slew

/-- A request made now, with what it is made under (R472). -/
def newRequest (u : Nat) (c : Chip) : PwrReq := ⟨u, now c, stepOf c u, rankOf c u, budgetOf c, slewOf c⟩

/-- A rise fits in the budget that is not lent: the budget under which it was made, and never more than the present one (R455,
R464, R472). -/
def stepFits (c : Chip) (q : PwrReq) : Bool := decide (c.pwr.decl + q.step ≤ min q.amps (budgetOf c) - c.pwr.lent)

/-- ns that the ramp of a request takes, rounded up (R464). -/
def rampNs (q : PwrReq) : Nat := (1000 * q.step + q.slew - 1) / q.slew

/-- One request goes before another: by rank, then in the order of Table 19.5, then by unit number. -/
def PwrReq.before (a b : PwrReq) : Bool :=
  decide (a.rank < b.rank) || (a.rank == b.rank && (decide (requesterOf a.unit < requesterOf b.unit)
    || (requesterOf a.unit == requesterOf b.unit && decide (unitOf a.unit < unitOf b.unit))))

/-- The waiting request that the drogue looks at. -/
def drogueHead (c : Chip) : Option PwrReq :=
  c.pwr.queue.foldl (fun h q => match h with
    | none => some q
    | some a => if q.before a then some q else some a) none

/-- The request that can be admitted now: no ramp runs, no undervoltage lasts, and the head of the queue fits (R456,
R464). -/
def admissible (c : Chip) : Option PwrReq :=
  if c.pwr.ramp.isSome || c.pwr.uvNow || c.pwr.state != 0 then none else (drogueHead c).filter (stepFits c)

/-- Sets WAKE_DEFERRED, with its event at the change (R465, R483). -/
def noteDeferred (u : Nat) (c : Chip) : Chip :=
  if c.pwr.wakeDeferred then c
  else emit 0x05 pPWR 3#64 (BitVec.ofNat 64 (requesterOf u)) { c with pwr.wakeDeferred := true }

/-- A unit of the drogue may run without a request (R463). -/
def unitOn (c : Chip) (u : Nat) : Bool := (SMap.get none c.pwr.ungated (unitOf u)).isSome

/-- A unit's request is queued or ramping. -/
def unitAsked (c : Chip) (u : Nat) : Bool :=
  c.pwr.ramp.any (fun r => unitOf r.unit == unitOf u) || c.pwr.queue.any fun q => unitOf q.unit == unitOf u

/-- BASE ramps: an exit or a start ends with its ramp (R464). -/
def baseRamps (c : Chip) : Bool := c.pwr.ramp.any fun r => r.unit == 0

/-- Lowers PL_REQ: an offer is withdrawn, lent budget is reclaimed (R467). -/
def reclaim (c : Chip) : Chip :=
  match c.pwr.lend with
  | 1 => { c with pwr.lend := 0, pwr.plReq := false }
  | 2 => { c with pwr.lend := 3, pwr.plReq := false, pwr.reclaimFrom := some (now c) }
  | _ => c

/-- A request leaves the queue admitted: D rises by its step, and its wait is added to PWR_DEFER (R464, R465). -/
def grantStep (h : PwrReq) (c : Chip) : Chip :=
  { c with
    pwr.queue := c.pwr.queue.filter fun q => q != h
    pwr.decl := c.pwr.decl + h.step
    pwr.deferNs := (c.pwr.deferNs + (now c - h.since)) % 2 ^ 48 }

/-- A request is admitted and ramps for its step at the slew (R464). -/
def grantRamp (h : PwrReq) (c : Chip) : Chip := { grantStep h c with pwr.ramp := some h, pwr.rampEnd := now c + rampNs h }

/-- DROGUE_ADMIT: the head of the queue is admitted if it fits, and ramps; if it does not fit, lent budget is reclaimed (R464). -/
def drogueAdmit (c : Chip) : Chip :=
  match admissible c with
  | some h => grantRamp h c
  | none =>
    if c.pwr.ramp.isNone && !c.pwr.uvNow && c.pwr.state == 0 && !c.pwr.queue.isEmpty then reclaim c else c

/-- Makes a request; one that is not admitted in the cycle in which it is made is deferred (R463, R465). -/
def addRequest (u : Nat) (c : Chip) : Chip :=
  let q := newRequest u c
  let c := drogueAdmit { c with pwr.queue := c.pwr.queue ++ [q] }
  if c.pwr.ramp = some q then c else noteDeferred u c

/-- Queues a start with the drogue unless its unit runs or has asked already (R463). -/
def requestUnit (u : Nat) (c : Chip) : Chip := if unitOn c u || unitAsked c u then c else addRequest u c

end Sys2Proof.Machine
end

