-- ==== Sys2Proof/Machine/Fec.lean ====
section
/-! DEFINITION. The code of the tether lanes: RS(288,272) over GF(2^10), the flit in its symbols with its CRC, and the symbols
on the lanes (R401 to R403). -/

namespace Sys2Proof.Machine

/-! ## GF(2^10) (R401) -/

/-- α times an element, α being a root of x^10 + x^3 + 1. -/
def gfX (a : Nat) : Nat := if (2 * a).testBit 10 then (2 * a) ^^^ 0x409 else 2 * a

/-- The product with the low bits of an element. -/
def gfMulBits (a : Nat) : Nat → Nat → Nat
  | 0, _ => 0
  | n + 1, b => gfX (gfMulBits a n (b / 2)) ^^^ (if b % 2 = 1 then a else 0)

/-- The product of two elements. -/
def gfMul (a b : Nat) : Nat := gfMulBits a 10 b

/-- A product of successive squares. -/
def gfSquares : Nat → Nat → Nat
  | 0, _ => 1
  | n + 1, s => gfMul s (gfSquares n (gfMul s s))

/-- The inverse of an element other than 0: its power 1,022. -/
def gfInv (a : Nat) : Nat := gfSquares 9 (gfMul a a)

/-- A power of α. -/
def gfAlpha : Nat → Nat
  | 0 => 1
  | n + 1 => gfX (gfAlpha n)

/-- The inverse of α. -/
def gfDown : Nat := 0x204

/-! ## Polynomials, lowest coefficient first -/

/-- The sum of two polynomials. -/
def polyAdd : List Nat → List Nat → List Nat
  | [], b => b
  | a, [] => a
  | x :: a, y :: b => (x ^^^ y) :: polyAdd a b

/-- The product of two polynomials. -/
def polyMul : List Nat → List Nat → List Nat
  | [], _ => []
  | x :: a, b => polyAdd (b.map (gfMul x)) (0 :: polyMul a b)

/-- The value of a polynomial at an element. -/
def polyAt (x : Nat) : List Nat → Nat
  | [] => 0
  | c :: cs => c ^^^ gfMul x (polyAt x cs)

/-- The derivative of a polynomial. -/
def polyDeriv : List Nat → List Nat
  | [] => []
  | [_] => []
  | _ :: y :: cs => y :: (match cs with
    | [] => []
    | _ => 0 :: polyDeriv cs)

/-! ## Encoding and decoding (R401) -/

/-- g(x) = (x − α^0) … (x − α^15). -/
def rsGenerator : List Nat := (rangeFrom 0 16).foldl (fun g i => polyMul g [gfAlpha i, 1]) [1]

/-- The coefficients 0 to 15 of α^j g(x), 10 bits each, for j from 0 to 9: what one bit of a symbol adds to a remainder. -/
def rsTaps : List Nat :=
  [ 0x8E226BB2D4A2BEDBA01B3326936A53736EAF0378, 0x1E445745A1477D376436660DB6D0AFE69DDE26F9
  , 0x3C88AE8B428EBAFEC86CCC1B6DA15ECF7BAC6DFB, 0x79114D368D1F757DB4D89A76CB66BC9CF7D8FFF6
  , 0xF2228A4D133EAA7B4DB036ED16ED713BEF31DFE5, 0xE64594BE267D1476BF606D9ABDDAE2779EF3BBC3
  , 0xCECB297845FA28ED7AC9DB356B95CDEF3DE7738F, 0x9FD642D48AF6515AD59BB46A570F9ADC7B5EE317
  , 0x3DEC85A914EEE2A58F366AD43E1B3DBAF63DE627, 0x7B999B5228DFC5DB1A65D5A86C167377ECFBEC47 ]

/-- What the bits of a symbol add to a remainder. -/
def rsFeed : List Nat → Nat → Nat
  | [], _ => 0
  | t :: ts, f => (if f % 2 = 1 then t else 0) ^^^ rsFeed ts (f / 2)

/-- The remainder of s(x) x^16 by g(x), of symbols that stand highest power first, after an earlier remainder. -/
def rsRemFrom : Nat → List Nat → Nat
  | r, [] => r
  | r, s :: ss => rsRemFrom ((r <<< 10) % 2 ^ 160 ^^^ rsFeed rsTaps (r >>> 150 ^^^ s)) ss

/-- That remainder for a list of symbols. -/
def rsRem (ss : List Nat) : Nat := rsRemFrom 0 ss

/-- The codeword of 272 message symbols: the message, then 16 parity symbols. -/
def rsEncode (m : List Nat) : List Nat :=
  let r := rsRem m
  m ++ (rangeFrom 0 16).map fun i => bits r (10 * (15 - i)) 10

/-- The shortest register that produces the syndromes: connection polynomial, length, and what the search keeps. -/
structure LocSt where
  loc : List Nat
  len : Nat
  old : List Nat
  gap : Nat
  dif : Nat
deriving DecidableEq, Repr

/-- One more syndrome of the search (Berlekamp and Massey). -/
def locStep (syn : List Nat) (s : LocSt) (n : Nat) : LocSt :=
  let d := (rangeFrom 0 (s.len + 1)).foldl (fun a i => a ^^^ gfMul (nth 0 s.loc i) (nth 0 syn (n - i))) 0
  if d = 0 then { s with gap := s.gap + 1 }
  else
    let k := gfMul d (gfInv s.dif)
    let loc := polyAdd s.loc (List.replicate s.gap 0 ++ s.old.map (gfMul k))
    if 2 * s.len ≤ n then { loc := loc, len := n + 1 - s.len, old := s.loc, gap := 1, dif := d }
    else { s with loc := loc, gap := s.gap + 1 }

/-- The error locator of syndromes. -/
def locator (syn : List Nat) : LocSt := (rangeFrom 0 syn.length).foldl (locStep syn) ⟨[1], 0, [1], 1, 1⟩

/-- The powers from `p` on, `n` in count, at whose inverse element the locator is 0; `x` is that of `p`. -/
def locRoots (loc : List Nat) : Nat → Nat → Nat → List (Nat × Nat)
  | 0, _, _ => []
  | n + 1, p, x => (if polyAt x loc = 0 then [(p, x)] else []) ++ locRoots loc n (p + 1) (gfMul x gfDown)

/-- The value of the error at a power of s(x) x^16 (Forney). -/
def errorAt (loc val : List Nat) (p x : Nat) : Nat :=
  gfMul (gfAlpha p) (gfMul (polyAt x val) (gfInv (polyAt x (polyDeriv loc))))

/-- A list with one symbol changed. -/
def xorAt (v : Nat) : List Nat → Nat → List Nat
  | [], _ => []
  | s :: ss, 0 => (s ^^^ v) :: ss
  | s :: ss, n + 1 => s :: xorAt v ss n

/-- What a receiver makes of 288 symbols: the codeword that differs in at most 8 of them and how many it corrected; `none` for an
uncorrectable codeword. -/
def rsDecode (ss : List Nat) : Option (List Nat × Nat) :=
  let r := rsRem ss
  if ss.length ≠ 288 then none
  else if r = 0 then some (ss, 0)
  else
    let rc := (rangeFrom 0 16).map fun i => bits r (10 * i) 10
    let syn := (rangeFrom 0 16).map fun i => polyAt (gfAlpha i) rc
    let l := locator syn
    let val := (polyMul syn l.loc).take 16
    let es := locRoots l.loc 288 16 (gfInv (gfAlpha 16))
    if l.len ≤ 8 ∧ es.length = l.len then
      let fixed := es.foldl (fun w e => xorAt (errorAt l.loc val e.1 e.2) w (303 - e.1)) ss
      if rsRem fixed = 0 then some (fixed, es.length) else none
    else none

/-! ## CRC-32C (R402) -/

/-- One step of the reflected CRC-32C over a bit. -/
def crcBit (crc : Nat) : Nat := if crc % 2 = 1 then (crc / 2) ^^^ 0x82F63B78 else crc / 2

/-- The CRC after one byte. -/
def crcByte (crc : Nat) (b : Byte) : Nat :=
  let x := crc ^^^ b.toNat
  crcBit (crcBit (crcBit (crcBit (crcBit (crcBit (crcBit (crcBit x)))))))

/-- CRC-32C of a byte string. -/
def crc32c (bs : List Byte) : Nat := (bs.foldl crcByte 0xFFFFFFFF) ^^^ 0xFFFFFFFF

/-! ## Symbols, bits and lanes (R402, R403) -/

/-- The 272 message symbols of a flit: bit j of symbol k is bit 10 k + j of its bytes. -/
def flitSymbols (bs : List Byte) : List Nat :=
  let x := leNat bs
  (rangeFrom 0 272).map fun k => bits x (10 * k) 10

/-- The 340 bytes of 272 message symbols. -/
def symbolBytes (ss : List Nat) : List Byte :=
  leBytes 340 (ss.foldr (fun s x => s % 1024 + 1024 * x) 0)

/-- What the active lane `i` of `w` carries for a codeword: the symbols k with k mod w = i, bit 0 of each first. -/
def laneBits (w i : Nat) (ss : List Nat) : Nat :=
  (rangeFrom 0 (288 / w)).foldr (fun m x => nth 0 ss (i + w * m) % 1024 + 1024 * x) 0

/-- The symbols of a codeword from what its active lanes carry for it. -/
def lanesSymbols (ls : List Nat) : List Nat :=
  (rangeFrom 0 288).map fun k => bits (nth 0 ls (k % ls.length)) (10 * (k / ls.length)) 10

/-- Word `n` of 128 bits that a lane sends for successive codewords: their symbols back to back, packed from bit 0 upward. -/
def laneWord (w i : Nat) (cs : List (List Nat)) (n : Nat) : Nat :=
  bits (cs.foldr (fun c x => laneBits w i c + 2 ^ (2880 / w) * x) 0) (128 * n) 128

end Sys2Proof.Machine
end

