-- ==== Sys2Proof/Machine/Counters.lean ====
section
/-! DEFINITION. Counters, virtual maps and signals (Counters, Waits and the Bridle Lines, sections 6.1 to 6.4): adding to
a counter, translating a virtual counter, and applying a remote signal that has reached its target. -/

namespace Sys2Proof.Machine

/-- The largest counter value. -/
def ctrMax : Nat := 2 ^ 48 - 1

/-- The virtual counter number that means none (R121). -/
def noCtr : Nat := 0xFFFF

/-- A wait on a counter is satisfied: the value has reached the threshold and the counter is not poisoned (R163, R168). -/
def reached (c : Chip) (p thr : Nat) : Bool := !(ctrOf c p).poisoned && decide (thr ≤ (ctrOf c p).value)

/-- What CTRRD and SYNC_CTR_VAL read: a poisoned counter reads as all ones (R163). -/
def ctrRead (c : Chip) (p : Nat) : Nat := if (ctrOf c p).poisoned then ctrMax else (ctrOf c p).value

/-- Sets HIT of every armed watch on a counter that a change carries from below THRESH to at or above it (Table 6.17). -/
def watchCross (p old new : Nat) (c : Chip) : Chip :=
  let cross (w : Watch) : Bool := w.armed && decide (w.ctr = p ∧ old < w.thresh ∧ w.thresh ≤ new)
  let f (_ : Nat) (w : Watch) : Watch := if cross w then { w with hit := true } else w
  { c with sync.watches := SMap.mapVal .reset f c.sync.watches }

/-- Records a saturation (R161). -/
def recordSat (p : Nat) (c : Chip) : Chip :=
  let c := { c with sync.satCtr := if c.sync.satV then c.sync.satCtr else p, sync.satV := true }
  pageFault pSYNC .ctrSat c

/-- Signals a physical counter: adds the increment, holding at the largest value with CTR_SAT when the sum would pass it;
a poisoned counter ignores signals and an increment of 0 changes nothing (R160, R161, R163). -/
def addCounter (p inc : Nat) (c : Chip) : Chip :=
  let k := ctrOf c p
  if inc = 0 ∨ k.poisoned then c
  else
    let v := min (k.value + inc) ctrMax
    let c := setCtr p ⟨v, false⟩ c
    let c := watchCross p k.value v c
    let c := emit 0x02 pSYNC (pack [(0, 16, p), (16, 16, inc)]) (BitVec.ofNat 64 v) c
    if ctrMax < k.value + inc then recordSat p c else c

/-- What a FAULT event names (Table 20.1): a context and its PC, or a ring and a descriptor index, 0xFFFF where none. -/
structure Blame where
  ctx : Nat
  ring : Nat
  d1 : W64

/-- Neither a context nor a ring. -/
def blameNone : Blame := ⟨0xFFFF, 0xFFFF, 0#64⟩
/-- A context at an instruction. -/
def blameCtx (n : Nat) (pc : W64) : Blame := ⟨n, 0xFFFF, pc⟩
/-- A descriptor of a ring. -/
def blameDesc (n idx : Nat) : Blame := ⟨0xFFFF, n, BitVec.ofNat 64 idx⟩

/-- Records a misuse of counters on the SYNC page (R165). -/
def syncMisuse (b : Blame) (c : Chip) : Chip := recordFault pSYNC .ctrMisuse (faultCode pSYNC .ctrMisuse) b.ctx b.ring b.d1 c

/-- The map of a context (Table 6.9). -/
def mapOf (c : Chip) (ctx : Nat) : CtxMap := SMap.get CtxMap.reset c.sync.maps ctx

/-- The key of a cached translation. -/
def tcKey (ctx v : Nat) : Nat := ctx * 65536 + v

/-- The physical counter that a map entry word names (Table 6.1). -/
def entryCtr (e : Nat) : Option Nat := if bits e 31 1 = 1 ∧ bits e 16 15 = 0 then some (bits e 0 16) else none

/-- Reads the map entry of a virtual counter from LMEM; a poisoned word makes it untranslatable (R164, R165, Table 7.1). -/
def readEntry (ctx v : Nat) (c : Chip) : Option Nat × Chip :=
  let m := mapOf c ctx
  if ctx < Config.contexts ∧ m.en ∧ v < m.len then
    let off := m.base + 4 * v
    let (bad, c) := eccRead 2 (rangeFrom off 4) c
    if bad then (none, c) else (entryCtr (lmemNat c off 4), c)
  else (none, c)

/-- Lists a translation in the cache of 8,192 entries; of a full cache an entry goes, which of them the spec does not say
(R167, log 20). -/
def tcInsert (ctx v p : Nat) (c : Chip) : Chip :=
  if c.sync.tcache.length < 8192 then { c with sync.tcache := SMap.set none c.sync.tcache (tcKey ctx v) (some p) }
  else
    let (k, c) := takeFree c
    { c with sync.tcache := SMap.set none (c.sync.tcache.eraseIdx (k % 8192)) (tcKey ctx v) (some p) }

/-- Reads a translation from the map and caches it; an untranslatable counter records CTR_MISUSE on the SYNC page (R165). -/
def translateRead (b : Blame) (ctx v : Nat) (c : Chip) : Option Nat × Chip :=
  match readEntry ctx v c with
  | (some p, c) => (some p, tcInsert ctx v p c)
  | (none, c) => (none, syncMisuse b c)

/-- The map still says what a cached translation says. -/
def mapAgrees (c : Chip) (ctx v p : Nat) : Bool :=
  let m := mapOf c ctx
  m.en && decide (v < m.len) && entryCtr (lmemNat c (m.base + 4 * v) 4) == some p

/-- LMEM can be read: in P0 of a running core (R175). -/
def mapsReadable (c : Chip) : Bool := decide (c.core.phase = .running) && c.pwr.state == 0

/-- Translates a virtual counter of a context. A number past every LEN is untranslatable. A cached translation that the map no
longer agrees with is used, or the map is read again: which of the two the spec does not say (R167); it is used while LMEM cannot
be read (R175). -/
def translate (b : Blame) (ctx v : Nat) (c : Chip) : Option Nat × Chip :=
  if 65536 ≤ v then (none, syncMisuse b c)
  else
    match SMap.get none c.sync.tcache (tcKey ctx v) with
    | some p =>
      if mapAgrees c ctx v p || !mapsReadable c then (some p, c)
      else
        let (n, c) := takeFree c
        if n % 2 = 0 then (some p, c)
        else translateRead b ctx v { c with sync.tcache := SMap.erase c.sync.tcache (tcKey ctx v) }
    | none => translateRead b ctx v c

/-- Epochs are compared modulo 2^32: `a` is older than `b` (R173). -/
def epochOlder (a b : Nat) : Bool := decide (1 ≤ sub32 b a ∧ sub32 b a ≤ 2 ^ 31)

/-- The context that a job names (R173 step 2). -/
def jobCtx (c : Chip) (job : Nat) : Option Nat :=
  let e := SMap.get 0 c.sync.jobs (job % 4096)
  if e.testBit 16 ∧ e % 65536 < Config.contexts then some (e % 65536) else none

/-- Counts a signal dropped for its job or counter (R173 steps 2 and 3). -/
def countNoJob (c : Chip) : Chip := { c with sync.nojob := satAdd 16 c.sync.nojob 1 }

/-- Translates a signal's counter through its job: steps 2 and 3 of R173, with the drop counted. -/
def jobTranslate (job ctr : Nat) (c : Chip) : Option Nat × Chip :=
  match jobCtx c job with
  | none => (none, countNoJob (syncMisuse blameNone c))
  | some x =>
    match (if ctr = noCtr then (none, syncMisuse blameNone c) else translate blameNone x ctr c) with
    | (some p, c) => (some p, c)
    | (none, c) => (none, countNoJob c)

/-- Counts a signal of this core that was refused or discarded (R173, R174, R416). -/
def countRefused (n : Nat) (c : Chip) : Chip := { c with sync.refused := satAdd 16 c.sync.refused n }

/-- A signal whose LCN is this core's own: it does not leave the core; under its epoch it goes through the job map (R172, R173). -/
def selfSignal (epoch job ctr inc : Nat) (c : Chip) : Chip :=
  if epochOlder epoch c.sync.epochMin then
    countRefused 1 (pageFault pSYNC .routeEpoch { c with sync.stale := satAdd 16 c.sync.stale 1 })
  else
    match jobTranslate job ctr c with
    | (some p, c) => addCounter p inc c
    | (none, c) => countRefused 1 c

/-- The RSIGNAL event of an arriving signal (Table 20.1). -/
def rsigEvent (x : InSig) (status : Nat) (c : Chip) : Chip :=
  emit 0x03 pSYNC (pack [(0, 20, x.src), (20, 12, x.job), (32, 16, x.ctr), (48, 16, x.inc)])
    (pack [(0, 32, x.epoch), (32, 16, status)]) c

/-- Applies a remote signal at its target (R173, R176): answers the status for its SIGACK, 0 when it was applied (or is
held by COMPAT until its time). -/
def applySignal (x : InSig) (c : Chip) : Nat × Chip :=
  if !x.untimed && epochOlder x.epoch c.sync.epochMin then
    let c := pageFault pSYNC .routeEpoch { c with sync.stale := satAdd 16 c.sync.stale 1 }
    (faultCode pSYNC .routeEpoch, rsigEvent x (faultCode pSYNC .routeEpoch) c)
  else
    match jobTranslate x.job x.ctr c with
    | (none, c) => (faultCode pSYNC .ctrMisuse, rsigEvent x (faultCode pSYNC .ctrMisuse) c)
    | (some p, c) =>
      let c := rsigEvent x 0 c
      if c.sync.compat && !x.untimed && decide (now c < x.tRaise + 1000) then
        (0, { c with sync.compatHeld := c.sync.compatHeld ++ [{ x with target := p }] })
      else (0, addCounter p x.inc c)

end Sys2Proof.Machine
end

