-- ==== Sys2Proof/Machine/Rings.lean ====
section
/-! DEFINITION. Rings and the life of a descriptor (Rings and Descriptors): header fields, fetching, the wait step,
rejection and abandonment, completion in ring order, timestamps and notices. -/

namespace Sys2Proof.Machine

/-! ## Descriptor fields (Tables 5.1 and 5.2) -/

/-- Word `i` of a descriptor. -/
def Desc.word (d : Desc) (i : Nat) : W64 := nth 0#64 d.words i

/-- A payload field by byte and width in bytes. -/
def Desc.bytes (d : Desc) (at_ n : Nat) : Nat := bits (packNat ((rangeFrom 0 (d.words.length)).map fun i => (64 * i, 64, (d.word i).toNat))) (8 * at_) (8 * n)

/-- A payload field by bit position and width, bit 0 of byte 0 first. -/
def Desc.field (d : Desc) (lo w : Nat) : Nat :=
  bits (packNat ((rangeFrom 0 (d.words.length)).map fun i => (64 * i, 64, (d.word i).toNat))) lo w

def Desc.opc (d : Desc) : Nat := fld (d.word 0) 0 8
def Desc.eng (d : Desc) : Nat := fld (d.word 0) 8 4
def Desc.serial (d : Desc) : Bool := bitAt (d.word 0) 12
def Desc.irq (d : Desc) : Bool := bitAt (d.word 0) 13
def Desc.tsReq (d : Desc) : Bool := bitAt (d.word 0) 16
def Desc.chain (d : Desc) : Bool := bitAt (d.word 0) 17
def Desc.maskZero (d : Desc) : Bool := bitAt (d.word 0) 18
def Desc.engf (d : Desc) : Nat := fld (d.word 0) 24 8
def Desc.waitCtr (d : Desc) : Nat := fld (d.word 0) 32 16
def Desc.sigCtr (d : Desc) : Nat := fld (d.word 0) 48 16
def Desc.waitVal (d : Desc) : Nat := fld (d.word 1) 0 48
def Desc.sigInc (d : Desc) : Nat := fld (d.word 1) 48 16

/-- The header's RES0 bits are zero: [15:14] and FLAGS [7:3]. -/
def Desc.headerRes0 (d : Desc) : Bool := fld (d.word 0) 14 2 == 0 && fld (d.word 0) 19 5 == 0

/-- A descriptor as fetched. -/
def Desc.fetched (idx slots : Nat) (ws : List W64) : Desc :=
  { idx := idx, slots := slots, words := ws, phase := .waiting, atStep2 := false, waitP := none, sigP := none
    tReady := none, tStart := none, tDone := none, held := false, silent := false, cap := [], samp := [], rbuf := []
    pins := [], writes := [], rmap := [], wmap := [], bufs := [], staged := false, sums := [], due := 0, taps := []
    gen := 0, lEpoch := 0, arrs := [], mask := 0, chs := [], took := [], fed := [], fedRuns := 0
    part := [], norm := 0, flags := 0, peak := 0, badRank := none, prog := 0, later := [], laterKept := [], laterCls := 0
    raced := [], seen := [], racedBy := [], wraced := [], laterCarry := [], uncounted := 0, wrote := 0 }

/-- It has issued and has not completed. One whose checks have passed and whose start waits counts as issued: SETIDX is refused for
it, and a warm start abandons it. DESIGN CHOICE (log 82). -/
def Desc.inFlight (d : Desc) : Bool :=
  match d.phase with
  | .checked => true
  | .running => true
  | .worked => true
  | _ => false

/-- It has started and has not completed. -/
def Desc.started (d : Desc) : Bool :=
  match d.phase with
  | .running => true
  | .worked => true
  | _ => false

/-- What a descriptor does once its writes to other cores are acknowledged is still to be done. -/
def Desc.owes (d : Desc) : Bool := !d.later.isEmpty || !d.laterCarry.isEmpty || decide (d.uncounted ≠ 0)

/-! ## Rings -/

/-- The context that owns a ring (R126). -/
def ringCtx (n : Nat) : Nat := n / 32

/-- Slots of a ring. -/
def Ring.size (r : Ring) : Nat := 2 ^ r.log2

/-- Slots that hold descriptors (R130). -/
def Ring.used (r : Ring) : Nat := sub32 r.tail r.head

/-- The index after the last fetched descriptor. -/
def Ring.nextFetch (r : Ring) : Nat :=
  match r.descs.getLast? with
  | some d => add32 d.idx d.slots
  | none => r.head

/-- Global address of the slot of an index (R130). -/
def Ring.slotAddr (r : Ring) (i : Nat) : Nat := byteAddr r.base (64 * (i % r.size))

/-- The descriptor of an index. -/
def Ring.find (r : Ring) (idx : Nat) : Option Desc := r.descs.find? fun d => d.idx == idx

/-- Replaces the descriptor of its index. -/
def Ring.put (r : Ring) (d : Desc) : Ring :=
  { r with descs := r.descs.map fun e => if e.idx = d.idx then d else e }

/-- The first descriptor that has not issued. -/
def Ring.nextIssue (r : Ring) : Option Desc :=
  r.descs.find? fun d => match d.phase with
    | .waiting => true
    | .refetch => true
    | _ => false

/-- RING_STAT.STATE (Table 5.12). -/
def Ring.state (r : Ring) : Nat :=
  if r.halted then 4
  else if r.abandoned then 5
  else if !r.en then 0
  else if r.head = r.tail then 1
  else if (r.descs.any Desc.inFlight) then 3
  else 2

/-- The descriptor a command names. -/
def descOf (c : Chip) (q : DescRef) : Option Desc := (ringOf c q.ring).find q.idx

/-- Replaces a descriptor. -/
def putDesc (n : Nat) (d : Desc) (c : Chip) : Chip := updRing n (fun r => r.put d) c

/-- Every descriptor of an engine class that satisfies a test, with its ring. -/
def classDescs (c : Chip) (cls : Nat) (p : Desc → Bool) : List (Nat × Desc) :=
  c.ring.rings.flatMap fun kr => if kr.2.cls = cls then (kr.2.descs.filter p).map fun d => (kr.1, d) else []

/-! ## Requests that leave the core -/

/-- The layout epoch that a request carries: for a descriptor and its tees RDU_EPOCH.CUR when it started, for any other agent its value
when the request is made (R393). -/
def layoutEpoch (c : Chip) : Who → Nat
  | .desc n idx => (((ringOf c n).find idx).map Desc.lEpoch).getD c.rdu.epoch
  | .tee id => ((c.snap.tees.find? fun t => t.id == id).map Tee.lEpoch).getD c.rdu.epoch
  | _ => c.rdu.epoch

/-- A request handed to the transmitters (R414); the link layer fills in tag and egress. -/
def ask (who : Who) (kind : ReqKind) (addr len : Nat) (data : List Byte) (vc : Nat) (c : Chip) : Chip :=
  { c with outbox := c.outbox ++
      [{ tag := 0, kind := kind, addr := addr, len := len, data := data, vc := vc, who := who
         rEpoch := c.tlk.routeEpoch, lEpoch := layoutEpoch c who, egress := 0, since := now c, sent := false }] }

/-- The pieces of a byte range that lie in one block of `blk` bytes each: (address, length). -/
def splitBlocks (blk : Nat) : Nat → Nat → Nat → List (Nat × Nat)
  | 0, _, _ => []
  | fuel + 1, a, n =>
    if n = 0 then []
    else
      let k := min n (blk - a % blk)
      (a, k) :: splitBlocks blk fuel (a + k) (n - k)

/-- A range handed to the transmitters as requests that each lie in one 4 KiB block (R409, R425). -/
def askRange (who : Who) (kind : ReqKind) (addr n : Nat) (data : List Byte) (vc : Nat) (c : Chip) : Chip :=
  (splitBlocks 4096 (n / 4096 + 2) addr n).foldl
    (fun c p => ask who kind p.1 p.2 ((data.drop (p.1 - addr)).take p.2) vc c) c

/-- The address lies in this core's host memory aperture. -/
def isHost (c : Chip) (a n : Nat) : Bool := isSelf c a && decide (regionOf (offOf a) n = some .host)

/-! ## Timestamps and notices (R154, R155) -/

/-- A notice to RING_DONE_Q; one that finds the queue full is dropped and OVF set. -/
def postNotice (n idx : Nat) (c : Chip) : Chip :=
  if c.ring.doneQ.length < 64 then { c with ring.doneQ := c.ring.doneQ ++ [(n, idx)] }
  else { c with ring.doneOvf := true }

/-- The 32-byte record of Table 5.7. -/
def stampBytes (d : Desc) (tDone fault : Nat) (held : Bool) : List Byte :=
  leBytes 8 (d.tReady.getD tDone) ++ leBytes 8 (d.tStart.getD tDone) ++ leBytes 8 tDone ++ leBytes 4 d.idx
    ++ leBytes 2 fault ++ leBytes 1 (b2n held) ++ [0#8]

/-- Writes the timestamp record of a descriptor that asked for one; a record whose address is not mapped is lost and
recorded on the RING page (R154). -/
def writeStamp (n : Nat) (d : Desc) (tDone fault : Nat) (held : Bool) (c : Chip) : Chip :=
  let r := ringOf c n
  if d.tsReq && r.tsEn then
    let a := byteAddr r.tsAddr (32 * (d.idx % r.size))
    let bs := stampBytes d tDone fault held
    match localLmem c a 32 with
    | some off => lmemWrite off bs c
    | none =>
      if isHost c a 32 then ask (.stamp n d.idx) .wr a 32 bs 0 c
      else recordFault pRING .addrUnmapped (faultCode pRING .addrUnmapped) 0xFFFF n (BitVec.ofNat 64 d.idx) c
  else c

/-- The DONE event of a descriptor (Table 20.1). -/
def doneEvent (n : Nat) (d : Desc) (page fault : Nat) (held : Bool) (c : Chip) : Chip :=
  { c with events := c.events ++
      [⟨now c, 0x01, page, pack [(0, 15, n), (32, 32, d.idx)], pack [(0, 16, fault), (16, 1, b2n held)], !d.tsReq⟩] }

/-! ## Rejection and abandonment (R146, R147) -/

/-- Halts a ring at a descriptor: rejected at issue, or abandoned after it started. The executing block's page records
the cause, RING_STAT holds the code and the index; the descriptor's record and notice are made now. If a second descriptor fails
while the ring is HALTED, RING_STAT names the latest, and the earlier one goes back to step 2 with the ring. DESIGN CHOICE
(log 84). One whose slots have not all been read is read again before it can issue (R139). -/
def haltRing (n : Nat) (d : Desc) (k : Cause) (c : Chip) : Chip :=
  let r := ringOf c n
  let page := classPage r.cls
  let code := faultCode page k
  let t := now c
  let d := { d with phase := if d.words.length < 8 * d.slots then .refetch else .waiting, atStep2 := false, pins := [], writes := [], rmap := [], wmap := [],
                    bufs := [], staged := false, sums := [], due := 0, taps := [], rbuf := [], prog := 0, samp := [], cap := [],
                    gen := 0, lEpoch := 0, arrs := [], mask := 0, chs := [], took := [], fed := [], fedRuns := 0,
                    part := [], norm := 0, flags := 0, peak := 0, badRank := none, later := [], laterKept := [], laterCls := 0,
                    raced := [], seen := [], racedBy := [], wraced := [], laterCarry := [], uncounted := 0, wrote := 0 }
  let c := setRing n { (r.put d) with halted := true, fault := code, fidx := d.idx } c
  let c := recordFault page k code 0xFFFF n (BitVec.ofNat 64 d.idx) c
  let c := writeStamp n d t code false c
  let c := doneEvent n d page code false c
  if d.irq then postNotice n d.idx c else c

/-! ## The wait step (R139 step 2, R140, R165, R166) -/

/-- Translates a descriptor counter; 0xFFFF is none. Answers `none` for one that is untranslatable. -/
def descCtr (n idx v : Nat) (c : Chip) : Option (Option Nat) × Chip :=
  if v = noCtr then (some none, c)
  else
    match translate (blameDesc n idx) (ringCtx n) v c with
    | (some p, c) => (some (some p), c)
    | (none, c) => (none, c)

/-- A ring's first unissued descriptor reaches step 2: both counters are translated, and one that cannot be halts the
ring with CTR_MISUSE (Table 6.2). -/
def reachStep2 (n : Nat) (c : Chip) : Chip :=
  let r := ringOf c n
  if r.halted || !r.en then c
  else
    match r.nextIssue with
    | none => c
    | some d =>
      if d.atStep2 ∨ d.phase ≠ .waiting then c
      else
        match descCtr n d.idx d.waitCtr c with
        | (none, c) => haltRing n d .ctrMisuse c
        | (some w, c) =>
          match descCtr n d.idx d.sigCtr c with
          | (none, c) => haltRing n d .ctrMisuse c
          | (some s, c) => putDesc n { d with atStep2 := true, waitP := w, sigP := s } c

/-- Every earlier descriptor of the ring has completed. -/
def earlierDone (r : Ring) (idx : Nat) : Bool :=
  (r.descs.takeWhile fun d => d.idx != idx).all fun d => decide (d.phase = .completed)

/-- The step 2 conditions hold, or have held: a release is not taken back (R139, R168). -/
def step2Holds (c : Chip) (r : Ring) (d : Desc) : Bool :=
  d.atStep2 && (d.tReady.isSome || ((match d.waitP with
    | none => true
    | some p => reached c p d.waitVal) && (!d.serial || earlierDone r d.idx)))

/-- Marks the moment at which the step 2 conditions of a ring's first unissued descriptor hold. -/
def markReady (n : Nat) (c : Chip) : Chip :=
  let r := ringOf c n
  match r.nextIssue with
  | none => c
  | some d =>
    if step2Holds c r d ∧ d.tReady = none then putDesc n { d with tReady := some (now c) } c else c

/-! ## Fetch (R139 step 1) -/

/-- Bytes at a global address as RING reads them: from LMEM, or from what host reads have returned. -/
def slotBytes (c : Chip) (r : Ring) (a n : Nat) : List Byte :=
  match localLmem c a n with
  | some off => lmemBytes c off n
  | none => (rangeFrom a n).map (SMap.get 0#8 r.rbuf)

/-- Reads `k` slots from an index: the bytes, `none` while a host read is outstanding, with the ECC effects. -/
def readSlots (n i k : Nat) (c : Chip) : Bool × Option (List W64) × Chip :=
  let r := ringOf c n
  let addrs := (rangeFrom 0 k).map fun j => r.slotAddr (add32 i j)
  let lm := addrs.flatMap fun a => match localLmem c a 64 with
    | some off => rangeFrom off 64
    | none => []
  let (bad, c) := eccRead 2 lm c
  let miss := addrs.filter fun a => (localLmem c a 64).isNone && !(r.rbuf.any fun p => p.1 == a)
  if bad then (true, none, c)
  else if miss.isEmpty then (false, some (addrs.flatMap fun a => leWords 8 (slotBytes c r a 64)), c)
  else (false, none, miss.foldl (fun c a =>
      if (c.outbox ++ c.tlk.waitReqs ++ c.hport.out).any (fun q => q.addr == a && q.who == .slot n r.era && q.kind == .rd) then c
      else ask (.slot n r.era) .rd a 64 [] 0 c) c)

/-- Forgets the host bytes of a slot that has been fetched. -/
def dropSlots (n i k : Nat) (c : Chip) : Chip :=
  updRing n (fun r =>
    let addrs := (rangeFrom 0 k).map fun j => r.slotAddr (add32 i j)
    { r with rbuf := r.rbuf.filter fun p => !(addrs.any fun a => decide (a ≤ p.1 ∧ p.1 < a + 64)) }) c

end Sys2Proof.Machine
end

