-- ==== Sys2Proof/Machine/Link.lean ====
section
/-! DEFINITION. What leaves the core (Tether Ports, Ohmuf Link and the Host Port): packets and flits, the route table,
the transmitters of the ports and of the host port, and what a response does to the request it answers. -/

namespace Sys2Proof.Machine

/-! ## Packets (Tables 17.3, 17.4, 17.6) -/

def tyWR : Nat := 0x01
def tyRD : Nat := 0x02
def tyAMO : Nat := 0x03
def tySIG : Nat := 0x04
def tyWRACK : Nat := 0x81
def tyRDDATA : Nat := 0x82
def tyAMORSP : Nat := 0x83
def tySIGACK : Nat := 0x84
def tyNEGOTIATE : Nat := 0xC1
def tyTIMESYNC : Nat := 0xC2
def tyTIMEREPLY : Nat := 0xC3
def tyCLOSE : Nat := 0xC4

/-- Virtual channels: 0 DATA, 1 SIGNAL, 2 CTRL, 3 SNAP. -/
def vcData : Nat := 0
def vcSignal : Nat := 1
def vcCtrl : Nat := 2
def vcSnap : Nat := 3

/-- Requests, whose responses are awaited. -/
def pktIsRequest (p : Packet) : Bool := decide (p.ty = tyWR ∨ p.ty = tyRD ∨ p.ty = tyAMO ∨ p.ty = tySIG)

/-- Responses. -/
def pktIsResponse (p : Packet) : Bool := decide (0x81 ≤ p.ty ∧ p.ty ≤ 0x84)

/-- Payload bytes that follow the header on the link: RD carries none although LEN gives the bytes requested. -/
def pktBody (p : Packet) : List Byte := if p.ty = tyRD then [] else p.payload

/-- The bytes of a packet on a link of either version. -/
def packetBytes (p : Packet) : List Byte :=
  let h := leBytes 1 p.ty ++ leBytes 1 (p.vc % 4 + 4 * (p.hops % 16)) ++ leBytes 2 (p.len % 8192)
    ++ leBytes 4 p.dst ++ leBytes 4 p.src ++ leBytes 2 p.tag ++ leBytes 2 p.status
  (if p.v12 then h ++ leBytes 8 (p.addr % 2 ^ 44)
   else h ++ leBytes 4 p.rEpoch ++ leBytes 4 p.lEpoch ++ leBytes 8 (p.addr % 2 ^ 44)) ++ pktBody p

/-- Header bytes on a link. -/
def headerLen (v12 : Bool) : Nat := if v12 then 24 else 32

/-- A packet from the bytes of its header and the payload after it. -/
def packetOf (v12 : Bool) (bs : List Byte) : Packet :=
  let n (a k : Nat) : Nat := leNat ((bs.drop a).take k)
  let vcb := n 1 1
  let lenw := n 2 2
  let dst := n 4 4
  let src := n 8 4
  let adr := if v12 then n 16 8 else n 24 8
  let ty := n 0 1
  { ty := ty, vc := bits vcb 0 2, hops := bits vcb 2 4, dst := bits dst 0 20, src := bits src 0 20
    tag := n 12 2, status := n 14 2, rEpoch := if v12 then 0 else n 16 4, lEpoch := if v12 then 0 else n 20 4
    addr := bits adr 0 44, len := bits lenw 0 13
    payload := if ty = tyRD then [] else (bs.drop (headerLen v12)).take (bits lenw 0 13)
    v12 := v12
    res0 := decide (bits vcb 6 2 ≠ 0 ∨ bits lenw 13 3 ≠ 0 ∨ bits dst 20 12 ≠ 0 ∨ bits src 20 12 ≠ 0 ∨ bits adr 44 20 ≠ 0)
    rsh := decide (ty = tyWR) && Config.reshardWrite bs }

/-- Credits of 64 bytes that a packet occupies (R410). -/
def pktCredits (p : Packet) : Nat := ceilDiv (32 + p.len) 64

/-! ## Routes (R414, R419) -/

/-- Fields of a route entry (Table 17.7). -/
def entLcn (e : Nat) : Nat := bits e 0 20
def entEgress (e : Nat) : Nat := bits e 20 3
def entAlt (e : Nat) : Nat := bits e 23 3
def entValid (e : Nat) : Bool := e.testBit 26

/-- What the active table says of an LCN. -/
inductive Route where
  | missing
  | invalid
  | egress (n : Nat)
deriving DecidableEq, Repr

/-- Looks an LCN up in the active table; the 16,384 entries that are not listed hold the reset value, LCN 0 invalid. -/
def routeOf (c : Chip) (lcn : Nat) : Route :=
  match c.tlk.active.find? fun p => entValid p.2 && entLcn p.2 == lcn with
  | some p => .egress (entEgress p.2)
  | none =>
    if c.tlk.active.any (fun p => entLcn p.2 == lcn) || (decide (lcn = 0) && decide (c.tlk.active.length < 16384))
    then .invalid else .missing

/-- The core's LCN in packets it makes; 0xF_FFFF before the first SWAP. -/
def srcLcn (c : Chip) : Nat := (ownLcn c).getD selfLcn

/-- HOPS of packets made here (TLK_CFG.MAX_HOPS). -/
def maxHops (c : Chip) : Nat := fld c.tlk.cfg 44 4

/-! ## Flits (R402, R404) -/

/-- The 331 payload bytes of a flit: the packet stream, then PAD bytes; zero where it carries none. -/
def flitPayload (bs : List Byte) : List Byte := bs.take 331 ++ List.replicate (331 - bs.length) 0#8

/-- The 340 bytes of a flit (Table 17.1). -/
def flitBytes (f : TxFlit) : List Byte :=
  let bs := leBytes 5 (packNat [(0, 2, f.ft), (2, 2, f.cvc), (4, 12, f.seq), (16, 12, f.ack), (28, 10, f.cred)]) ++ flitPayload f.data
  bs ++ leBytes 4 (crc32c bs)

/-- The codeword of a flit (R401, R402). -/
def flitCodeword (f : TxFlit) : List Nat := rsEncode (flitSymbols (flitBytes f))

/-- Word `k` that the active lane `i` of a port sends since its codeword stream began (R403). -/
def Port.laneWord (p : Port) (i k : Nat) : Nat := Machine.laneWord p.width i (p.wire.map flitCodeword) k

/-- The credits that the next flit returns: of the first channel that owes any, at most what CRED holds; none while they are
withheld. -/
def Port.returning (give : Bool) (p : Port) : Nat × Nat :=
  match (if give then p.owed.find? fun x => x.2 != 0 else none) with
  | some x => (x.1, min x.2 1023)
  | none => (0, 0)

/-- Sends a flit, with this side's ACK and one credit return (R404). -/
def Port.send (give : Bool) (ft seq : Nat) (data : List Byte) (p : Port) : Port :=
  let (v, k) := p.returning give
  { p with
    wire := p.wire ++ [⟨ft, v, seq, p.rxSeq, k, data⟩], ackSent := p.rxSeq
    owed := SMap.set 0 p.owed v (SMap.get 0 p.owed v - k) }

/-- Sends an IDLE flit. -/
def Port.sendIdle (give : Bool) (p : Port) : Port := p.send give 0 p.txSeq []

/-- The peer has not been told this side's ACK, or is owed credits that may be returned. -/
def Port.owing (give : Bool) (p : Port) : Bool := p.ackSent != p.rxSeq || (p.returning give).2 != 0

/-- Sends IDLE flits until the peer has this side's ACK and every credit that is owed. -/
def Port.sendOwed (give : Bool) : Nat → Port → Port
  | 0, p => p
  | fuel + 1, p => if p.owing give then Port.sendOwed give fuel (p.sendIdle give) else p

/-- Sends a DATA flit of the bytes that wait: the next sequence number, kept for replay. -/
def Port.sendData (give : Bool) (t : Nat) (p : Port) : Port :=
  let data := p.txbuf.take 331
  { p.send give 1 p.txSeq data with
    txbuf := p.txbuf.drop 331, txSeq := (p.txSeq + 1) % 4096
    replay := p.replay ++ [⟨p.txSeq, 0, data⟩], ackFrom := if p.replay.isEmpty then t else p.ackFrom }

/-- Sends every flit in the replay buffer again, in order (R404). -/
def Port.resend (give : Bool) (p : Port) : Port :=
  p.replay.foldl (fun p f => p.send give 1 f.seq f.data) { p with replay := p.replay.map fun f => { f with count := f.count + 1 } }

/-! ## A port's transmitter (R404, R410, R412) -/

/-- Credits that a packet takes: a response needs none, since its requester has kept space for it (R411). -/
def pktCost (p : Packet) : Nat := if pktIsResponse p then 0 else pktCredits p

/-- The packet that leaves next: a SIGNAL packet with no DATA packet ahead of it, then CTRL, then DATA and SNAP, SNAP taking its
weight of every 8 while both wait; transit packets and those made here (`self`) take turns; `none` when nothing may leave for want
of credits. -/
def nextPacket (self weight : Nat) (p : Port) : Option QPkt :=
  let has (q : QPkt) : Bool := decide (pktCost q.pkt ≤ SMap.get 0 p.credits q.pkt.vc)
  let among (qs : List QPkt) (vc : Nat) : Option QPkt :=
    let qs := qs.filter fun q => q.pkt.vc == vc
    match qs.find? (fun q => q.pkt.src == self), qs.find? (fun q => q.pkt.src != self) with
    | some l, some t => if p.turns.testBit vc then some t else some l
    | some l, none => some l
    | none, t => t
  let sig := among (p.txq.takeWhile fun q => q.pkt.vc != vcData) vcSignal
  let first (vc : Nat) : Option QPkt := among p.txq vc
  let pick (o : Option QPkt) : Option QPkt := o.filter has
  match pick sig, pick (first vcCtrl), pick (first vcData), pick (first vcSnap) with
  | some q, _, _, _ => some q
  | none, some q, _, _ => some q
  | none, none, some d, some s => if p.turn < weight then some s else some d
  | none, none, some d, none => some d
  | none, none, none, o => o

/-- Removes the first occurrence of a packet. -/
def removePacket (q : QPkt) : List QPkt → List QPkt
  | [] => []
  | x :: xs => if x = q then xs else x :: removePacket q xs

/-- A time message takes its stamp as it leaves: t1 or t3 (R422). -/
def stampPacket (t : Nat) (q : Packet) : Packet :=
  if q.ty = tyTIMESYNC then { q with payload := leBytes 8 t }
  else if q.ty = tyTIMEREPLY then { q with payload := q.payload.take 16 ++ leBytes 8 t }
  else q

/-- A packet leaves: its bytes join the packet stream, which runs across flit boundaries (section 17.3). -/
def startPacket (self t : Nat) (q : QPkt) (p : Port) : Port :=
  let x := stampPacket t q.pkt
  let bs := packetBytes x
  let both := (p.txq.any fun y => y.pkt.vc == vcData) && (p.txq.any fun y => y.pkt.vc == vcSnap)
  { p with
    txq := removePacket q p.txq
    txbuf := p.txbuf ++ bs
    flying := p.flying ++ [((p.txSeq + (p.txbuf.length + bs.length - 1) / 331) % 4096, { q with pkt := x })]
    credits := SMap.set 0 p.credits x.vc (SMap.get 0 p.credits x.vc - pktCost x)
    exch := if x.ty = tyTIMESYNC then some t else p.exch
    turn := if both then (p.turn + 1) % 8 else p.turn
    turns := if x.src = self then p.turns ||| 2 ^ x.vc else p.turns &&& (15 - 2 ^ (x.vc % 4)) }

/-- The packet that may leave now: before a version is agreed only NEGOTIATE (R417). -/
def Port.ready (self weight : Nat) (p : Port) : Option QPkt :=
  nextPacket self weight (if p.st = .up then p else { p with txq := p.txq.filter fun q => q.pkt.ty == tyNEGOTIATE })

/-- The port carries the codeword stream, and both sides go on from the same flit. -/
def Port.flows (p : Port) : Bool := (decide (p.st = .up) || decide (p.st = .negotiate)) && !p.resync

/-- The transmitter runs: packets leave while credits last, and flits while fewer than 256 are unacknowledged (R404, R410). -/
def pumpPort (give : Bool) (self weight t : Nat) : Nat → Port → Port
  | 0, p => p
  | fuel + 1, p =>
    if !p.flows || decide (256 ≤ p.replay.length) then p
    else
      match (if p.txbuf.length < 331 then p.ready self weight else none) with
      | some q => pumpPort give self weight t fuel (startPacket self t q p)
      | none => if p.txbuf.isEmpty then p else pumpPort give self weight t fuel (p.sendData give t)

/-- SNAP_WEIGHT as taken: 0 as 1, above 8 as 8 (Table 17.11). -/
def snapWeight (c : Chip) : Nat :=
  let w := fld c.tlk.cfg 40 4
  if w = 0 then 1 else min w 8

/-- A warm start is in progress. -/
def inWarm (c : Chip) : Bool :=
  match c.core.phase with
  | .warm _ => true
  | _ => false

/-- The link layers return credits, except during a warm start (R175, R471). -/
def gives (c : Chip) : Bool := !inWarm c

/-- The space that a packet took in a receive buffer is free: its credits are owed to the peer (R410). -/
def owe (n vc k : Nat) (c : Chip) : Chip := updPort n (fun p => { p with owed := SMap.set 0 p.owed vc (SMap.get 0 p.owed vc + k) }) c

/-- What the leaving of a packet does besides: the buffer that it came from is free, and the time of a request of this core begins
to run (R410, R416). -/
def packetLeft (q : QPkt) (c : Chip) : Chip :=
  let c := match q.held with
    | some (n, vc, k) => owe n vc k c
    | none => c
  if pktIsRequest q.pkt ∧ q.pkt.src = srcLcn c ∧ q.held.isNone then
    { c with tlk.out := c.tlk.out.map fun r => if r.tag = q.pkt.tag ∧ !r.sent then { r with sent := true, since := now c } else r }
  else c

/-- Runs a port's transmitter. -/
def pump (n : Nat) (c : Chip) : Chip :=
  let p := portOf c n
  let q := pumpPort (gives c) (srcLcn c) (snapWeight c) (now c) (257 + p.txq.length) p
  (q.flying.drop p.flying.length).foldl (fun c x => packetLeft x.2 c) (updPort n (fun _ => q) c)

/-- Every port sends what its peer has not been told: ACK and credits (R404, R410). -/
def sendAcks (c : Chip) : Chip :=
  (rangeFrom 0 Config.ports).foldl (fun c n =>
    if (portOf c n).flows && (portOf c n).owing (gives c) then updPort n (Port.sendOwed (gives c) 8) c else c) c

/-- The form in which a packet travels on a port: a 1.2 port carries no epochs, and SNAP travels on DATA (Table 17.5); a
1.2 packet that leaves on a 2.0 port takes this core's epochs, and a 1.2 SIG gets a T_RAISE. -/
def formFor (c : Chip) (ver : Nat) (p : Packet) : Packet :=
  if ver = 1 then
    { p with
      v12 := true
      vc := if p.vc = vcSnap then vcData else p.vc
      payload := if p.ty = tySIG then p.payload.take 8 else p.payload
      len := if p.ty = tySIG then 8 else p.len }
  else if p.v12 then
    { p with
      v12 := false, rEpoch := c.sync.epochMin, lEpoch := c.rdu.epoch
      payload := if p.ty = tySIG then p.payload.take 8 ++ leBytes 8 (now c - 1000) else p.payload
      len := if p.ty = tySIG then 16 else p.len }
  else p

/-- Beats of 64 bytes that a packet fills as a PEER request (R425). -/
def peerBeats (p : Packet) : Nat := ceilDiv (32 + (pktBody p).length) 64

/-- The LINES of a PEER hold at most 64 beats (Table 17.9). -/
def fitsPeer (p : Packet) : Bool := decide (peerBeats p ≤ 64)

/-- A packet as it leaves on the fabric: a response that no PEER holds tells its requester so. DESIGN CHOICE (log 114). -/
def peerForm (c : Chip) (p : Packet) : Packet :=
  let q := formFor c 2 p
  if fitsPeer q then q else { q with status := faultCode pTLK .linkDown, len := 0, payload := [] }

/-- The host port takes one more request with so many beats on a channel: there is a request credit, and the beats of the requests
before it are out. -/
def laneFree (c : Chip) (ch : Nat) : Bool :=
  decide (1 ≤ SMap.get 0 c.hport.credits (2 * ch)) && decide (SMap.get 0 c.hport.due ch = 0)

/-- A request leaves on a channel against its credit, and as many of its beats as there are credits for; the others follow as credits
come back (R429). -/
def spendCredits (ch beats : Nat) (c : Chip) : Chip :=
  let rq := SMap.get 0 c.hport.credits (2 * ch)
  let bt := SMap.get 0 c.hport.credits (2 * ch + 1)
  let k := min bt beats
  { c with
    hport.credits := SMap.set 0 (SMap.set 0 c.hport.credits (2 * ch) (rq - 1)) (2 * ch + 1) (bt - k)
    hport.due := SMap.set 0 c.hport.due ch (beats - k) }

/-- The least tag of a channel that no outbound request uses. -/
def hpTag (c : Chip) (ch : Nat) : Option Nat :=
  firstFrom (fun t => !(c.hport.out.any fun r => r.tag == 1024 * ch + t) && !(c.hport.peerOut.any fun r => r.tag == 1024 * ch + t))
    0 c.hport.tags

/-- HP_AWAKE: HP_CLK runs and the core takes and gives lane items, in P0 and P1 and from step 4 of a cold start on (R499). -/
def hpAwake (c : Chip) : Bool :=
  match c.core.phase with
  | .running => decide (c.pwr.state ≤ 1)
  | .cold k => decide (4 ≤ k)
  | _ => false

/-- The host port sends requests: it is up, its lanes run, and no detach has come to step 6 (R433, R499). -/
def hportSends (c : Chip) : Bool := (c.hport.st == .up || c.hport.st == .detaching) && hpAwake c && !c.hport.refusing

/-- The fabric takes packets as PEER requests, each on the channel of its destination with a tag of it, against one request credit and
beat credits as they come; those of a channel stay in order (R412, R425, R429). -/
def pumpPeers (c : Chip) : Chip :=
  let go (s : List Nat × List QPkt × Chip) (q : QPkt) : List Nat × List QPkt × Chip :=
    let (stuck, wait, c) := s
    let p := q.pkt
    let ch := p.dst % max 1 c.hport.channels
    match (if !stuck.contains ch && hportSends c && laneFree c ch then hpTag c ch else none) with
    | some t =>
      let x : PeerReq := ⟨1024 * ch + t, now c, p⟩
      let c := spendCredits ch (peerBeats p) c
      (stuck, wait, packetLeft q { c with hport.peers := c.hport.peers ++ [x], hport.peerOut := c.hport.peerOut ++ [x] })
    | none => (ch :: stuck, wait ++ [q], c)
  let r := c.hport.peerWait.foldl go (([] : List Nat), ([] : List QPkt), c)
  { r.2.2 with hport.peerWait := r.2.1 }

/-- Queues a packet on an egress, a tether port or the fabric; one in transit keeps its receive buffer until it leaves. -/
def transmitFrom (held : Option (Nat × Nat × Nat)) (eg : Nat) (p : Packet) (c : Chip) : Chip :=
  if eg < 4 then
    let q := formFor c (portOf c eg).ver p
    pump eg (updPort eg (fun x => { x with txq := x.txq ++ [⟨q, held⟩] }) c)
  else pumpPeers { c with hport.peerWait := c.hport.peerWait ++ [⟨peerForm c p, held⟩] }

/-- Queues a packet made here. -/
def transmit (eg : Nat) (p : Packet) (c : Chip) : Chip := transmitFrom none eg p c

/-! ## Responses to requests made here -/

/-- Marks an access of a context with what came back. -/
def setAccRes (ctx tag : Nat) (r : AccRes) (c : Chip) : Chip :=
  updCtx ctx (fun x => { x with accs := x.accs.map fun a => if a.tag = tag then { a with res := r } else a }) c

/-- A stopped context whose kept wait for an instruction line is over: it fetches again when it is resumed (R97). -/
def Ctx.refetch (line : Nat) (x : Ctx) : Ctx :=
  if x.wait = .fetch line ∧ x.st = .stopped then { x with wait := .none, moved := false } else x

/-- Faults every context that waits for an instruction line; a STOP that reached it is ignored (R97). -/
def faultFetchers (line : Nat) (k : Cause) (code : Nat) (c : Chip) : Chip :=
  let c := { c with seq.ctxs := SMap.mapVal .idle (fun _ x => x.refetch line) c.seq.ctxs }
  (c.seq.ctxs.filter fun p => decide (p.2.wait = .fetch line) && decide (p.2.st = .waiting) && !p.2.ending).foldl
    (fun c p =>
      let c := updCtx p.1 (fun x => { x with st := .faulted, wait := .none, fault := code, stopping := false
                                             quiesceStop := false }) c
      recordFault pSEQ k code p.1 0xFFFF p.2.pc c) c

/-- What SNAP keeps of a descriptor of its own that ends abandoned: a RESTORE ends ABANDONED at its stream (R448, Table 18.10), the
run time of a JOURNAL counts (R447). -/
def snapEnds (n : Nat) (d : Desc) (c : Chip) : Chip :=
  if (ringOf c n).cls ≠ 6 ∨ !d.started then c
  else if d.opc = 6 then { c with snap.rsState := 3, snap.rsStream := d.prog / 4 }
  else if d.opc = 2 then { c with snap.costNs := c.snap.costNs + (now c - d.tStart.getD (now c)) }
  else c

/-- Key under which a descriptor keeps the time since which it waits on something that SNAP_COST counts. -/
def costKey : Nat := 90

/-- Adds what a PUT, an OPEN, a COMMIT or a SKIP has waited to SNAP_COST while a generation is FILLING (R447). -/
def costEnds (n : Nat) (d : Desc) (c : Chip) : Chip :=
  if (ringOf c n).cls ≠ 5 ∧ (ringOf c n).cls ≠ 7 then c
  else match d.samp.find? fun p => p.1 == costKey with
    | some t => if c.snap.stA = 1 ∨ c.snap.stB = 1 then { c with snap.costNs := c.snap.costNs + (now c - t.2.toNat) } else c
    | none => c

/-- What DMA_BYTES counts of a descriptor that is abandoned while bytes of its writes to other cores are not all acknowledged: after
a failed check nothing was written (R67), else which writes have been made is not defined (R211). -/
def uncountedEnds (d : Desc) (k : Cause) (c : Chip) : Chip :=
  if d.uncounted = 0 ∨ k = .addrUnmapped then c
  else
    let (x, c) := takeFree c
    { c with dma.bytes := (c.dma.bytes + x % (d.uncounted + 1)) % 2 ^ 48 }

/-- What outlives a descriptor that ends abandoned. -/
def descEnds (n : Nat) (d : Desc) (k : Cause) (c : Chip) : Chip := uncountedEnds d k (costEnds n d (snapEnds n d c))

/-- Abandons a running descriptor with a cause (R147, R211). -/
def abandonDesc (n idx : Nat) (k : Cause) (c : Chip) : Chip :=
  match (ringOf c n).find idx with
  | some d => if d.inFlight then haltRing n d k (descEnds n d k c) else c
  | none => c

/-- A read of a descriptor fails: one that has started is abandoned, one whose structures issue was fetching is rejected. -/
def failRead (n idx : Nat) (k : Cause) (c : Chip) : Chip :=
  match (ringOf c n).find idx with
  | some d =>
    if d.inFlight then haltRing n d k (descEnds n d k c)
    else if d.phase = .waiting ∧ d.tReady.isSome ∧ !(ringOf c n).halted then haltRing n { d with tStart := some (now c) } k c
    else c
  | none => c

/-- A RESTORE ends ABANDONED, and SNAP_RESTORE records the stream that it was at (R448). -/
def endRestore (n idx stream : Nat) (k : Cause) (c : Chip) : Chip :=
  let c := abandonDesc n idx k c
  { c with snap.rsState := 3, snap.rsStream := stream, snap.mismatch := c.snap.mismatch || decide (k = .restoreMismatch) }

/-- A read of a SNAP descriptor fails: a RESTORE is abandoned with SNAP_INCOMPLETE (R448). -/
def failRestore (n idx : Nat) (k : Cause) (c : Chip) : Chip :=
  match (ringOf c n).find idx with
  | some d => if d.opc = 6 then endRestore n idx (d.prog / 4) .snapIncomplete c else abandonDesc n idx k c
  | none => c

/-- A descriptor at an index of a ring in host memory as far as its slots have come: with its header it is known how many slots it
has; without it, it counts as one (log 84). -/
def Ring.partRead (g : Ring) (i : Nat) : Desc :=
  let a := g.slotAddr i
  if g.rbuf.any fun p => p.1 == a then
    let ws := leWords 8 ((rangeFrom a 64).map (SMap.get 0#8 g.rbuf))
    Desc.fetched i (if bitAt (nth 0#64 ws 0) 17 then 3 else 1) (if bitAt (nth 0#64 ws 0) 17 then ws else [])
  else Desc.fetched i 1 []

/-- A read of a slot in host memory fails, or a write of one: the ring halts at the descriptor that is read again, or at the next
one. -/
def failFetch (n : Nat) (k : Cause) (c : Chip) : Chip :=
  let g := ringOf c n
  if g.halted then c
  else
    match g.descs.find? fun d => decide (d.phase = .refetch) with
    | some d =>
      let e := g.partRead d.idx
      haltRing n e k (setRing n (g.put e) c)
    | none =>
      if g.nextFetch = g.tail then c
      else
        let d := g.partRead g.nextFetch
        haltRing n d k (setRing n { g with descs := g.descs ++ [d] } c)

/-- What a response does to the agent that made its request: status 0 delivers, any other status fails it with that code
(R416, R428). -/
def deliver (r : Req) (status : Nat) (data : List Byte) (c : Chip) : Chip :=
  let k := (Cause.ofCode status).getD .linkDown
  match r.who with
  | .access ctx tag =>
    setAccRes ctx tag (if status = 0 then .done (leNat data) else .failed status) c
  | .fill line =>
    if status = 0 then { c with seq.fillBuf := c.seq.fillBuf ++ cellsAt r.addr data } else faultFetchers line k status c
  | .slot n era =>
    let g := ringOf c n
    if g.era ≠ era then c
    else if status = 0 then (if r.kind = .rd then setRing n { g with rbuf := g.rbuf ++ cellsAt r.addr data } c else c)
    else failFetch n k c
  | .desc n idx =>
    if status = 0 then
      match r.kind with
      | .rd => updRing n (fun g =>
          { g with descs := g.descs.map fun d => if d.idx = idx then { d with rbuf := d.rbuf ++ cellsAt r.addr data } else d }) c
      | _ => c
    else if (ringOf c n).cls = 6 ∧ r.kind = .rd then failRestore n idx k c
    else if r.kind = .rd then failRead n idx k c
    else abandonDesc n idx k c
  | .tee id =>
    if status = 0 then c
    else { c with snap.tees := c.snap.tees.map fun t => if t.id = id then { t with failed := true } else t }
  | .stamp n i =>
    if status = 0 then c
    else
      let k := if k = .addrUnmapped then Cause.addrUnmapped else .linkDown
      recordFault pRING k (faultCode pRING k) 0xFFFF n (BitVec.ofNat 64 i) c
  | .trace _ => c
  | .signal => if status = 0 then c else countRefused 1 c
  | .serve id =>
    { c with tlk.proxies := c.tlk.proxies.map fun x =>
        if x.id = id then
          { x with cells := x.cells ++ cellsAt r.addr data
                   status := if x.status = 0 then status else x.status }
        else x }

/-- Requests of a descriptor that have no response yet. -/
def reqsOf (c : Chip) (w : Who) : Nat :=
  ((c.outbox ++ c.tlk.out ++ c.tlk.heldReqs ++ c.tlk.waitReqs ++ c.hport.out).filter fun r => r.who == w).length

/-! ## Sending -/

/-- Payload and type of a request's packet. -/
def reqPacket (c : Chip) (r : Req) : Packet :=
  let ty := match r.kind with
    | .rd => tyRD
    | .wr => tyWR
    | .amo => tyAMO
    | .sig => tySIG
  { ty := ty, vc := r.vc, hops := maxHops c, dst := lcnOf r.addr, src := srcLcn c, tag := r.tag, status := 0
    rEpoch := r.rEpoch, lEpoch := if r.vc = vcCtrl then 0 else r.lEpoch
    addr := if r.kind = .sig then 0 else offOf r.addr
    len := if r.kind = .rd then r.len else r.data.length
    payload := r.data, v12 := false, res0 := false
    rsh := match r.who with
      | .desc n idx => (ringOf c n).cls == 5 && ((ringOf c n).find idx).any fun d => d.opc == 0x10
      | _ => false }

/-- The channel of an outbound host-memory request (section 17.9). -/
def hpChannel (c : Chip) (a : Nat) : Nat := (bits a 12 4 ^^^ bits a 16 4) % max 1 c.hport.channels

/-- Lines of 64 bytes that a range touches. -/
def linesOf (a n : Nat) : Nat := if n = 0 then 0 else (a + n - 1) / 64 - a / 64 + 1

/-- Sends a host-memory request if the port is up and holds tags and credits; otherwise it waits, and so does every later one of
its channel, so that accesses to the same bytes keep their order (R102, R133). -/
def sendHost (r : Req) (c : Chip) : Chip :=
  let ha := offOf r.addr - 0x10000000000
  let ch := hpChannel c ha
  let behind := c.tlk.waitReqs.any fun q =>
    isHost c q.addr (max 1 q.len) && hpChannel c (offOf q.addr - 0x10000000000) == ch
  match (if hportSends c && laneFree c ch && !behind then hpTag c ch else none) with
  | some t =>
    spendCredits ch (if r.kind = .wr then linesOf ha r.len else 0)
      { c with hport.out := c.hport.out ++ [{ r with tag := 1024 * ch + t, egress := 5, since := now c, sent := true }] }
  | none => { c with tlk.waitReqs := c.tlk.waitReqs ++ [r] }

/-- A request as the packets of its first hop carry it: at most 1,024 bytes each on a port that agreed on 1.2 (Table 17.5), and on the
fabric no more than 64 beats hold with the header (Table 17.9). -/
def onWire (c : Chip) (eg : Nat) (r : Req) : List Req :=
  let pieces (blk : Nat) : List Req := (splitBlocks blk (r.len / blk + 2) r.addr r.len).map fun p =>
    { r with addr := p.1, len := p.2, data := (r.data.drop (p.1 - r.addr)).take p.2 }
  if r.kind ≠ .rd ∧ r.kind ≠ .wr then [r]
  else if eg < 4 ∧ (portOf c eg).ver = 1 then pieces 1024
  else if eg = 4 ∧ 4064 < r.len then pieces 2048
  else [r]

/-- A transmitter takes requests: the fabric, or a port that carries traffic or retrains, its version agreed. -/
def takesRequests (c : Chip) (eg : Nat) : Bool :=
  if eg < 4 then
    let p := portOf c eg
    p.ver != 0 && (decide (p.st = .up) || decide (p.st = .train))
  else eg == 4

/-- Hands one request packet to a transmitter; its time runs from its first transmission. It waits while 4,096 requests are
outstanding (R416). -/
def sendOne (eg : Nat) (r : Req) (c : Chip) : Chip :=
  if 4096 ≤ c.tlk.out.length then { c with tlk.waitReqs := c.tlk.waitReqs ++ [r] }
  else
    let r := { r with tag := c.tlk.nextTag, egress := eg, since := now c, sent := false }
    let c := { c with tlk.out := c.tlk.out ++ [r], tlk.nextTag := (c.tlk.nextTag + 1) % 65536 }
    transmit eg (reqPacket c r) c

/-- Sends a request to another core on its route's egress, in the packets of that egress; it waits for a port whose version is not
agreed, is held from now on while the route is invalid, and fails with ADDR_UNMAPPED where the table has no entry (R414, R418). -/
def sendRemote (r : Req) (c : Chip) : Chip :=
  match routeOf c (lcnOf r.addr) with
  | .missing => deliver r (faultCode pTLK .addrUnmapped) [] c
  | .invalid => { c with tlk.heldReqs := c.tlk.heldReqs ++ [{ r with since := now c }] }
  | .egress eg =>
    if takesRequests c eg then (onWire c eg r).foldl (fun c r => sendOne eg r c) c
    else { c with tlk.waitReqs := c.tlk.waitReqs ++ [r] }

/-- The pieces of a host-memory range that one request can carry: at most MAXLINES lines (R432). -/
def hostPieces (c : Chip) (a n : Nat) : List (Nat × Nat) :=
  if c.hport.maxLines = 0 then [(a, n)] else splitBlocks (64 * c.hport.maxLines) (n / 64 + 2) a n

/-- Sends one request. -/
def sendReq (r : Req) (c : Chip) : Chip :=
  if isHost c r.addr (max 1 r.len) then
    (hostPieces c r.addr r.len).foldl (fun c p =>
      sendHost { r with addr := p.1, len := p.2, data := (r.data.drop (p.1 - r.addr)).take p.2 } c) c
  else sendRemote r c

/-- Sends the signals of the hold queue whose LCN has a valid route, in raise order (R174); one whose LCN a SWAP has made this core's
own goes through the job map (R172). -/
def sendSignals (c : Chip) : Chip :=
  c.sync.held.foldl (fun c x =>
    if x.sent.isSome then c
    else if ownLcn c = some x.lcn then
      selfSignal x.epoch x.job x.ctr x.inc { c with sync.held := c.sync.held.erase x }
    else
      match routeOf c x.lcn with
      | .egress eg =>
        if 4096 ≤ c.tlk.out.length || !takesRequests c eg then c
        else
          let t := c.tlk.nextTag
          let data := leBytes 2 x.job ++ leBytes 2 x.ctr ++ leBytes 2 x.inc ++ leBytes 2 0 ++ leBytes 8 x.tRaise
          let r : Req := { tag := t, kind := .sig, addr := gaddr x.lcn 0, len := 16, data := data, vc := vcSignal
                           who := .signal, rEpoch := x.epoch, lEpoch := c.rdu.epoch, egress := eg, since := now c, sent := false }
          let c := { c with
            tlk.out := c.tlk.out ++ [r], tlk.nextTag := (t + 1) % 65536
            sync.held := c.sync.held.map fun y => if y = x ∧ y.sent.isNone then { y with sent := some t } else y }
          transmit eg (reqPacket c r) c
      | _ => c) c

/-- The transmitters take what has been made: waiting requests, the outbox and the held signals. -/
def sendAll (c : Chip) : Chip :=
  let ws := c.tlk.waitReqs ++ c.outbox
  let c := { c with tlk.waitReqs := [], outbox := [] }
  let c := ws.foldl (fun c r => sendReq r c) c
  sendSignals c

/-- Held requests whose route has become valid are sent, in order; the others stay held as they were (R414). -/
def sendHeld (c : Chip) : Chip :=
  let hs := c.tlk.heldReqs
  let c := { c with tlk.heldReqs := [] }
  hs.foldl (fun c r =>
    if routeOf c (lcnOf r.addr) = .invalid then { c with tlk.heldReqs := c.tlk.heldReqs ++ [r] } else sendReq r c) c

/-! ## Raising remote signals (R171 to R174) -/

/-- A remote signal is raised: to this core it goes through the job map; to another it enters the hold queue, which the
caller has found to have room. -/
def raiseSignal (lcn job ctr inc : Nat) (c : Chip) : Chip :=
  if lcn = selfLcn ∨ ownLcn c = some lcn then selfSignal c.tlk.routeEpoch job ctr inc c
  else
    { c with sync.held := c.sync.held ++
        [{ lcn := lcn, job := job, ctr := ctr, inc := inc, epoch := c.tlk.routeEpoch, tRaise := now c, sent := none }] }

/-- The hold queue has room for a signal to an LCN (R174). -/
def sigRoom (c : Chip) (lcn : Nat) : Bool :=
  decide (lcn = selfLcn) || decide (ownLcn c = some lcn) || decide (c.sync.held.length < 1024)

/-! ## Ports that go down (R408) -/

/-- Fails the request behind a packet that was made here, with a fault code; a signal is counted in REFUSED. -/
def failPacket (code : Nat) (p : Packet) (c : Chip) : Chip :=
  if pktIsRequest p ∧ p.src = srcLcn c then
    match c.tlk.out.find? fun r => r.tag == p.tag with
    | some r =>
      let c := { c with tlk.out := c.tlk.out.filter fun q => q.tag != p.tag
                        sync.held := c.sync.held.filter fun x => x.sent != some p.tag }
      deliver r code [] c
    | none => c
  else c

/-- Every route entry that names a port switches to its ALT egress when that is up or HOST, and becomes invalid otherwise (R408,
R421); the entries that no write has changed name none that is. -/
def switchRoutes (n : Nat) (c : Chip) : Chip :=
  let up (e : Nat) : Bool := decide (e = 4) || (decide (e < 4) && decide ((portOf c e).st = .up) && decide (e ≠ n))
  let move (e : Nat) : Bool := decide (entEgress e = n)
  let sw (_ : Nat) (e : Nat) : Nat :=
    if move e then
      (if up (entAlt e) then e - entEgress e * 2 ^ 20 + entAlt e * 2 ^ 20 else if entValid e then e - 2 ^ 26 else e)
    else e
  let evs := (c.tlk.active.filter fun p => entValid p.2 && move p.2).map Prod.snd
  let c' := { c with tlk.active := SMap.mapVal routeReset sw c.tlk.active }
  evs.foldl (fun c e =>
    emit 0x07 pTLK (pack [(0, 8, if up (entAlt e) then 2 else 3), (8, 3, n)]) (BitVec.ofNat 64 (entLcn e)) c) c'

/-- The number of a port state in TLK_PORT_STAT (Table 17.13). -/
def PortState.code : PortState → Nat
  | .down => 0 | .train => 1 | .negotiate => 2 | .up => 3 | .closed => 4 | .failed => 5

/-- A port enters a state, with its PORT event (Table 20.1). -/
def portState (n : Nat) (st : PortState) (c : Chip) : Chip :=
  let p := portOf c n
  if p.st = st then c
  else
    let c := updPort n (fun p => { p with st := st }) c
    let q := portOf c n
    emit 0x08 pTLK (pack [(0, 3, n), (4, 3, p.st.code), (8, 3, st.code), (12, 4, q.width), (16, 2, q.ver)])
      (BitVec.ofNat 64 q.peer) c

/-- A port is down: the cause is recorded, routes switch, and unacknowledged and queued packets are discarded, requests
among them failing at once (R408). -/
def portDown (n : Nat) (st : PortState) (k : Cause) (c : Chip) : Chip :=
  let p := portOf c n
  let lost := p.flying.map Prod.snd ++ p.txq
  let c := portState n st c
  let c := updPort n (fun p => { p with txq := [], txbuf := [], flying := [], replay := [], rx := [], width := 0, exch := none
                                        retraining := false, resync := false }) c
  let c := pageFault pTLK k c
  let c := switchRoutes n c
  let c := p.txq.foldl (fun c q => match q.held with
    | some (m, vc, k) => owe m vc k c
    | none => c) c
  lost.foldl (fun c q => failPacket (faultCode pTLK .linkDown) q.pkt c) c

end Sys2Proof.Machine
end

