-- ==== Sys2Proof/Machine/Retire.lean ====
section
/-! DEFINITION. Completion in ring order (Rings and Descriptors, R139 step 4 and R142): a descriptor's record, signals,
head and notice. -/

namespace Sys2Proof.Machine

/-- The remote-signal word of a descriptor (Table 8.3): DMA, XPB and PUT carry one at bytes 48 to 55, RUN at bytes
160 to 167; 0 where there is
none. -/
def rsigWord (cls : Nat) (d : Desc) : W64 :=
  if d.opc = 0 then 0#64
  else if cls = 0 ∨ cls = 8 ∨ (cls = 5 ∧ d.opc = 1) then d.word 6
  else if cls = 3 ∧ d.opc = 1 then d.word 20
  else 0#64

/-- The remote signal of a descriptor can be raised now: it has none, or the hold queue has room (R174). -/
def rsigRoom (c : Chip) (cls : Nat) (d : Desc) : Bool :=
  let w := rsigWord cls d
  decide (fld w 48 16 = 0) || d.silent || sigRoom c (fld w 0 20)

/-- Raises the remote signal of a completed descriptor; INC 0 means that there is none (R210). -/
def raiseRsig (cls : Nat) (d : Desc) (c : Chip) : Chip :=
  let w := rsigWord cls d
  if d.silent || decide (fld w 48 16 = 0) then c else raiseSignal (fld w 0 20) (fld w 20 12) (fld w 32 16) (fld w 48 16) c

/-- One completed descriptor at the front of its ring retires: signals, head and notice (R142, R155). One retired by SKIP or SKIP_SIGNAL
makes neither record, event nor notice. -/
def retireOne (n : Nat) (d : Desc) (rest : List Desc) (c : Chip) : Chip :=
  let r := ringOf c n
  let c := match d.sigP with
    | some p => addCounter p d.sigInc c
    | none => c
  let c := raiseRsig r.cls d c
  let c := updRing n (fun r => { r with descs := rest, head := add32 r.head d.slots }) c
  if d.irq && !d.silent then postNotice n d.idx c else c

/-- Retires completed descriptors from the front of a ring, in ring order (R142), each once its record has been written (R154). -/
def retireFront (n : Nat) : Nat → Chip → Chip
  | 0, c => c
  | fuel + 1, c =>
    let r := ringOf c n
    match r.descs with
    | [] => c
    | d :: rest =>
      if d.phase = .completed ∧ rsigRoom c r.cls d ∧ reqsOf c (.stamp n d.idx) = 0 then retireFront n fuel (retireOne n d rest c) else c

/-- A descriptor completes: its DONE event is made (R478), its record is written before it signals (R154), its signal is held while an
earlier one of its ring has not signalled or the hold queue is full (R142, R174), and its pins and write resolutions end (R374, R376). -/
def completeDesc (n : Nat) (d : Desc) (c : Chip) : Chip :=
  let r := ringOf c n
  let first := match r.descs with
    | e :: _ => e.idx == d.idx
    | [] => true
  let held := !first || !rsigRoom c r.cls d
  let d := { d with phase := .completed, tDone := some (now c), held := held, pins := [], writes := [], bufs := []
                    staged := false, arrs := [], chs := [] }
  retireFront n r.descs.length (doneEvent n d (classPage r.cls) 0 held (writeStamp n d (now c) 0 held (putDesc n d c)))

end Sys2Proof.Machine
end

