-- ==== Sys2Proof/Machine/Regions.lean ====
section
/-! DEFINITION. Parameter regions as every engine meets them (A Training Step, Committed or Skipped, section 15.4): the
name ranges, the selected slot, pins and write resolutions. -/

namespace Sys2Proof.Machine

def rgnOf (c : Chip) (g : Nat) : Rgn := SMap.get Rgn.reset c.wvm.rgns g
def setRgn (g : Nat) (r : Rgn) (c : Chip) : Chip := { c with wvm.rgns := SMap.set .reset c.wvm.rgns g r }
def updRgn (g : Nat) (f : Rgn → Rgn) (c : Chip) : Chip := setRgn g (f (rgnOf c g)) c
def handleOf (c : Chip) (h : Nat) : PinH := SMap.get PinH.reset c.wvm.handles h

/-- The number of the current slot: 0 A, 1 B. -/
def Rgn.cur (r : Rgn) : Nat := b2n r.curB
/-- The number of the other slot. -/
def Rgn.alt (r : Rgn) : Nat := b2n (!r.curB)
/-- The global address of a slot. -/
def Rgn.base (r : Rgn) (slot : Nat) : Nat := if slot = 0 then r.aBase else r.bBase
/-- FIRST of a slot. -/
def Rgn.first (r : Rgn) (slot : Nat) : Nat := if slot = 0 then r.firstA else r.firstB
/-- A slot is frozen (R381). -/
def Rgn.frozen (r : Rgn) (slot : Nat) : Bool := if slot = 0 then r.frozenA else r.frozenB

/-- Every descriptor that RING holds. -/
def allDescs (c : Chip) : List Desc := c.ring.rings.flatMap fun kr => kr.2.descs

/-- The pins on a slot: those of running descriptors and those of handles (R374, R375). -/
def pinsOn (c : Chip) (g slot : Nat) : Nat :=
  ((allDescs c).filter fun d => d.pins.contains (g, slot)).length
    + ((c.wvm.handles.filter fun h => h.2.slots.contains (g, slot)).map fun h => (h.2.slots.filter (· == (g, slot))).length).foldl (· + ·) 0

/-- The descriptors that hold a write resolution to a region's PEND slot (R376). -/
def writersOn (c : Chip) (g : Nat) : Nat := ((allDescs c).filter fun d => d.writes.contains g).length

/-- Some descriptor holds a write resolution (R379 step 1). -/
def anyWriter (c : Chip) : Bool := (allDescs c).any fun d => !d.writes.isEmpty

/-- The two name ranges of every valid region: region, first offset, bytes (R372). -/
def nameRanges (c : Chip) : List (Nat × Nat × Nat) :=
  c.wvm.rgns.flatMap fun p =>
    if p.2.valid then [(p.1, offOf p.2.aBase, p.2.len), (p.1, offOf p.2.bBase, p.2.len)] else []

/-- What a byte range of this core names. -/
inductive Named where
  | plain
  | region (g : Nat)
  | torn
deriving DecidableEq, Repr

/-- Resolves a byte range of this core against the name ranges (R372). -/
def nameOf (c : Chip) (off n : Nat) : Named :=
  if n = 0 then .plain
  else
    match (nameRanges c).filter fun p => decide (p.2.1 < off + n ∧ off < p.2.1 + p.2.2) with
    | [] => .plain
    | [(g, lo, len)] => if lo ≤ off ∧ off + n ≤ lo + len then .region g else .torn
    | _ => .torn

/-- The CUR or PREV slot in force at a step (R370, R373). -/
def Rgn.slotAt (r : Rgn) (s : Int) : Option Nat :=
  if (r.first r.cur : Int) ≤ s then some r.cur
  else if r.other = .prev ∧ (r.first r.alt : Int) ≤ s ∧ s < (r.first r.cur : Int) then some r.alt
  else none

/-- The slot that a selection names (R373, Table 15.3): CUR, or the CUR or PREV slot in force at step s. -/
def selSlot (c : Chip) (g wvsel : Nat) : Option Nat :=
  let r := rgnOf c g
  if wvsel < 128 then some r.cur
  else
    let opt : Int := c.wvm.opt
    r.slotAt (opt - (opt - ((wvsel % 128 : Nat) : Int)) % 128)

/-- A byte range of this core that a descriptor names, and whether it writes it. -/
structure Span where
  off : Nat
  len : Nat
  write : Bool
deriving DecidableEq, Repr

/-- What a descriptor holds of the regions that it names. -/
structure Resolved where
  pins : List (Nat × Nat)
  writes : List Nat
  rmap : List (Nat × Nat × Nat)
  wmap : List (Nat × Nat × Nat)
deriving DecidableEq, Repr

/-- Both name ranges of a region led to one slot. -/
def slotMap (r : Rgn) (slot : Nat) : List (Nat × Nat × Nat) :=
  [(offOf r.aBase, r.len, r.base slot), (offOf r.bBase, r.len, r.base slot)]

/-- Resolves the ranges of a descriptor in turn: the first that fails decides the cause (R372 to R376). -/
def resolveSpans (c : Chip) (wvsel : Nat) : List Span → Except Cause Resolved
  | [] => .ok ⟨[], [], [], []⟩
  | s :: rest =>
    match nameOf c s.off s.len with
    | .torn => .error .descMalformed
    | .plain => resolveSpans c wvsel rest
    | .region g =>
      if s.write then
        if (rgnOf c g).other = .pend then
          match resolveSpans c wvsel rest with
          | .ok x =>
            if x.writes.contains g then .ok x
            else .ok { x with writes := g :: x.writes, wmap := slotMap (rgnOf c g) (rgnOf c g).alt ++ x.wmap }
          | .error k => .error k
        else .error .versionAbsent
      else
        match selSlot c g wvsel with
        | none => .error .versionAbsent
        | some slot =>
          match resolveSpans c wvsel rest with
          | .ok x =>
            if x.pins.contains (g, slot) then .ok x
            else .ok { x with pins := (g, slot) :: x.pins, rmap := slotMap (rgnOf c g) slot ++ x.rmap }
          | .error k => .error k

/-- An address of this core led through resolved name ranges; others stay (R372). -/
def mapAddr (c : Chip) (m : List (Nat × Nat × Nat)) (a : Nat) : Nat :=
  if m.isEmpty || !isSelf c a then a
  else
    match m.find? fun p => decide (p.1 ≤ offOf a ∧ offOf a < p.1 + p.2.1) with
    | some p => byteAddr p.2.2 (offOf a - p.1)
    | none => a

/-- Every pin can be taken: no count would pass 65,535 (R374). -/
def pinsFit (c : Chip) (ps : List (Nat × Nat)) : Bool := ps.all fun p => decide (pinsOn c p.1 p.2 < 65535)

end Sys2Proof.Machine
end

