-- ==== Sys2Proof/Machine/Engine.lean ====
section
/-! DEFINITION. What every engine shares: the bytes of the core as an engine reaches them (Table 1.6), reads and writes
that leave the core, the issue checks of Table 5.5 in their order, the start of a checked descriptor and its completion. -/

namespace Sys2Proof.Machine

/-! ## Bytes of the core -/

/-- The array that a drain or weight aperture offset belongs to. -/
def apertureArray (off : Nat) : Nat :=
  if off < 0x11000000 then (off - 0x10000000) / 0x200000 else (off - 0x12000000) / 0x20000

/-- An array is present (R7, R8). -/
def arrayPresent (c : Chip) (n : Nat) : Bool := c.core.present.testBit n

/-- The mapped region of one offset: an aperture window of an absent array is unmapped, and so is a weight window past its
scales (R70, R72). -/
def regionAt (c : Chip) (off : Nat) : Option Region :=
  match regionOf off 1 with
  | some .drain => if arrayPresent c (apertureArray off) then some .drain else none
  | some .weight =>
    if arrayPresent c (apertureArray off) ∧ off % 0x20000 < 0x10800 then some .weight else none
  | r => r

/-- Every window of an aperture range that holds a byte of it is mapped. -/
def windowsMapped (c : Chip) (off n : Nat) : Bool :=
  (rangeFrom 0 4).all fun i =>
    let lo := 0x10000000 + 0x200000 * i
    decide (off + n ≤ lo) || decide (lo + 0x200000 ≤ off) || arrayPresent c i

/-- A byte range of this core is mapped and lies in one region (R67, R68); `w` for a write, which the weight aperture does
not take (R72). -/
def mappedRange (c : Chip) (w : Bool) (off n : Nat) : Bool :=
  match regionOf off n with
  | none => false
  | some .drain => windowsMapped c off n
  | some .weight =>
    !w && arrayPresent c (apertureArray off) && decide (off % 0x20000 + n ≤ 0x10800)
  | some _ => true

/-- A byte of a weight set. -/
def WSet.byte (w : WSet) (i : Nat) : Byte :=
  if i < 0x8000 ∧ (w.kmax ≤ i / 256 ∨ w.nmax ≤ i % 256 / 2) then BitVec.ofNat 8 (Config.freeNat (w.free + i))
  else Mem.get w.bytes i

/-- The state of an array. -/
def arrOf (c : Chip) (n : Nat) : MxaArr := SMap.get MxaArr.reset c.mxa.arrays n

/-- Changes the state of an array. -/
def updArr (n : Nat) (f : MxaArr → MxaArr) (c : Chip) : Chip :=
  { c with mxa.arrays := SMap.upd .reset c.mxa.arrays n f }

/-- Counts elements that the drain of an array has written or forwarded (Table 10.10). -/
def countElems (k n : Nat) (c : Chip) : Chip := updArr n (fun a => { a with elems := (a.elems + k) % 2 ^ 48 }) c

/-- A byte of a weight readback window that shows an active and a shadow set (Table 3.3). -/
def setsByte (act shd : WSet) (o : Nat) : Byte :=
  if o < 0x8000 then act.byte o
  else if o < 0x10000 then shd.byte (o - 0x8000)
  else if o < 0x10400 then act.byte (o - 0x8000)
  else shd.byte (o - 0x8400)

/-- A byte of the weight readback windows. -/
def weightByte (c : Chip) (i : Nat) : Byte :=
  let a := arrOf c (i / 0x20000)
  setsByte a.act a.shd (i % 0x20000)

/-- A byte of LMEM or of an aperture as it stands (R70 to R72). -/
def coreByte (c : Chip) (off : Nat) : Byte :=
  match regionOf off 1 with
  | some .lmem => Mem.get c.lmem.mem off
  | some .drain => Mem.get c.drn.acc (off - 0x10000000)
  | some .tile => Mem.get c.vec.tiles (off - 0x11000000)
  | some .weight => weightByte c (off - 0x12000000)
  | _ => 0#8

/-- Writes one byte of a drain or tile aperture. -/
def aperturePut (c : Chip) (off : Nat) (b : Byte) : Chip :=
  match regionOf off 1 with
  | some .drain => { c with drn.acc := Mem.set c.drn.acc (off - 0x10000000) b }
  | some .tile => { c with vec.tiles := Mem.set c.vec.tiles (off - 0x11000000) b }
  | _ => c

/-- Storage inside the core that an engine reaches without a request. -/
def Region.stored : Region → Bool
  | .lmem => true
  | .drain => true
  | .tile => true
  | .weight => true
  | _ => false

/-- The region of a global address on this core; `none` elsewhere. -/
def hereRegion (c : Chip) (a : Nat) : Option Region := if isSelf c a then regionAt c (offOf a) else none

/-- The address is storage of this core. -/
def isStored (c : Chip) (a : Nat) : Bool := (hereRegion c a).any Region.stored

/-- The sorted set of a list of addresses. -/
def addrSet (as : List Nat) : List Nat := (as.foldl (fun (m : SMap Unit) a => SMap.insert () m a) []).map Prod.fst

/-- Runs of consecutive addresses of a sorted list: (first, count). -/
def runsOf : List Nat → List (Nat × Nat)
  | [] => []
  | a :: as =>
    match runsOf as with
    | (b, n) :: rest => if b = a + 1 then (a, n + 1) :: rest else (a, 1) :: (b, n) :: rest
    | [] => [(a, 1)]

/-- The control-page word that holds an address, and whether the list has all of its bytes (R19). -/
def wholeWords (as : List Nat) : Bool :=
  as.all fun a => (rangeFrom (a - a % 8) 8).all fun b => as.contains b

/-! ## Reads and writes of a descriptor -/

/-- How an access of a descriptor went. -/
inductive Got where
  | ready
  /-- some data have not come back yet -/
  | missing
  | failed (k : Cause)
deriving DecidableEq, Repr

/-- A read request of a descriptor is outstanding. -/
def readsOut (c : Chip) (n idx : Nat) : Bool :=
  (c.outbox ++ c.tlk.out ++ c.tlk.heldReqs ++ c.tlk.waitReqs ++ c.hport.out).any fun r =>
    r.who == .desc n idx && r.kind == .rd

/-! ## Unordered accesses (R30)

Descriptors that run at once are unordered: neither has waited for the other's completion signal. -/

/-- What a byte of this core held before another engine wrote it while the descriptor ran. -/
def Desc.racedAt (d : Desc) (off : Nat) : Option Byte := (d.raced.find? fun p => p.1 == off).map Prod.snd

/-- The weight sets of an array change: every descriptor that runs on another ring class keeps what they held before (R72). -/
def noteWeights (a : Nat) (c : Chip) : Chip :=
  let x := arrOf c a
  let f (r : Ring) (d : Desc) : Desc :=
    if d.phase = .running ∧ r.cls ≠ 1 ∧ !(d.wraced.any fun p => p.1 == a) then { d with wraced := d.wraced ++ [(a, x.act, x.shd)] } else d
  { c with ring.rings := SMap.mapVal .reset (fun _ r => { r with descs := r.descs.map (f r) }) c.ring.rings }

/-- A read of weight cells that is unordered with a flip or a load returns each cell, and each scale, from before or from after it:
which, the spec does not say (R72). -/
def raceWeights (n idx : Nat) (d : Desc) (as : List Nat) (c : Chip) : Chip :=
  if d.wraced.isEmpty then c
  else
    let f := c.free
    let old (off : Nat) : Option Byte :=
      let o := off % 0x20000
      let cell := if o < 0x10000 then o / 2 else o
      match d.wraced.find? fun p => p.1 == (off - 0x12000000) / 0x20000 with
      | some p => if Config.freeBit (f + (off / 0x20000 * 0x20000 + cell)) then some (setsByte p.2.1 p.2.2 o) else none
      | none => none
    let ws := (as.map offOf).filter fun off => regionOf off 1 == some .weight
    updRing n (fun r => { r with descs := r.descs.map fun e =>
      if e.idx = idx then
        { e with seen := ws.foldl (fun m off => match old off with
            | some b => SMap.insert b m off
            | none => SMap.erase m off) e.seen }
      else e }) { c with free := f + 0x20000000 }

/-- A read of bytes that other engines have written since the descriptor started returns the old or the new value of each: which,
the spec does not say (R30). -/
def raceRead (n idx : Nat) (d : Desc) (as : List Nat) (c : Chip) : Chip :=
  if d.raced.isEmpty then c
  else
    as.foldl (fun c a =>
      match d.racedAt (offOf a) with
      | none => c
      | some b =>
        let (k, c) := takeFree c
        updRing n (fun r => { r with descs := r.descs.map fun e =>
          if e.idx = idx then
            { e with seen := if k % 2 = 0 then SMap.insert b e.seen (offOf a) else SMap.erase e.seen (offOf a) }
          else e }) c) c

/-- What a write of bytes of this core leaves in those that other engines have written since the descriptor started: the one value
or the other, byte by byte (R30). -/
def raceWrite (d : Desc) (cells : List (Nat × Byte)) (c : Chip) : List (Nat × Byte) × Chip :=
  if d.raced.isEmpty then (cells, c)
  else
    cells.foldl (fun s p =>
      if (d.racedAt p.1).isSome then
        let (k, c) := takeFree s.2
        (s.1 ++ [if k % 2 = 0 then (p.1, coreByte c p.1) else p], c)
      else (s.1 ++ [p], s.2)) (([] : List (Nat × Byte)), c)

/-- A block that works on storage of its own (a drain or tile registers) sees, in bytes that other engines have written there since the
descriptor started, the old or the new value of each (R30, R258, R302). -/
def raceIn (g : Region) (d : Desc) (c : Chip) : Chip :=
  (d.raced.filter fun p => regionOf p.1 1 == some g).foldl (fun c p =>
    let (k, c) := takeFree c
    if k % 2 = 0 then aperturePut c p.1 p.2 else c) c

/-- What such a block leaves in those bytes: where it writes the one value or the other, elsewhere what they held in `old`. -/
def raceOut (g : Region) (d : Desc) (offs : List Nat) (old c : Chip) : Chip :=
  (d.raced.filter fun p => regionOf p.1 1 == some g).foldl (fun c p =>
    let (k, c) := takeFree c
    if offs.contains p.1 && k % 2 != 0 then c else aperturePut c p.1 (coreByte old p.1)) c

/-- Every other descriptor that runs, on a ring of a kind that has no order with the writer, keeps what the bytes held before this
write; the writer's own reads see what it wrote. -/
def noteRaceOn (other : Ring → Bool) (n idx : Nat) (offs : List Nat) (c : Chip) : Chip :=
  let f (k : Nat) (r : Ring) (d : Desc) : Desc :=
    if k = n ∧ d.idx = idx then { d with seen := d.seen.filter fun p => !offs.contains p.1 }
    else if d.phase = .running ∧ other r = true then
      { d with raced := offs.foldl (fun m a => if m.any (fun p => p.1 == a) then m else SMap.insert (coreByte c a) m a) d.raced
               racedBy := offs.foldl (fun m a => SMap.insert (n, idx) m a) d.racedBy }
    else d
  { c with ring.rings := SMap.mapVal .reset (fun k r => { r with descs := r.descs.map (f k r) }) c.ring.rings }

/-- Every other descriptor that runs keeps what the bytes held before this write. -/
def noteRace (n idx : Nat) (offs : List Nat) (c : Chip) : Chip := noteRaceOn (fun _ => true) n idx offs c

/-- A descriptor has waited, while it ran, on counters that the writers of other descriptors have reached: what is written by
descriptors that are over is ordered before what it reads from then on (R29). -/
def orderAfterWait (n idx : Nat) (c : Chip) : Chip :=
  let done (off : Nat) (d : Desc) : Bool :=
    let w := SMap.get (n, idx) d.racedBy off
    !((ringOf c w.1).find w.2).any Desc.inFlight
  updRing n (fun r => { r with descs := r.descs.map fun d =>
    if d.idx = idx then
      { d with raced := d.raced.filter fun p => !done p.1 d, seen := d.seen.filter fun p => !done p.1 d }
    else d }) c

/-- Makes the bytes at resolved addresses readable: storage of the core at once, with its ECC effects in a requestor
class; control-page words, other cores and host memory by requests (R19, R192, R210). -/
def engineFetch (lc vc n idx : Nat) (as : List Nat) (c : Chip) : Got × Chip :=
  match (ringOf c n).find idx with
  | none => (.missing, c)
  | some d =>
    let as := addrSet as
    let pages := as.filter fun a => hereRegion c a == some .pages
    if as.any (fun a => isSelf c a && (hereRegion c a).isNone) || !wholeWords pages then (.failed .addrUnmapped, c)
    else
      let ext := as.filter fun a => !isStored c a && !(d.rbuf.any fun p => p.1 == a)
      if ext.isEmpty then
        let (bad, c) := eccRead lc ((as.filter fun a => hereRegion c a == some .lmem).map offOf) c
        if bad then (.failed .eccUncorr, c) else 
          (.ready, raceWeights n idx d (as.filter fun a => isStored c a) (raceRead n idx d (as.filter fun a => isStored c a) c))
      else if readsOut c n idx then (.missing, c)
      else (.missing, (runsOf ext).foldl (fun c p => askRange (.desc n idx) .rd p.1 p.2 [] vc c) c)

/-- A byte at a resolved address, once it has been made readable. -/
def fetched (c : Chip) (d : Desc) (a : Nat) : Byte :=
  if isStored c a then SMap.get (coreByte c (offOf a)) d.seen (offOf a) else SMap.get 0#8 d.rbuf a

/-- A byte that a descriptor reads by name (R372). -/
def rdByte (c : Chip) (d : Desc) (a : Nat) : Byte := fetched c d (mapAddr c d.rmap a)

/-- What the bytes at a destination hold, by name; a byte that the descriptor has still to write holds what it writes. -/
def oldByte (c : Chip) (d : Desc) (a : Nat) : Byte :=
  let r := mapAddr c d.wmap a
  SMap.get (if isStored c r then coreByte c (offOf r) else fetched c d r) d.later r

/-- Writes bytes of this core's own storage, by resolved address. A partial write of a poisoned word writes nothing to it and fails
the writer (R193); `kept` names bytes that keep some of their bits. -/
def storeHere (lc n idx : Nat) (kept : List Nat) (m : List (Nat × Byte)) (c : Chip) : Got × Chip :=
  let kept := (kept.filter fun a => hereRegion c a == some .lmem).map offOf
  let mine := m.filter fun p => hereRegion c p.1 == some .lmem || hereRegion c p.1 == some .drain || hereRegion c p.1 == some .tile
  let cells := mine.map fun p => (offOf p.1, p.2)
  let x : List (Nat × Byte) × Chip := match (ringOf c n).find idx with
    | some d => raceWrite d cells c
    | none => (cells, c)
  let here := x.1
  let c := noteRace n idx (here.map Prod.fst) x.2
  let lm := here.filter fun p => regionOf p.1 1 == some .lmem
  let pb := partialBad kept lm c
  let c := pb.foldl (fun c p => poisonWord lc p.1 p.2 c) c
  let c := lmemWriteCells kept lm c
  let c := (here.filter fun p => regionOf p.1 1 != some .lmem).foldl (fun c p => aperturePut c p.1 p.2) c
  (if pb.isEmpty then .ready else .failed .eccUncorr, c)

/-- A descriptor has a write to another core that is not acknowledged. -/
def farWrites (c : Chip) (n idx : Nat) : Bool :=
  (c.outbox ++ c.tlk.out ++ c.tlk.heldReqs ++ c.tlk.waitReqs).any fun r =>
    r.who == .desc n idx && r.kind == .wr && !isSelf c r.addr

/-- Keeps bytes of this core, of its host memory and of its pages until the writes of a descriptor to other cores are acknowledged: a
check that fails there leaves nothing written at this end (R67, R211). -/
def storeLater (lc n idx : Nat) (kept : List Nat) (m : List (Nat × Byte)) (c : Chip) : Chip :=
  updRing n (fun r => { r with descs := r.descs.map fun d =>
    if d.idx = idx then
      { d with later := m.foldl (fun s p => SMap.insert p.2 s p.1) d.later, laterKept := d.laterKept ++ kept, laterCls := lc }
    else d }) c

/-- Writes bytes at resolved addresses: storage of the core, its host memory and its pages at once, or with the acknowledgement of
what goes to other cores. An address that no region takes fails the writer before anything is written. -/
def engineWrite (lc vc n idx : Nat) (kept : List Nat) (cells : List (Nat × Byte)) (c : Chip) : Got × Chip :=
  let m : SMap Byte := cells.foldl (fun m p => SMap.insert p.2 m p.1) []
  let as := m.map Prod.fst
  let pages := as.filter fun a => hereRegion c a == some .pages
  let bad (a : Nat) : Bool := isSelf c a && ((hereRegion c a).isNone || hereRegion c a == some .weight)
  if as.any bad || !wholeWords pages then (.failed .addrUnmapped, c)
  else
    let own := m.filter fun p => isSelf c p.1
    let ext := as.filter fun a => !isSelf c a
    let far := !ext.isEmpty || farWrites c n idx
    let send (as : List Nat) (c : Chip) : Chip := (runsOf as).foldl (fun c p =>
      askRange (.desc n idx) .wr p.1 p.2 ((rangeFrom p.1 p.2).map (SMap.get 0#8 m)) vc c) c
    if far then (.ready, if own.isEmpty then send ext c else storeLater lc n idx kept own (send ext c))
    else
      storeHere lc n idx kept (m.filter fun p => isStored c p.1)
        (send ((own.map Prod.fst).filter fun a => hereRegion c a == some .host || hereRegion c a == some .pages) c)

/-! ## Bit writes -/

/-- A bit write as the bytes it touches: address, mask and value. -/
def BitWrite.parts (x : BitWrite) : List (Nat × Nat × Nat) :=
  let lo := x.pos % 8
  let n := (lo + x.w + 7) / 8
  (rangeFrom 0 n).map fun k =>
    (byteAddr x.base (x.pos / 8 + k), bits ((2 ^ x.w - 1) <<< lo) (8 * k) 8, bits ((x.val % 2 ^ x.w) <<< lo) (8 * k) 8)

/-- Bit writes gathered by byte, later ones over earlier: address to mask and value. -/
def gatherBits (xs : List BitWrite) : SMap (Nat × Nat) :=
  (xs.flatMap BitWrite.parts).foldl (fun m p =>
    let old := SMap.get (0, 0) m p.1
    SMap.insert (old.1 ||| p.2.1, (old.2 &&& (255 - p.2.1)) ||| p.2.2) m p.1) []

/-- The bytes of gathered bit writes that keep some of their old bits. -/
def keptBytes (m : SMap (Nat × Nat)) : List Nat := (m.filter fun p => p.2.1 != 255).map Prod.fst

/-- Gathered bit writes over old bytes. -/
def overOld (old : Nat → Byte) (m : SMap (Nat × Nat)) : List (Nat × Byte) :=
  m.map fun p => (p.1, BitVec.ofNat 8 (((old p.1).toNat &&& (255 - p.2.1)) ||| p.2.2))

/-! ## Tensors of a descriptor -/

/-- A tensor as a descriptor has it: the descriptor and owner table read at issue (R87, R517). -/
structure Ten where
  t : Tld
  o : Option OwnerTab
deriving DecidableEq, Repr

/-- A tensor from captured structure bytes; its TLD at 64 × off. -/
def tenOf (m : Mem) (off : Nat) : Ten :=
  let t := tldOf (Mem.read m (64 * off) 64)
  ⟨t, if t.owner = 0 then none else some (ownerOf (Mem.readNat m) (64 * t.owner))⟩

/-- A tensor of a started descriptor. -/
def Desc.ten (d : Desc) (off : Nat) : Ten := tenOf d.cap off

/-- The tensors that hold a tensor's data: itself, or its non-empty blocks. -/
def Ten.blocks (x : Ten) : List Tld :=
  match x.o with
  | none => [x.t]
  | some o =>
    ((rangeFrom 0 (o.na * o.nb)).filter o.full).map fun i => o.block x.t (i / max 1 o.nb) (i % max 1 o.nb)

/-- A tensor that an issue step reads: where its TLD lies, whether the descriptor writes it, and its extent's bytes. -/
structure TenRef where
  off : Nat
  dst : Bool
  ext : Tld → Nat

/-- A plain source. -/
def srcRef (off : Nat) : TenRef := ⟨off, false, Tld.extent⟩
/-- A plain destination. -/
def dstRef (off : Nat) : TenRef := ⟨off, true, Tld.extent⟩

/-- The ranges of LMEM that a tensor's structures occupy, as far as they can be followed: the TLD, the owner table's header
and the table up to its last entry (R517 part 2). -/
def tenRanges (c : Chip) (off : Nat) : List (Nat × Nat) :=
  if inLmem (64 * off) 64 then
    let t := tldOf (lmemBytes c (64 * off) 64)
    if t.owner = 0 then [(64 * off, 64)]
    else if inLmem (64 * t.owner) 64 then
      let h := lmemNat c (64 * t.owner) 8
      [(64 * off, 64), (64 * t.owner, ownerBytes (bits h 32 16) (bits h 48 16))]
    else [(64 * off, 64), (64 * t.owner, 64)]
  else [(64 * off, 64)]

/-- The header of a tensor's owner table, where the TLD has one. -/
def tenHead (c : Chip) (off : Nat) : List (Nat × Nat) :=
  let t := tldOf (lmemBytes c (64 * off) 64)
  if t.owner = 0 then [] else [(64 * t.owner, 64)]

/-- The ranges of LMEM that are read of a tensor's owner table after its header, all of which lie in LMEM: the split points and the
entries of the blocks that are not empty (R85, R517 part 3). -/
def tenReads (c : Chip) (off : Nat) : List (Nat × Nat) :=
  match (tenOf c.lmem.mem off).o with
  | none => []
  | some o =>
    let at_ := 64 * (tenOf c.lmem.mem off).t.owner
    let head := 64 + roundUp (4 * (o.na + 1)) 64 + roundUp (4 * (o.nb + 1)) 64
    let es := if o.na * o.nb ≤ 65536 then (rangeFrom 0 (o.na * o.nb)).filter o.full else []
    [(at_ + 64, 4 * (o.na + 1)), (at_ + 64 + roundUp (4 * (o.na + 1)) 64, 4 * (o.nb + 1))]
      ++ es.map fun i => (at_ + head + 16 * i, 16)

/-- Captures the bytes of structures: LMEM ranges, kept at their offsets, and further ones under their keys. -/
def capture (c : Chip) (d : Desc) (rs : List (Nat × Nat)) (raws : List (Nat × Nat × Nat)) : Mem :=
  raws.foldl (fun m r => Mem.write m r.1 ((rangeFrom r.2.1 r.2.2).map (fetched c d)))
    (rs.foldl (fun m r => Mem.write m r.1 (lmemBytes c r.1 r.2)) [])

/-- A byte range runs past 0x0FFF_FFFF_FFFF (R67). -/
def pastEnd (a n : Nat) : Bool := decide (2 ^ 44 < offOf a + n)

/-- The byte ranges on this core that a tensor's data occupy. -/
def tenSpans (c : Chip) (x : Ten) (r : TenRef) : List Span :=
  (x.blocks.filter fun b => isSelf c b.base).map fun b => ⟨offOf b.base, r.ext b, r.dst⟩

/-! ## The checks of an engine class (Table 5.5) -/

/-- What an engine class adds to the common issue checks, and when and how its descriptors start. -/
structure EngineClass where
  /-- step 2: the opcode is defined, CHAIN fits it and no undefined ENGF bit is set -/
  opcOk : Desc → Bool
  /-- step 3: what it names exists -/
  present : Chip → Desc → Bool
  /-- a count that is zero makes it a no-op (R151) -/
  noop : Desc → Bool
  /-- step 4, part 1: the descriptor's own fields -/
  fields : Desc → Bool
  /-- the tensors that it names -/
  tens : Desc → List TenRef
  /-- further structures that issue reads: the key under which the descriptor keeps them, global address and bytes -/
  raws : Chip → Desc → List (Nat × Nat × Nat)
  /-- step 4, part 3: rules on the structures -/
  shape : Chip → Desc → Bool
  /-- byte ranges on this core beside the tensors -/
  ranges : Chip → Desc → List Span
  /-- step 7 -/
  windows : Chip → Desc → Bool
  /-- step 8 after resolution -/
  own : Chip → Desc → Option Cause
  /-- the version selection of its reads (R373) -/
  wvsel : Desc → Nat
  /-- drogue units that its start needs -/
  units : Chip → Desc → List Nat
  /-- everything else that its start waits for -/
  canStart : Chip → Nat → Desc → Bool
  /-- what its start does -/
  onStart : Nat → Desc → Chip → Chip
  /-- what a NOP or a descriptor with a zero count waits for -/
  idleStart : Chip → Nat → Desc → Bool := fun _ _ _ => true
  /-- what such a descriptor takes when it starts -/
  idleKeep : Chip → Desc → Desc := fun _ d => d
  /-- step 5 beside the owner tables: a layout epoch of its own is stale -/
  stale : Chip → Desc → Bool := fun _ _ => false
  /-- step 6 beside the tensors and ranges: something that it names is not mapped -/
  unmapped : Chip → Desc → Bool := fun _ _ => false
  /-- step 4, part 1, beside the fields: what they name must lie on this core -/
  fieldsHere : Chip → Desc → Bool := fun _ _ => true

/-- Every span that a descriptor names, in order: tensors first. -/
def descSpans (k : EngineClass) (c : Chip) (d : Desc) : List Span :=
  (k.tens d).flatMap (fun r => tenSpans c (d.ten r.off) r) ++ k.ranges c d

/-- Steps 1 and 2: class, opcode, reserved header bits. -/
def headerOk (k : EngineClass) (cls : Nat) (d : Desc) : Bool :=
  decide (d.eng = cls) && d.headerRes0
    && (if d.opc = 0 then !d.chain && decide (d.engf = 0) else k.opcOk d)

/-- The payload of a NOP is reserved (R138). -/
def nopOk (d : Desc) : Bool := (d.words.drop 2).all fun w => w == 0#64

/-- A tensor's TLD and owner table are well formed for its role (R75, R77, R85); of a distributed tensor the strides and the scale
array are those of each of its blocks (R82, R86). -/
def tenOk (r : TenRef) (x : Ten) : Bool :=
  x.t.wellFormed && (match x.o with
    | none => true
    | some o => o.wellFormed x.t) && x.blocks.all fun b => (!r.dst || b.nested) && !b.scaleOverlap

/-- Steps 4 part 3 to 8 on a descriptor with captured structures: the first cause (Table 5.5). -/
def structCause (k : EngineClass) (c : Chip) (d : Desc) : Option Cause :=
  if !((k.tens d).all fun r => tenOk r (d.ten r.off)) || !k.shape c d then some .descMalformed
  else if (k.tens d).any (fun r => match (d.ten r.off).o with
      | some o => o.epoch != (d.ten r.off).t.epoch
      | none => false) || k.stale c d then some .layoutStale
  else if !((descSpans k c d).all fun s => s.len == 0 || mappedRange c s.write s.off s.len) || k.unmapped c d
      || ((k.tens d).any fun r => (d.ten r.off).blocks.any fun b => pastEnd b.base (r.ext b)) then
    some .addrUnmapped
  else if !k.windows c d then some .lenExceeds
  else
    match resolveSpans c (k.wvsel d) (descSpans k c d) with
    | .error e => some e
    | .ok x => k.own c { d with pins := x.pins, writes := x.writes, rmap := x.rmap, wmap := x.wmap }

/-- Whether a descriptor does nothing but complete: a NOP, or a count that is zero (R138, R151). -/
def idleWork (k : EngineClass) (d : Desc) : Bool := decide (d.opc = 0) || k.noop d

/-- A structure that a descriptor's fields name lies in LMEM, or in the host memory that holds a region's slot (R517). -/
def rawOk (c : Chip) (r : Nat × Nat × Nat) : Bool := (isSelf c r.2.1 && inLmem (offOf r.2.1) r.2.2) || isHost c r.2.1 r.2.2

/-- The structures that issue reads all lie where they can be read (R517 part 2). -/
def structsIn (k : EngineClass) (c : Chip) (d : Desc) : Bool :=
  ((k.tens d).flatMap fun r => tenRanges c r.off).all (fun r => inLmem r.1 r.2) && (k.raws c d).all (rawOk c)

/-- The TLDs of a descriptor, and its further structures, lie where they can be read (R517 part 2). -/
def tldsIn (k : EngineClass) (c : Chip) (d : Desc) : Bool :=
  (k.tens d).all (fun r => inLmem (64 * r.off) 64) && (k.raws c d).all (rawOk c)

/-- Reads the structures that part 2 of step 4 follows, each once and with its check bits: the TLDs, then the headers of the owner
tables; what cannot be read, or lies beyond LMEM, ends the issue (R192, R517). -/
def followStructs (k : EngineClass) (lc : Nat) (d : Desc) (c : Chip) : Option Cause × Chip :=
  let bytes (rs : List (Nat × Nat)) : List Nat := rs.flatMap fun r => rangeFrom r.1 r.2
  if !tldsIn k c d then (some .addrUnmapped, c)
  else
    match eccRead lc (bytes ((k.tens d).map fun r => (64 * r.off, 64))) c with
    | (true, c) => (some .eccUncorr, c)
    | (false, c) =>
      let hs := (k.tens d).flatMap fun r => tenHead c r.off
      if !hs.all fun r => inLmem r.1 r.2 then (some .addrUnmapped, c)
      else
        match eccRead lc (bytes hs) c with
        | (true, c) => (some .eccUncorr, c)
        | (false, c) => (if structsIn k c d then none else some .addrUnmapped, c)

/-- The bytes of structures in host memory that an issue which has come that far has still to fetch. -/
def rawsMissing (k : EngineClass) (cls : Nat) (c : Chip) (d : Desc) : List Nat :=
  if headerOk k cls d && k.present c d && decide (d.opc ≠ 0) && !k.noop d && k.fields d && k.fieldsHere c d && tldsIn k c d then
    ((k.raws c d).flatMap fun r => rangeFrom r.2.1 r.2.2).filter fun a => !isStored c a && !(d.rbuf.any fun p => p.1 == a)
  else []

/-- All the issue checks: the cause of rejection, or the descriptor with its structures captured (R145, R517). -/
def issueChecks (k : EngineClass) (lc cls : Nat) (d : Desc) (c : Chip) : Except Cause Desc × Chip :=
  if !headerOk k cls d || !k.present c d then (.error .descMalformed, c)
  else if d.opc = 0 then (if nopOk d then (.ok d, c) else (.error .descMalformed, c))
  else if k.noop d then (.ok d, c)
  else if !k.fields d || !k.fieldsHere c d then (.error .descMalformed, c)
  else
    match followStructs k lc d c with
    | (some e, c) => (.error e, c)
    | (none, c) =>
      let heads := (k.tens d).flatMap fun r => (64 * r.off, 64) :: tenHead c r.off
      let rs := (k.tens d).flatMap fun r => tenReads c r.off
      let raws := k.raws c d
      let here := (raws.flatMap fun r => rangeFrom r.2.1 r.2.2).filter (isStored c)
      let (bad, c) := eccRead lc ((rs.flatMap fun r => rangeFrom r.1 r.2) ++ here.map offOf) c
      if bad then (.error .eccUncorr, c)
      else
        let d := { d with cap := capture c d (heads ++ rs) raws, rbuf := [] }
        match structCause k c d with
        | some e => (.error e, c)
        | none => (.ok d, c)

/-! ## Starting -/

/-- A page has stopped starting descriptors: EN = 0 or QREQ = 1 (R22, R510). -/
def pageStopped (c : Chip) (p : Nat) : Bool := !(pageOf c p).en || (pageOf c p).qreq

/-- The first ring-order condition on a start: WVM starts the descriptors of one ring one after another (R382). -/
def wvmOrder (r : Ring) (cls : Nat) (d : Desc) : Bool := cls != 7 || earlierDone r d.idx

/-- Starts a checked descriptor if everything it waits for allows it: the ring and the page (R22), the hold of a commit (R379),
its pins (R374), its engine's resources, and the drogue, of which it asks its gated units (R464). -/
def tryStart (k : EngineClass) (cls n : Nat) (d : Desc) (c : Chip) : Chip :=
  let r := ringOf c n
  let held := c.wvm.hold.isSome && cls != 7 && cls != 15
  if d.phase ≠ .checked ∨ !r.en ∨ r.halted ∨ pageStopped c (classPage cls) ∨ held ∨ !wvmOrder r cls d then c
  else if idleWork k d then
    if k.idleStart c n d then
      putDesc n { k.idleKeep c d with phase := if d.opc = 0 then .running else .worked, tStart := some (now c) } c
    else c
  else
    match resolveSpans c (k.wvsel d) (descSpans k c d) with
    | .error e => haltRing n d e c
    | .ok x =>
      let d := { d with rmap := x.rmap, wmap := x.wmap }
      if !pinsFit c x.pins || !k.canStart c n d then c
      else if (k.units c d).all (unitOn c) then
        let d := { d with phase := .running, tStart := some (now c), gen := c.sct.gen, lEpoch := c.rdu.epoch
                          pins := x.pins, writes := x.writes, raced := [], seen := [], racedBy := [], wraced := [], later := []
                          laterKept := [], laterCarry := [], uncounted := 0 }
        k.onStart n d (putDesc n d c)
      else (k.units c d).foldl (fun c u => requestUnit u c) c

/-- Issues a descriptor: its checks, after which it waits for its start (R145). One whose structures lie in host memory issues once
they have come. -/
def issueDesc (k : EngineClass) (lc cls n : Nat) (d : Desc) (c : Chip) : Chip :=
  match rawsMissing k cls c d with
  | a :: as => (engineFetch lc vcData n d.idx (a :: as) c).2
  | [] =>
    match issueChecks k lc cls d c with
    | (.error e, c) => haltRing n { d with tStart := some (now c) } e c
    | (.ok d, c) =>
      putDesc n { d with phase := .checked, tReady := some (d.tReady.getD (now c)) } c

/-! ## What a start reads -/

/-- A started descriptor has read what its start samples. -/
def Desc.sampled (d : Desc) : Bool := SMap.get 0 d.samp 0 == 1

/-- The reads of a start, by name, and what they leave: made once; data that come from host memory are waited for, and the work of
the descriptor makes them then. -/
def sampleAt (lc vc n idx : Nat) (names : Desc → List Nat) (f : Desc → Chip → Chip) (c : Chip) : Chip :=
  match (ringOf c n).find idx with
  | none => c
  | some d =>
    if d.sampled || !d.started then c
    else
      match engineFetch lc vc n idx ((names d).map (mapAddr c d.rmap)) c with
      | (.missing, c) => c
      | (.failed k, c) => abandonDesc n idx k c
      | (.ready, c) =>
        match (ringOf c n).find idx with
        | some d => f { d with samp := SMap.insert 1 d.samp 0 } c
        | none => c

/-! ## Quiescing (R22, R510, R511) -/

/-- The engine class whose page a page is. -/
def pageClass (p : Nat) : Option Nat := (rangeFrom 0 9).find? fun k => classPage k == p

/-- A completed descriptor of a class whose turn it is has not signalled yet: its record is not acknowledged, or the hold queue is full
(R154, R174). -/
def signalsWait (c : Chip) (cls : Nat) : Bool :=
  c.ring.rings.any fun kr => kr.2.cls == cls && kr.2.descs.head?.any fun d => decide (d.phase = .completed)

/-- PG_QUIESCED.Q of a page: what runs has completed and signalled (R22). -/
def quiesced (c : Chip) (p : Nat) : Bool :=
  let engine (p cls : Nat) : Bool := pageStopped c p && (classDescs c cls Desc.started).isEmpty && !signalsWait c cls
  match pageClass p with
  | some cls => engine p cls
  | none =>
    if p = pFEED ∨ p = pDRN then engine pMXA 1
    else if p = pSEQ then
      (pageOf c p).qreq && (classDescs c 15 Desc.started).isEmpty && !signalsWait c 15
        && c.seq.ctxs.all fun x => decide (x.2.st ≠ .ready ∧ x.2.st ≠ .waiting)
    else (pageOf c p).qreq

/-! ## Writes that waited for other cores (R67) -/

/-- Writes what a descriptor has kept for this core, and counts its bytes (Table 8.11); its writes to other cores are
acknowledged. -/
def commitNow (n idx : Nat) (c : Chip) : Got × Chip :=
  match (ringOf c n).find idx with
  | none => (.missing, c)
  | some d =>
    let c := putDesc n { d with later := [], laterKept := [], laterCarry := [], uncounted := 0 } c
    engineWrite d.laterCls vcData n idx d.laterKept d.later
      { c with vec.carry := d.laterCarry.foldl (fun m p => SMap.set 0 m p.1 p.2) c.vec.carry
               dma.bytes := (c.dma.bytes + d.uncounted) % 2 ^ 48 }

/-- Writes what a descriptor has kept once its work is over and its writes to other cores are acknowledged. -/
def commitLater (n idx : Nat) (c : Chip) : Chip :=
  match (ringOf c n).find idx with
  | none => c
  | some d =>
    if !d.owes || decide (d.phase ≠ .worked) || reqsOf c (.desc n idx) != 0 then c
    else
      match commitNow n idx c with
      | (.failed k, c) => abandonDesc n idx k c
      | (_, c) => c

/-- Every write that waited for acknowledgements alone is made. -/
def commitWrites (c : Chip) : Chip :=
  (c.ring.rings.flatMap fun kr => (kr.2.descs.filter Desc.owes).map fun d => (kr.1, d.idx)).foldl (fun c p => commitLater p.1 p.2 c) c

/-! ## Working and finishing -/

/-- Runs the work of a command on the descriptor it names: one of its class and opcode that has started. -/
def onRunning (q : DescRef) (cls opc : Nat) (f : Desc → Chip → Chip) (c : Chip) : Chip :=
  match descOf c q with
  | some d => if (ringOf c q.ring).cls = cls ∧ d.opc = opc ∧ d.phase = .running then f d c else c
  | none => c

/-- The work of a descriptor is done; it completes once its writes are acknowledged (R139). -/
def finishWork (q : DescRef) (c : Chip) : Chip :=
  updRing q.ring (fun r => { r with descs := r.descs.map fun d =>
    if d.idx = q.idx ∧ d.phase = .running then { d with phase := .worked } else d }) c

/-- What follows an access: more work, a wait for data, or the end of the descriptor. -/
def andThen (q : DescRef) (g : Got × Chip) (f : Chip → Chip) : Chip :=
  match g with
  | (.ready, c) => f c
  | (.missing, c) => c
  | (.failed k, c) => abandonDesc q.ring q.idx k c

/-- Reads by name, then goes on with the descriptor as it then stands. -/
def withBytes (lc vc : Nat) (q : DescRef) (d : Desc) (names : List Nat) (f : Desc → Chip → Chip) (c : Chip) : Chip :=
  andThen q (engineFetch lc vc q.ring q.idx (names.map (mapAddr c d.rmap)) c) fun c =>
    match descOf c q with
    | some d => f d c
    | none => c

/-- Reads resolved destination bytes outside the core's storage that a write keeps in part. -/
def withOld (lc vc : Nat) (q : DescRef) (d : Desc) (names : List Nat) (f : Desc → Chip → Chip) (c : Chip) : Chip :=
  let as := (names.map (mapAddr c d.wmap)).filter fun a => !isStored c a
  andThen q (engineFetch lc vc q.ring q.idx as c) fun c =>
    match descOf c q with
    | some d => f d c
    | none => c

/-- Notes that a descriptor has written some bytes. -/
def noteWrote (q : DescRef) (k : Nat) (c : Chip) : Chip :=
  updRing q.ring (fun r => { r with descs := r.descs.map fun d => if d.idx = q.idx then { d with wrote := d.wrote + k } else d }) c

/-- Writes bytes by name, some of which keep some of their bits, does what follows a write that has not failed, and finishes the
descriptor (R372, R376). -/
def writeOutAnd (f : Chip → Chip) (lc vc : Nat) (q : DescRef) (d : Desc) (kept : List Nat) (cells : List (Nat × Byte)) (c : Chip) :
    Chip :=
  andThen q (engineWrite lc vc q.ring q.idx (kept.map (mapAddr c d.wmap)) (cells.map fun p => (mapAddr c d.wmap p.1, p.2)) c)
    fun c => finishWork q (f (noteWrote q cells.length c))

/-- Writes bytes by name and finishes the descriptor. -/
def writeOut (lc vc : Nat) (q : DescRef) (d : Desc) (kept : List Nat) (cells : List (Nat × Byte)) (c : Chip) : Chip :=
  writeOutAnd id lc vc q d kept cells c

/-- Writes bits by name over what the destination holds, does what follows, and finishes the descriptor. -/
def writeBitsAnd (f : Chip → Chip) (lc vc : Nat) (q : DescRef) (d : Desc) (xs : List BitWrite) (c : Chip) : Chip :=
  let m := gatherBits xs
  withOld lc vc q d (keptBytes m) (fun d c => writeOutAnd f lc vc q d (keptBytes m) (overOld (oldByte c d) m) c) c

/-- Writes bits by name over what the destination holds and finishes the descriptor. -/
def writeBits (lc vc : Nat) (q : DescRef) (d : Desc) (xs : List BitWrite) (c : Chip) : Chip := writeBitsAnd id lc vc q d xs c

end Sys2Proof.Machine
end

