-- ==== Sys2Proof/Machine/Elem.lean ====
section
/-! DEFINITION. The elementary functions whose results the spec bounds without giving them (R263, R317, Tables 10.5 and 12.9): each
function computed to well over 100 significant bits, and the free value that is any code within the stated error of it (log 16). -/

namespace Sys2Proof.Machine

/-! ## Fixed point: integers that count 2^-fxP -/

/-- Fraction bits of the fixed-point numbers. -/
def fxP : Nat := 640

/-- One. -/
def fxOne : Int := (2 : Int) ^ fxP

/-- A product. -/
def fxMul (a b : Int) : Int := (a * b) / fxOne

/-- A finite number in fixed point, toward minus infinity; others 0. -/
def fxOf : XNum → Int
  | .fin n m e =>
    let k := e + (fxP : Int)
    let v : Int := ((if 0 ≤ k then m <<< k.toNat else m >>> (-k).toNat : Nat) : Int)
    if n then -v else v
  | _ => 0

/-- A fixed-point number times 2^k as a number. -/
def fxNum (a : Int) (k : Int) : XNum := (XNum.ofInt a).scale (k - (fxP : Int))

/-- The sum of the terms t, t·f(1), t·f(1)·f(2), …: each term from the last by a step of `f`. -/
def fxSeries (f : Nat → Int → Int) : Nat → Nat → Int → Int
  | 0, _, _ => 0
  | fuel + 1, i, t => t + fxSeries f fuel (i + 1) (f i t)

/-- The arc tangent (`alt`) or the hyperbolic one of a number of magnitude at most 1/3: Σ ± x^(2i+1) / (2i+1). -/
def fxAtan (alt : Bool) (x : Int) : Int :=
  let x2 := fxMul x x
  let go : Nat → Nat → Int → Int := fun fuel => Nat.rec (fun _ _ => 0)
    (fun _ ih i t => t / (2 * i + 1) + ih (i + 1) (if alt then -(fxMul t x2) else fxMul t x2)) fuel
  go 260 0 x

/-- ln 2. -/
def fxLn2 : Int := 2 * fxAtan false (fxOne / 3)

/-- π, by Machin's sum. -/
def fxPi : Int := 16 * fxAtan true (fxOne / 5) - 4 * fxAtan true (fxOne / 239)

/-- e^r for |r| ≤ 1. -/
def fxExp (r : Int) : Int := fxSeries (fun i t => fxMul t r / ((i : Int) + 1)) 160 0 fxOne

/-- The sine and the cosine of |r| ≤ 2. -/
def fxSin (r : Int) : Int :=
  fxSeries (fun i t => -(fxMul t (fxMul r r)) / ((2 * (i : Int) + 2) * (2 * (i : Int) + 3))) 120 0 r
def fxCos (r : Int) : Int :=
  fxSeries (fun i t => -(fxMul t (fxMul r r)) / ((2 * (i : Int) + 1) * (2 * (i : Int) + 2))) 120 0 fxOne

/-- The error function of |z| ≤ 12: 2/√π Σ (−1)^n z^(2n+1) / (n! (2n+1)). -/
def fxErf (z : Int) : Int :=
  let z2 := fxMul z z
  let go : Nat → Nat → Int → Int := fun fuel => Nat.rec (fun _ _ => 0)
    (fun _ ih i t => t / (2 * i + 1) + ih (i + 1) (-(fxMul t z2) / ((i : Int) + 1))) fuel
  let s := go 1000 0 z
  2 * (s * fxOne) / (isqrt (fxPi.toNat * 2 ^ fxP) : Int)

/-! ## The functions, to more than 100 significant bits -/

/-- Past 2^15 every exponential is past every format. -/
def farOut (x : XNum) : Bool := decide (15 ≤ x.expo)

/-- A positive number below every format, and one above. -/
def tinyNum : XNum := .fin false 1 (-60000)
def hugeNum : XNum := .fin false 1 60000

/-- e^x of a finite number. -/
def expNum (x : XNum) : XNum :=
  if x.isZero then .one
  else if farOut x then (if x.sign then tinyNum else hugeNum)
  else
    let a := fxOf x
    let k := a / fxLn2
    fxNum (fxExp (a - k * fxLn2)) k

/-- 2^x of a finite number. -/
def exp2Num (x : XNum) : XNum :=
  if x.isZero then .one
  else if farOut x then (if x.sign then tinyNum else hugeNum)
  else
    let a := fxOf x
    let k := a / fxOne
    fxNum (fxExp (fxMul (a - k * fxOne) fxLn2)) k

/-- ln x of a positive finite number. -/
def lnNum (x : XNum) : XNum :=
  let e := x.expo
  let t := x.scale (-e)
  let (e, t) := if XNum.le (.fin false 3 (-1)) (t.scale 0) then (e + 1, t.scale (-1)) else (e, t)
  let s := (t.sub .one).div (t.add .one)
  (fxNum (2 * fxAtan false (fxOf s)) 0).add (fxNum (e * fxLn2) 0)

/-- e^x − 1: by the series where it would cancel. -/
def expm1Num (x : XNum) : XNum :=
  if x.isZero then x
  else if decide (x.expo < -1) then
    let r := fxOf x
    fxNum (fxSeries (fun i t => fxMul t r / ((i : Int) + 2)) 160 0 r) 0
  else (expNum x).sub .one

/-- σ(x) = 1 / (1 + e^−x). -/
def sigNum (x : XNum) : XNum := XNum.one.div (XNum.one.add (expNum x.neg))

/-- σ(x)(1 − σ(x)) = e^−|x| / (1 + e^−|x|)². -/
def sigSlope (x : XNum) : XNum :=
  let y := expNum x.abs.neg
  y.div ((XNum.one.add y).mul (XNum.one.add y))

/-- tanh x = (e^2|x| − 1) / (e^2|x| + 1) with the sign of x. -/
def tanhNum (x : XNum) : XNum :=
  if x.isZero then x
  else
    let y := if farOut x then XNum.one.sub tinyNum else (expm1Num (x.abs.scale 1)).div ((expm1Num (x.abs.scale 1)).add (.fin false 2 0))
    if x.sign then y.neg else y

/-- 1 − tanh² x = 4 σ(2x)(1 − σ(2x)). -/
def tanhSlope (x : XNum) : XNum := (sigSlope (x.scale 1)).scale 2

/-- erf x. -/
def erfNum (x : XNum) : XNum :=
  if decide (4 ≤ x.expo) ∨ XNum.le (.fin false 12 0) x.abs then
    (let y := XNum.one.sub tinyNum
     if x.sign then y.neg else y)
  else fxNum (fxErf (fxOf x)) 0

/-- 1/√2 and 1/√(2π). -/
def invSqrt2 : XNum := (XNum.sqrt (.fin false 1 (-1)))
def invSqrt2Pi : XNum := XNum.one.div (XNum.sqrt (fxNum fxPi 1))

/-- Φ(x) = (1 + erf(x / √2)) / 2. -/
def phiNum (x : XNum) : XNum :=
  if x.isZero then .fin false 1 (-1)
  else if XNum.le (.fin false 16 0) x.abs then (if x.sign then tinyNum else XNum.one.sub tinyNum)
  else (XNum.one.add (fxNum (fxErf (fxOf (x.mul invSqrt2))) 0)).scale (-1)

/-- φ(x) = e^(−x²/2) / √(2π). -/
def phiSlope (x : XNum) : XNum := (expNum ((x.mul x).scale (-1)).neg).mul invSqrt2Pi

/-- The argument of GELU_TANH, 0.7978845608 (x + 0.044715 x³), and its derivative. -/
def geluArg (x : XNum) : XNum :=
  ((XNum.ofInt 7978845608).mul (x.mul ((XNum.ofInt 1000000).add ((XNum.ofInt 44715).mul (x.mul x))))).div
    (XNum.ofInt 10000000000000000)
def geluSlope (x : XNum) : XNum :=
  ((XNum.ofInt 7978845608).mul ((XNum.ofInt 1000000).add ((XNum.ofInt 134145).mul (x.mul x)))).div
    (XNum.ofInt 10000000000000000)

/-- arctan x of a finite number: by the complement above 1 and twice by halves. -/
def atanNum (x : XNum) : XNum :=
  let a := x.abs
  let big := XNum.lt .one a
  let y := if big then XNum.one.div a else a
  let half (y : XNum) : XNum := y.div (XNum.one.add (XNum.one.add (y.mul y)).sqrt)
  let v := fxNum (4 * fxAtan true (fxOf (half (half y)))) 0
  let v := if big then (fxNum fxPi (-1)).sub v else v
  if x.sign then v.neg else v

/-- The sine (`cos` the cosine) of a finite number. -/
def sinNum (cos : Bool) (x : XNum) : XNum :=
  let a := fxOf x
  let q := (2 * a) / fxPi
  let r := a - q * fxPi / 2
  let k := ((q + (if cos then 1 else 0)) % 4).toNat
  match k with
  | 0 => fxNum (fxSin r) 0
  | 1 => fxNum (fxCos r) 0
  | 2 => (fxNum (fxSin r) 0).neg
  | _ => (fxNum (fxCos r) 0).neg

/-- ln(1 + e^x). -/
def softplusNum (x : XNum) : XNum :=
  if farOut x || decide (9 ≤ x.expo) then (if x.sign then expNum x else x) else lnNum (XNum.one.add (expNum x))

/-- A bounded function of a finite number by its code: 0x100 and 0x200 on a drain function and its derivative (Table 10.5), below
0x100 a special function in FP32 and 0x300 on one in FP64 (Table 12.9). -/
def elemNum (code : Nat) (x : XNum) : XNum :=
  match code with
  | 0x102 => x.mul (sigNum ((geluArg x).scale 1))
  | 0x103 => x.mul (phiNum x)
  | 0x104 => x.mul (sigNum x)
  | 0x105 => sigNum x
  | 0x106 => tanhNum x
  | 0x109 => softplusNum x
  | 0x10B => expNum x
  | 0x202 =>
    let u := (geluArg x).scale 1
    (sigNum u).add (((x.mul (geluSlope x)).scale 1).mul (sigSlope u))
  | 0x203 => (phiNum x).add (x.mul (phiSlope x))
  | 0x204 => (sigNum x).add (x.mul (sigSlope x))
  | 0x205 => sigSlope x
  | 0x206 => tanhSlope x
  | 0x209 => sigNum x
  | 0x03 => XNum.one.div x.sqrt
  | 0x303 => XNum.one.div x.sqrt
  | 0x05 => exp2Num x
  | 0x305 => exp2Num x
  | 0x304 => expNum x
  | 0x06 => expm1Num x
  | 0x07 => lnNum x
  | 0x307 => lnNum x
  | 0x08 => (lnNum x).div (fxNum fxLn2 0)
  | 0x308 => (lnNum x).div (fxNum fxLn2 0)
  | 0x09 => if decide (x.expo < -300) then x else lnNum (XNum.one.add x)
  | 0x0A => sinNum false x
  | 0x0B => sinNum true x
  | 0x0E => erfNum x
  | 0x13 => atanNum x
  | _ => x

/-- The stated error: ulp, and the absolute bound as a power of two where one is given. -/
def elemErr (code : Nat) : Nat × Option Int :=
  match code with
  | 0x102 => (3, none)
  | 0x103 => (3, none)
  | 0x10B => (1, none)
  | 0x202 => (4, some (-22))
  | 0x203 => (4, some (-22))
  | 0x204 => (4, some (-22))
  | 0x205 => (4, some (-23))
  | 0x206 => (4, some (-23))
  | 0x03 => (1, none)
  | 0x05 => (1, none)
  | 0x07 => (1, none)
  | 0x08 => (1, none)
  | 0x0A => (2, some (-24))
  | 0x0B => (2, some (-24))
  | n => if 0x300 ≤ n then (1, none) else (2, none)

/-! ## Any code within an error -/

/-- Places of the codes of a format in the order of their values; both zeros at 0. -/
def FFmt.place (f : FFmt) (code : Nat) : Int :=
  let mag : Nat := code % 2 ^ (f.expBits + f.frac)
  if code.testBit (f.expBits + f.frac) then -(mag : Int) else mag

/-- The code at a place; of the two zeros the one that `neg` says. -/
def FFmt.atPlace (f : FFmt) (neg : Bool) (i : Int) : Nat :=
  i.natAbs + (if i < 0 || (decide (i = 0) && neg) then 2 ^ (f.expBits + f.frac) else 0)

/-- One ulp of a number in a format. -/
def FFmt.ulp (f : FFmt) (y : XNum) : XNum :=
  .fin false 1 (if y.isZero then f.qmin else max (y.expo - (f.frac : Int)) f.qmin)

/-- The first and the last place within an error of an exact result that `y` gives to 90 bits. -/
def FFmt.within (f : FFmt) (err : Nat × Option Int) (y : XNum) : Int × Int :=
  let b := (XNum.ofInt err.1).mul (f.ulp y)
  let b := match err.2 with
    | some k => XNum.max b (.fin false 1 k)
    | none => b
  let b := b.add (y.abs.scale (-90))
  let hi := f.encode .rdn false 0 (y.add b)
  let lo := f.encode .rup false 0 (y.sub b)
  let top : XNum := f.decode f.maxCode
  (if XNum.lt (y.sub b) top.neg then -(f.infCode : Int) else f.place lo,
   if XNum.lt top (y.add b) then (f.infCode : Int) else f.place hi)

/-- A code within the stated error of an exact result: which of them, the spec does not say; `k` is free. -/
def FFmt.anyWithin (f : FFmt) (err : Nat × Option Int) (y : XNum) (k : Nat) : Nat :=
  let (lo, hi) := f.within err y
  f.atPlace (k.testBit 0) (lo + ((k / 2 % ((hi - lo).toNat + 1) : Nat) : Int))

end Sys2Proof.Machine
end

