-- ==== Sys2Proof/Machine/Gen.lean ====
section
/-! DEFINITION. The counter-based generator of Element Programs (R338, R339), which stochastic rounding, PACKSR and the
RNG micro-ops draw from. -/

namespace Sys2Proof.Machine

/-- A 32-bit rotation to the left. -/
def rotl32 (x k : Nat) : Nat := ((x <<< k) % 2 ^ 32) ||| ((x % 2 ^ 32) >>> (32 - k))

/-- The four words and the two round keys. -/
structure GenSt where
  x0 : Nat
  x1 : Nat
  x2 : Nat
  x3 : Nat
  ka : Nat
  kb : Nat
deriving DecidableEq, Repr

/-- One round with its two rotation counts (R339). -/
def genRound (p q : Nat) (s : GenSt) : GenSt :=
  let ka := add32 s.ka 0xA3B195C7
  let kb := add32 s.kb 0x4F6D2E3B
  let x0 := add32 s.x0 (s.x1 ^^^ ka)
  let x3 := rotl32 (s.x3 ^^^ x0) p
  let x2 := add32 s.x2 (x3 ^^^ kb)
  let x1 := rotl32 (s.x1 ^^^ x2) q
  { x0 := x1, x1 := x2, x2 := x3, x3 := x0, ka := ka, kb := kb }

/-- The rotation counts of the ten rounds. -/
def genRots : List (Nat × Nat) :=
  [(7, 23), (19, 4), (11, 17), (25, 12), (3, 30), (14, 8), (28, 26), (9, 15), (21, 2), (5, 18)]

/-- Output word `w` under a key and a 128-bit counter (R338, R339). -/
def genWord (w key n : Nat) : Nat :=
  let k0 := bits key 0 32
  let k1 := bits key 32 32
  let s := genRots.foldl (fun s r => genRound r.1 r.2 s) ⟨bits n 0 32, bits n 32 32, bits n 64 32, bits n 96 32, k0, k1⟩
  match w with
  | 0 => add32 s.x0 k0
  | 1 => add32 s.x1 k1
  | 2 => add32 s.x2 (k0 ^^^ k1)
  | _ => add32 s.x3 (rotl32 k0 16)

/-- The generator's counter (R338). -/
def genCounter (stream batch micro idx : Nat) : Nat :=
  stream * 2 ^ 112 + batch * 2 ^ 80 + micro * 2 ^ 64 + idx

end Sys2Proof.Machine
end

