-- ==== Sys2Proof/Machine/Epilogue.lean ====
section
/-! DEFINITION. What the drains and the matrix-vector path share: operand groups (R55), products and the tree (R56), the
split into BF16 terms (R59), the functions of Table 10.5, the element stages of the epilogue and the write-out (R261 to
R263, R268, R269); and the scale tracker's slots as engines meet them. -/

namespace Sys2Proof.Machine

/-! ## Operand groups (Table 2.8) -/

/-- Rate groups. -/
inductive Group where
  | f8 | f4 | i8 | f16 | f32
deriving DecidableEq, Repr

/-- A type of the 8-bit float group. -/
def Ty.inF8 (t : Ty) : Bool := (t.isMx || t == .e4m3 || t == .e5m2)

/-- The group of a pair of operands (R55). -/
def groupOf (a b : Ty) : Option Group :=
  if a = .mx4e2m1 ∧ b = .mx4e2m1 then some .f4
  else if a.inF8 && b.inF8 then some .f8
  else if a = .int8 ∧ b = .int8 then some .i8
  else if (a = .bf16 ∨ a = .fp16) ∧ (b = .bf16 ∨ b = .fp16) then some .f16
  else if a = .fp32 ∧ b = .fp32 then some .f32
  else none

/-- Types that a drain writes (Table 2.2). -/
def Ty.drnOut (t : Ty) : Bool :=
  t.isMx || t == .fp32 || t == .bf16 || t == .fp16 || t == .e4m3 || t == .e5m2 || t == .int8 || t == .int32

/-- An operand lies in this core's LMEM and is not distributed. -/
def Ten.localHere (x : Ten) (c : Chip) : Bool :=
  x.t.owner == 0 && isSelf c x.t.base && decide (regionOf (offOf x.t.base) 1 = some .lmem)

/-! ## The tree (R56) -/

/-- A product truncated toward zero to a multiple of 2^q, as that multiple. -/
def truncTo (q : Int) : XNum → Int
  | .fin n m e =>
    let k : Nat := if q ≤ e then m <<< (e - q).toNat else m >>> (q - e).toNat
    if n then -(k : Int) else (k : Int)
  | _ => 0

/-- The largest exponent of a list's nonzero finite values. -/
def maxExpo (xs : List XNum) : Option Int := rowExpo xs

/-- The tree's sum of products, rounded once to FP32 (R56). -/
def treeSum (xs : List XNum) : XNum :=
  let pos := xs.any fun x => decide (x = .inf false)
  let neg := xs.any fun x => decide (x = .inf true)
  if xs.any XNum.isNaN || (pos && neg) then .nan
  else if pos then .inf false
  else if neg then .inf true
  else
    match maxExpo xs with
    | none => if !xs.isEmpty && xs.all XNum.sign then .fin true 0 0 else .zero
    | some e =>
      let q := e - 48
      let s := (xs.map (truncTo q)).foldl (· + ·) 0
      fp32.rnd ((XNum.ofInt s).scale q)

/-- The BF16 terms of an FP32 operand (R59). -/
def splitHi (x : XNum) : XNum := if x.isFinite then bf16.rnd x else x
def splitLo (x : XNum) : XNum := if x.isFinite then bf16.rnd (x.sub (splitHi x)) else .zero

/-! ## Functions (Table 10.5) -/

/-- An FP32 number from its code. -/
def f32 (x : Nat) : XNum := fp32.decode x
/-- The FP32 code of a number that is an FP32 number already. -/
def f32Code (x : XNum) : Nat := fp32.encode .rne false 0 x

/-- A result of the elementary functions whose error the spec bounds: any FP32 code within it (log 16). -/
def bounded (code : Nat) (x : XNum) : XNum :=
  f32 (fp32.anyWithin (elemErr code) (elemNum code x) (Config.transc code (f32Code x)))

/-- A zero limit that is approached from below: its sign is not stated. -/
def zeroLimit (code : Nat) (x : XNum) : XNum := .fin (Config.transc code (f32Code x) % 2 == 1) 0 0

/-- e^x in FP32: given at NaN and at the infinities (R263). -/
def expOf (x : XNum) : XNum :=
  match x with
  | .nan => .nan
  | .inf n => if n then .zero else .inf false
  | x => bounded 0x10B x

/-- A function of the drain; codes past 0x0B do not occur. -/
def drnFun (act : Nat) (param x : XNum) : XNum :=
  let one : XNum := .one
  match act with
  | 0x01 => XNum.max x .zero
  | 0x07 =>
    if XNum.le .zero x then x
    else if param.isZero && decide (x = .inf true) then zeroLimit 0x107 x
    else fp32.rnd (param.mul x)
  | 0x08 => XNum.min (XNum.max x param.abs.neg) param.abs
  | 0x0A => fp32.rnd ((XNum.max x .zero).mul (XNum.max x .zero))
  | 0x0B => expOf x
  | 0x00 => x
  | a =>
    match x with
    | .nan => .nan
    | .inf false => if a = 0x05 ∨ a = 0x06 then one else .inf false
    | .inf true =>
      match a with
      | 0x05 => .zero | 0x06 => one.neg | 0x09 => .zero
      | _ => zeroLimit (0x100 + a) x
    | x => bounded (0x100 + a) x

/-- A derivative of the drain's functions. -/
def drnDeriv (act : Nat) (param x : XNum) : XNum :=
  if x.isNaN then .nan
  else
    match act with
    | 0x00 => .one
    | 0x01 => if XNum.lt .zero x then .one else .zero
    | 0x07 => if XNum.lt .zero x then .one else param
    | 0x08 => if param.isNaN then .nan else if XNum.lt param.abs.neg x && XNum.lt x param.abs then .one else .zero
    | 0x0A => fp32.rnd ((XNum.max x .zero).scale 1)
    | 0x0B => expOf x
    | a =>
      match x with
      | .inf false => if a = 0x05 ∨ a = 0x06 then .zero else .one
      | .inf true => if a = 0x05 ∨ a = 0x06 ∨ a = 0x09 then .zero else zeroLimit (0x200 + a) x
      | x => bounded (0x200 + a) x

/-- Functions that take a parameter. -/
def actHasParam (act : Nat) : Bool := act == 0x07 || act == 0x08

/-! ## Element stages -/

/-- Stage E2. -/
def stageE2 (scale bias : Option XNum) (v : XNum) : XNum :=
  let v := match scale with
    | some s => fp32.rnd (v.mul s)
    | none => v
  match bias with
  | some b => fp32.rnd (v.add b)
  | none => v

/-- Stage E3 without DERIV, and with it for a saved pre-activation. -/
def stageE3 (act : Nat) (param : XNum) (saved : Option XNum) (v : XNum) : XNum :=
  match saved with
  | some p => fp32.rnd (v.mul (drnDeriv act param p))
  | none => drnFun act param v

/-- The conversion scale at stage E5. -/
def stageE5 (x : Option Int) (v : XNum) : XNum :=
  match x with
  | some k => fp32.rnd (v.scale k)
  | none => v

/-- The largest magnitude of the outputs as a pending code, FP32 rounded up, NaN above every number; and the finite flag
(R268, Table 14.17). -/
def tapOf (vs : List XNum) : Nat × Bool :=
  ((vs.map fun v => fp32.encode .rup false 0 v.abs).foldl max 0, vs.all XNum.isFinite)

/-- Values that are NaN or infinite. -/
def nonfinite (vs : List XNum) : Nat := (vs.filter fun v => !v.isFinite).length

/-! ## Write-out (R269) -/

/-- The conversion settings of a descriptor. -/
structure Conv where
  rnd : Nat
  sat : Bool
  key : Nat
  stream : Nat
  batch : Nat
  micro : Nat
deriving DecidableEq, Repr

/-- The rounding mode. -/
def Conv.mode (v : Conv) : Round := (Round.ofCode v.rnd).getD .rne

/-- The random value of a destination element (R51, R208). -/
def Conv.draw (v : Conv) (t : Tld) (ix : List Nat) : Nat :=
  if v.rnd = 4 then genWord 0 v.key (genCounter v.stream v.batch v.micro (linearIdx t.dims ix)) % 2 ^ 24 else 0

/-- Values of an MX destination as bit writes: one scale and its elements for each written block, and zeros in the unused
positions of a line's last block (R45, R47). Under FTZ an element whose bits would be a subnormal of its own format is zero (R309). -/
def mxWrites (ftz : Bool) (x : Ten) (md : Round) (draw : List Nat → Nat) (vs : List (List Nat × XNum)) : List BitWrite :=
  let t := x.t
  let key (ix : List Nat) : List Nat := setNth (nth 0 ix 0 / 32) ix 0
  let keys := (vs.map fun p => key p.1).eraseDups
  keys.flatMap fun k =>
    let ms := vs.filter fun p => key p.1 = k
    let (sc, zero) := mxScale t.ty (ms.map Prod.snd)
    let ws := ms.map fun p => elemWrite x.o t p.1 (if zero then 0 else t.ty.flush ftz (mxElem t.ty sc md (draw p.1) p.2))
    let first := setNth (32 * nth 0 k 0) k 0
    let b := (resolveElem x.o t first).1
    let line := if t.tiling = 0 then roundUp (b.dim 0) 32 else b.alloc 0
    let j0 := nth 0 (resolveElem x.o t first).2 0
    let spare := (rangeFrom 0 32).filter fun i => decide (b.dim 0 ≤ j0 + i ∧ j0 + i < line)
    let zs := spare.map fun i =>
      (⟨b.base, b.pos (setNth (j0 + i) (resolveElem x.o t first).2 0), b.w, 0⟩ : BitWrite)
    zs ++ ws ++ [scaleWrite x.o t first sc]

/-- Positions of written MX blocks that lie inside the tensor and receive no output: the drain writes them as zero. -/
def mxHoles (x : Ten) (ixs : List (List Nat)) : List BitWrite :=
  let starts := (ixs.map fun ix => setNth (nth 0 ix 0 / 32 * 32) ix 0).eraseDups
  (starts.flatMap fun k => (rangeFrom (nth 0 k 0) 32).map fun i => setNth i k 0).filterMap fun ix =>
    if nth 0 ix 0 < x.t.dim 0 ∧ !ixs.contains ix then some (elemWrite x.o x.t ix 0) else none

/-- Outputs at destination elements as bit writes (R269). -/
def outWrites (x : Ten) (v : Conv) (vs : List (List Nat × XNum)) : List BitWrite :=
  if x.t.ty.isMx then mxHoles x (vs.map Prod.fst) ++ mxWrites false x v.mode (v.draw x.t) vs
  else vs.map fun p => elemWrite x.o x.t p.1 (x.t.ty.encode v.mode v.sat (v.draw x.t p.1) p.2)

/-! ## Slots of the scale tracker (R360 to R362) -/

def slotOf (c : Chip) (n : Nat) : SctSlot := SMap.get SctSlot.reset c.sct.slots n
def setSlot (n : Nat) (s : SctSlot) (c : Chip) : Chip := { c with sct.slots := SMap.set .reset c.sct.slots n s }

/-- Slots that every member provides. -/
def sctSlots : Nat := 2048

/-- X of a slot. -/
def SctSlot.exp (s : SctSlot) : Int := sext 8 s.x
/-- POLICY of a slot: 0 FIXED, 1 MAX, 2 LAST, 3 LOSS. -/
def SctSlot.policy (s : SctSlot) : Nat := fld s.cfg 0 2

/-- One tap arrives (R361): folded, or discarded as late or because its slot is a LOSS slot. -/
def foldTap (n amax : Nat) (fin : Bool) (gen : Nat) (c : Chip) : Chip :=
  let s := slotOf c n
  let c := if fin then c else { c with sct.nonfin := satAdd 16 c.sct.nonfin 1 }
  if gen ≠ c.sct.gen then { c with sct.late := satAdd 16 c.sct.late 1 }
  else if s.policy = 3 then { c with sct.losstap := satAdd 16 c.sct.losstap 1 }
  else setSlot n { s with amax := max s.amax amax, taps := satAdd 16 s.taps 1, fin := s.fin && fin } c

/-- A tap reports: SCT holds it while its page is asked to quiesce (Table 22.5). -/
def reportTap (n amax : Nat) (fin : Bool) (gen : Nat) (c : Chip) : Chip :=
  if (pageOf c pSCT).qreq then { c with sct.held := c.sct.held ++ [(n, amax, fin, gen)] } else foldTap n amax fin gen c

/-- Adds a tap to a descriptor that has output something; it reports at completion. -/
def addTap (q : DescRef) (slot : Nat) (vs : List XNum) (c : Chip) : Chip :=
  if vs.isEmpty then c
  else
    let (a, f) := tapOf vs
    updRing q.ring (fun r => { r with descs := r.descs.map fun d =>
      if d.idx = q.idx then { d with taps := d.taps ++ [(slot, a, f)] } else d }) c

end Sys2Proof.Machine
end

