-- ==== Sys2Proof/Machine/Dma.lean ====
section
/-! DEFINITION. The Layout and Movement Engine: DMA descriptors and their issue checks, the transposing buffers, XPB's
TRANSPOSE, and the registers of both pages (R203 to R226). -/

namespace Sys2Proof.Machine

/-! ## Payload (Tables 8.2, 8.4 and 8.5) -/

def Desc.srcTld (d : Desc) : Nat := d.bytes 16 3
def Desc.dstTld (d : Desc) : Nat := d.bytes 20 3
def Desc.idxTld (d : Desc) : Nat := d.bytes 24 3
def Desc.gdim (d : Desc) : Nat := bits (d.bytes 19 1) 0 3
def Desc.slices (d : Desc) : Nat := bits (d.bytes 19 1) 4 4
def Desc.rnd (d : Desc) : Nat := bits (d.bytes 23 1) 0 3
def Desc.sat (d : Desc) : Bool := (d.bytes 23 1).testBit 3
def Desc.padw (d : Desc) : Bool := (d.bytes 23 1).testBit 4
def Desc.oor (d : Desc) : Nat := bits (d.bytes 23 1) 5 2
def Desc.axis (d : Desc) : Nat := bits (d.bytes 23 1) 7 1
def Desc.fillMode (d : Desc) : Nat := bits (d.bytes 27 1) 0 2
def Desc.padv (d : Desc) : Nat := bits (d.bytes 27 1) 2 4
def Desc.padvEn (d : Desc) : Bool := (d.bytes 27 1).testBit 6
/-- The source dimension of a destination dimension: PERM for PERMUTE, else the identity (R205). -/
def Desc.permOf (d : Desc) (k : Nat) : Nat := if d.opc = 3 then bits (d.bytes 28 4) (3 * k) 3 else k
def Desc.srcStart (d : Desc) (k : Nat) : Nat := if k < 6 then d.bytes (64 + 4 * k) 4 else 0
def Desc.dstStart (d : Desc) (k : Nat) : Nat := if k < 6 then d.bytes (88 + 4 * k) 4 else 0
def Desc.count (d : Desc) (k : Nat) : Nat := if k < 6 then d.bytes (112 + 4 * k) 4 else 0
def Desc.idxStart (d : Desc) : Nat := d.bytes 136 4

/-- The random value of an element for RND = SR (R51, R208). -/
def dmaDraw (d : Desc) (idx : Nat) : Nat :=
  genWord 0 (d.bytes 32 8) (genCounter (d.bytes 40 2) (d.bytes 44 4) (d.bytes 42 2) idx) % 2 ^ 24

/-! ## Checks -/

/-- Reserved fields are zero and opcode-specific fields are used as their opcode uses them (R204, R217, Table 8.4). -/
def dmaFields (d : Desc) : Bool :=
  if d.opc = 1 then decide (d.bytes 38 10 = 0 ∧ d.bytes 56 8 = 0)
  else
    let fill := d.opc == 6
    let move := d.opc == 2 || d.opc == 3 || d.opc == 4 || d.opc == 5
    let padUse := fill || (move && d.padw)
    !(d.bytes 19 1).testBit 3 && !(d.bytes 27 1).testBit 7 && decide (bits (d.bytes 28 4) 18 14 = 0)
      && decide (d.bytes 56 8 = 0) && decide (d.bytes 140 52 = 0)
      && decide (d.rnd ≤ 4)
      && (!fill || decide (d.srcTld = 0))
      && (d.opc == 4 || d.opc == 5 || decide (d.gdim = 0 ∧ d.idxTld = 0 ∧ d.idxStart = 0))
      && (if d.opc = 7 then decide (7 ≤ d.slices ∧ d.slices ≤ 9) else decide (d.slices = 0 ∧ d.axis = 0))
      && (if d.opc = 4 then decide (d.oor ≤ 2) else decide (d.oor = 0))
      && (move || !d.padw)
      && (if fill then decide (d.fillMode ≤ 1) else decide (d.fillMode = 0))
      && (padUse || (decide (d.padv = 0) && !d.padvEn))
      && (!d.padvEn || decide (d.padv ≤ 4))
      && (d.opc == 3 || decide (bits (d.bytes 28 4) 0 18 = 0))
      && (d.opc != 4 || decide (d.srcStart d.gdim = 0))
      && (d.opc != 5 || decide (d.dstStart d.gdim = 0))
      && (d.opc != 7 || decide (d.srcStart d.axis = 0 ∧ d.dstStart d.axis = 0))

/-- Extent of a SLICE8 destination: its slice count and split axis come from the descriptor (R83). -/
def sliceExt (d : Desc) (t : Tld) : Nat := t.sliceExtent d.slices (if d.axis = 0 then t.dim 1 else t.dim 0)

/-- The tensors of a tensor opcode. -/
def dmaTens (d : Desc) : List TenRef :=
  if d.opc = 1 then []
  else if d.opc = 6 then [dstRef d.dstTld]
  else if d.opc = 7 then [srcRef d.srcTld, ⟨d.dstTld, true, sliceExt d⟩]
  else if d.opc = 4 ∨ d.opc = 5 then [srcRef d.srcTld, dstRef d.dstTld, srcRef d.idxTld]
  else [srcRef d.srcTld, dstRef d.dstTld]

/-- Types that DMA converts between (Table 2.2). -/
def Ty.dmaYes : Ty → Bool
  | .uint8 => false
  | .int16 => false
  | .bool1 => false
  | .e8m0 => false
  | .slice8 => false
  | _ => true

/-- A type pair that COPY takes (R206). -/
def dmaPair (s t : Ty) : Bool := (s != .slice8 && decide (s = t)) || (s.dmaYes && t.dmaYes)

/-- PERM's entries below RANK are a permutation, the others zero (R204). -/
def permOk (d : Desc) (rank : Nat) : Bool :=
  let ps := (rangeFrom 0 rank).map d.permOf
  d.opc != 3 || ((rangeFrom 0 rank).all (fun k => ps.contains k)
    && (rangeFrom rank (6 - rank)).all fun k => d.permOf k == 0)

/-- The window of an MX destination covers whole blocks (R207). -/
def mxWindow (t : Tld) (start count : Nat) : Bool :=
  !t.ty.isMx || (start % 32 == 0 && ((start + count) % 32 == 0 || start + count == t.dim 0))

/-- The pad code in force (R216). -/
def padCode (d : Desc) (t : Tld) : Nat := if d.padvEn then d.padv else t.pad

/-- The rules on the tensors together (R204, R206, R207, R209, R213, R216). -/
def dmaShape (_ : Chip) (d : Desc) : Bool :=
  if d.opc = 1 then true
  else
    let t := (d.ten d.dstTld).t
    let s := if d.opc = 6 then t else (d.ten d.srcTld).t
    let r := t.rank
    let tail := (rangeFrom r (6 - r)).all fun k => d.dstStart k == 0 && d.count k == 1 && d.srcStart k == 0
    let pads := d.opc == 6 || d.padw
    tail && decide (s.rank = r) && permOk d r && mxWindow t (d.dstStart 0) (d.count 0)
      && (!pads || ((!t.ty.isMx || decide (padCode d t = 0)) && (decide (t.ty ≠ .bool1) || decide (padCode d t ≤ 1))))
      && (if d.opc = 7 then
            decide (s.ty = .fp64) && decide (s.rank = 2) && decide (t.ty = .slice8)
              && decide (d.count d.axis = s.dim d.axis ∧ d.count d.axis = t.dim d.axis)
          else if d.opc = 6 then decide (t.ty ≠ .slice8)
          else dmaPair s.ty t.ty)
      && ((d.opc != 4 && d.opc != 5) ||
            (let x := (d.ten d.idxTld).t
             decide (d.gdim < r) && decide (x.rank = 1) && decide (x.tiling = 0)
               && (decide (x.ty = .int32) || decide (x.ty = .uint32)) && decide (x.owner = 0)))

/-- COPYB's byte ranges on this core (R153). -/
def dmaRanges (c : Chip) (d : Desc) : List Span :=
  if d.opc = 1 then
    let n := d.bytes 32 6
    (if isSelf c (d.bytes 16 8) then [⟨offOf (d.bytes 16 8), n, false⟩] else [])
      ++ (if isSelf c (d.bytes 24 8) then [⟨offOf (d.bytes 24 8), n, true⟩] else [])
  else []

/-- Windows within their tensors; no index falls within a dimension that is zero (R76, R205, R213 to R215). -/
def dmaWindows (_ : Chip) (d : Desc) : Bool :=
  if d.opc = 1 then true
  else
    let t := (d.ten d.dstTld).t
    let s := (d.ten d.srcTld).t
    (rangeFrom 0 t.rank).all (fun k =>
        if d.opc = 5 ∧ k = d.gdim then decide (0 < t.dim k) else decide (d.dstStart k + d.count k ≤ t.dim k))
      && (d.opc == 6 || (rangeFrom 0 t.rank).all (fun k =>
        if d.opc = 4 ∧ k = d.gdim then decide (0 < s.dim k)
        else decide (d.srcStart (d.permOf k) + d.count k ≤ s.dim (d.permOf k))))
      && ((d.opc != 4 && d.opc != 5) || decide (d.idxStart + d.count d.gdim ≤ (d.ten d.idxTld).t.dim 0))

/-! ## Windows as lists of elements -/

/-- The offsets j of the window, dimension 0 fastest. -/
def dmaOffsets (d : Desc) (rank : Nat) : List (List Nat) :=
  windowIdx ((rangeFrom 0 rank).map fun k => (0, d.count k))

/-- The destination element of an offset. -/
def dmaDst (d : Desc) (rank : Nat) (j : List Nat) : List Nat :=
  (rangeFrom 0 rank).map fun k => d.dstStart k + nth 0 j k

/-- The source element of an offset (R205). -/
def dmaSrc (d : Desc) (rank : Nat) (j : List Nat) : List Nat :=
  (rangeFrom 0 rank).foldl (fun ix k => setNth (d.srcStart (d.permOf k) + nth 0 j k) ix (d.permOf k))
    (List.replicate rank 0)

/-- Byte interval that elements touch in each part of a tensor on resolved addresses: LCN, lowest and highest (R220). -/
def partIntervals (c : Chip) (m : List (Nat × Nat × Nat)) (x : Ten) (ixs : List (List Nat)) : List (Nat × Nat × Nat) :=
  let lcn (a : Nat) : Nat := if isSelf c a then selfLcn else lcnOf a
  let parts : SMap (Nat × Nat × Nat) := ixs.foldl (fun p ix =>
    let b := (resolveElem x.o x.t ix).1.base
    (elemAddrs x.o x.t ix).foldl (fun p a =>
      let a := mapAddr c m a
      let o := offOf a
      match p.find? (fun e => e.1 == b) with
      | some e => SMap.insert (e.2.1, min e.2.2.1 o, max e.2.2.2 o) p b
      | none => SMap.insert (lcn a, o, o) p b) p) []
  parts.map Prod.snd

/-- The whole of a dimension stands for its window where the index tensor chooses within it. -/
def overlapIdx (d : Desc) (src : Bool) (x : Ten) : List (List Nat) :=
  let r := x.t.rank
  windowIdx ((rangeFrom 0 r).map fun k =>
    if (src && d.opc == 4 && k == d.gdim) || (!src && d.opc == 5 && k == d.gdim) then (0, x.t.dim k)
    else if src then
      (d.srcStart k, d.count (((rangeFrom 0 r).find? fun q => d.permOf q == k).getD k))
    else (d.dstStart k, d.count k))

/-- The byte intervals of COPYB. -/
def copybInterval (c : Chip) (m : List (Nat × Nat × Nat)) (a n : Nat) : List (Nat × Nat × Nat) :=
  let b := mapAddr c m a
  [((if isSelf c b then selfLcn else lcnOf b), offOf b, offOf b + n - 1)]

/-- The byte interval of a sliced destination: its whole extent, with every plane and the exponents (R83). -/
def sliceInterval (c : Chip) (d : Desc) : List (Nat × Nat × Nat) :=
  let t := (d.ten d.dstTld).t
  copybInterval c d.wmap t.base (sliceExt d t)

/-- Source and destination intervals of a descriptor. -/
def dmaIntervals (c : Chip) (d : Desc) : List (Nat × Nat × Nat) × List (Nat × Nat × Nat) :=
  if d.opc = 1 then
    (copybInterval c d.rmap (d.bytes 16 8) (d.bytes 32 6), copybInterval c d.wmap (d.bytes 24 8) (d.bytes 32 6))
  else if d.opc = 6 then ([], [])
  else
    (partIntervals c d.rmap (d.ten d.srcTld) (overlapIdx d true (d.ten d.srcTld)),
     if d.opc = 7 then sliceInterval c d
     else partIntervals c d.wmap (d.ten d.dstTld) (overlapIdx d false (d.ten d.dstTld)))

/-- The sum of the sizes of the intersections (R220). -/
def overlapOf (xs ys : List (Nat × Nat × Nat)) : Nat :=
  ((xs.flatMap fun x => ys.map fun y =>
      if x.1 = y.1 ∧ max x.2.1 y.2.1 ≤ min x.2.2 y.2.2 then min x.2.2 y.2.2 + 1 - max x.2.1 y.2.1 else 0)).foldl (· + ·) 0

/-- An exact overlap (R221), on tensors as they resolve. -/
def dmaExact (c : Chip) (d : Desc) : Bool :=
  if d.opc = 1 then mapAddr c d.rmap (d.bytes 16 8) == mapAddr c d.wmap (d.bytes 24 8)
  else
    let s := (d.ten d.srcTld).t
    let t := (d.ten d.dstTld).t
    decide (mapAddr c d.rmap s.base = mapAddr c d.wmap t.base ∧ s.tiling = t.tiling ∧ s.strides = t.strides)
      && decide (s.owner = t.owner ∧ s.dims = t.dims ∧ s.w = t.w) && !s.ty.isMx && !t.ty.isMx && decide (t.tiling ≠ 2)
      && (rangeFrom 0 t.rank).all (fun k => d.srcStart k == d.dstStart k)
      && (d.opc == 2 || (d.opc == 3 && decide (2 ≤ t.rank) && decide (d.permOf 0 = 1 ∧ d.permOf 1 = 0)
            && (rangeFrom 2 (t.rank - 2)).all (fun k => d.permOf k == k) && decide (d.count 0 = d.count 1)))

/-- Bytes of the staging area (Table 8.9). -/
def stageSize (v : W64) : Nat := min (fld v 32 13) 4096 * 1024
/-- LMEM offset of the staging area. -/
def stageBase (v : W64) : Nat := 64 * fld v 6 22

/-- Whether a descriptor must be staged: it overlaps and not exactly. -/
def dmaStaged (c : Chip) (d : Desc) : Bool :=
  let (xs, ys) := dmaIntervals c d
  decide (overlapOf xs ys ≠ 0) && !dmaExact c d

/-- Step 8: the overlap decides between running and COPY_OVERLAP (R220, R222). -/
def dmaOwn (c : Chip) (d : Desc) : Option Cause :=
  if dmaStaged c d then
    let (xs, ys) := dmaIntervals c d
    let lo := stageBase c.dma.stage
    let size := stageSize c.dma.stage
    let clash := (xs ++ ys).any fun x => decide (x.1 = selfLcn ∧ x.2.1 < lo + size ∧ lo ≤ x.2.2)
    if bitAt c.dma.stage 0 && decide (overlapOf xs ys ≤ size) && !clash then none else some .copyOverlap
  else none

/-! ## Resources (R222, R224) -/

/-- Descriptors of the class that have started. -/
def dmaRunning (c : Chip) : Nat := (classDescs c 0 Desc.started).length

/-- INFLIGHT as taken (Table 8.8). -/
def inflight (c : Chip) : Nat := max 1 (min 16 (fld c.dma.cfg 4 5))

/-- The holder of a transposing buffer: ring, engine class and descriptor. -/
def bufHolder (c : Chip) (b : Nat) : Option (Nat × Nat) :=
  (c.ring.rings.find? fun kr => kr.2.descs.any fun d => d.bufs.contains b).map fun kr => (kr.1, kr.2.cls)

/-- Free transposing buffers. -/
def freeBufs (c : Chip) : List Nat := (rangeFrom 0 Config.xpbCount).filter fun b => (bufHolder c b).isNone

/-- The dimension whose elements are adjacent. -/
def Tld.adjacent (t : Tld) : Nat := if t.tiling = 4 then 1 else 0

/-- A transposing COPY or PERMUTE: the adjacent dimensions of source and destination differ (Table 8.6, R223). -/
def dmaTransposes (d : Desc) : Bool :=
  (d.opc == 2 || d.opc == 3) &&
    (let s := (d.ten d.srcTld).t
     let t := (d.ten d.dstTld).t
     decide (2 ≤ t.rank) && decide (d.permOf t.adjacent ≠ s.adjacent) && (s.w == 8 || s.w == 16 || s.w == 32))

/-- The staging area is held. -/
def stageBusy (c : Chip) : Bool := (allDescs c).any Desc.staged

/-- Free buffers that DMA may take under an XPB_MASK, lowest first, two at most. -/
def dmaBufs (c : Chip) (mask : Nat) : List Nat := ((freeBufs c).filter fun b => mask.testBit b).take 2

/-! ## What the buffers hold (R223, R224) -/

/-- Bytes that one tile brings into a buffer. -/
def bufPut (b : Nat) (cells : List (Nat × Nat)) (c : Chip) : Chip :=
  { c with xpb.cells := cells.foldl (fun m p => SMap.set 256 m (262144 * b + p.1) p.2) c.xpb.cells }

/-- Tiles that pass through a buffer are counted, whoever holds it (Table 8.13). -/
def countXpb (k : Nat) (c : Chip) : Chip := { c with xpb.tiles := (c.xpb.tiles + k) % 2 ^ 48 }

/-- What a buffer held is visible to no later holder (R224). -/
def bufClear (bs : List Nat) (c : Chip) : Chip :=
  { c with xpb.cells := c.xpb.cells.filter fun p => !bs.contains (p.1 / 262144) }

def dmaCanStart (c : Chip) (_ : Nat) (d : Desc) : Bool :=
  decide (dmaRunning c < inflight c) && (!dmaTransposes d || !(dmaBufs c (fld c.dma.cfg 0 4)).isEmpty) && (!dmaStaged c d || !stageBusy c)

/-- The start of a descriptor: it takes its buffers and the staging area, and samples DMA_STAGE and XPB_MASK (R226). One that the
staging area as sampled cannot serve is abandoned (R220, R222). -/
def dmaOnStart (n : Nat) (d : Desc) (c : Chip) : Chip :=
  match dmaOwn c d with
  | some k => abandonDesc n d.idx k c
  | none =>
    let bs := if dmaTransposes d then dmaBufs c (fld c.dma.cfg 0 4) else []
    bufClear bs (putDesc n { d with bufs := bs, staged := dmaStaged c d
                                    samp := [(0, (c.dma.stage.toNat : Int)), (1, (fld c.dma.cfg 0 4 : Int))] } c)

/-- The DMA class. -/
def dmaClass : EngineClass :=
  { opcOk := fun d => decide (1 ≤ d.opc ∧ d.opc ≤ 7) && decide (d.chain = decide (2 ≤ d.opc)) && decide (d.engf = 0)
    present := fun _ _ => true
    noop := fun d => if d.opc = 1 then decide (d.bytes 32 6 = 0) else (rangeFrom 0 6).any fun k => d.count k == 0
    fields := dmaFields
    tens := dmaTens
    raws := fun _ _ => []
    shape := dmaShape
    ranges := dmaRanges
    windows := dmaWindows
    own := dmaOwn
    wvsel := fun _ => 0
    units := fun _ _ => [11]
    canStart := dmaCanStart
    onStart := dmaOnStart
    idleStart := fun c _ _ => decide (dmaRunning c < inflight c)
    unmapped := fun _ d => d.opc == 1 && (pastEnd (d.bytes 16 8) (d.bytes 32 6) || pastEnd (d.bytes 24 8) (d.bytes 32 6)) }

/-! ## Writing elements -/

/-- The rounding mode of a descriptor's RND field. -/
def Desc.mode (d : Desc) : Round := (Round.ofCode d.rnd).getD .rne

/-- The bits of a BOOL1 line past its last element, which are written as zero with that element (R42). -/
def boolTail (x : Ten) (ix : List Nat) : List BitWrite :=
  let (b, jx) := resolveElem x.o x.t ix
  if b.ty = .bool1 ∧ nth 0 jx 0 + 1 = b.dim 0 ∧ b.dim 0 % 8 ≠ 0 then [⟨b.base, b.pos jx + 1, 8 - b.dim 0 % 8, 0⟩] else []

/-- What one destination element receives. -/
inductive Src where
  | zero
  | elem (ix : List Nat)
deriving DecidableEq, Repr

/-- Element writes of a copy: unchanged bits for equal types, else the conversion of R206. -/
def dmaElemWrites (d : Desc) (rb : Nat → Byte) (s t : Ten) (ps : List (List Nat × Src)) : List BitWrite :=
  let draw (ix : List Nat) : Nat := if d.rnd = 4 then dmaDraw d (linearIdx t.t.dims ix) else 0
  let value (y : Src) : XNum := match y with
    | .zero => .zero
    | .elem ix => readElem rb s.o s.t ix
  if t.t.ty.isMx then mxWrites false t d.mode draw (ps.map fun p => (p.1, value p.2))
  else
    ps.flatMap fun p =>
      let v := match p.2 with
        | .zero => if t.t.ty = .e8m0 then 0 else t.t.ty.encode .rne false 0 .zero
        | .elem ix =>
          if s.t.ty = t.t.ty then readRaw rb s.o s.t ix
          else t.t.ty.encode d.mode d.sat (draw p.1) (readElem rb s.o s.t ix)
      elemWrite t.o t.t p.1 v :: boolTail t p.1

/-! ## Pad writes (R216 to R218) -/

/-- The allocation unit that holds an element: block tensor and the first indices of dimensions 0 and 1. -/
def tenUnit (x : Ten) (ix : List Nat) : Tld × List Nat :=
  let (b, jx) := resolveElem x.o x.t ix
  let u0 := b.allocUnit 0
  let jx := setNth (nth 0 jx 0 / u0 * u0) jx 0
  (b, if b.rank < 2 then jx else setNth (nth 0 jx 1 / b.allocUnit 1 * b.allocUnit 1) jx 1)

/-- The padded positions of a unit, and the spare bytes of its 6-bit SKEW32 slots, as bit writes. -/
def unitPads (v : Nat) (b : Tld) (jx : List Nat) : List BitWrite :=
  let u0 := b.allocUnit 0
  let u1 := b.allocUnit 1
  let cells := (rangeFrom 0 u1).flatMap fun k1 => (rangeFrom 0 u0).map fun k0 =>
    setNth (nth 0 jx 1 + k1) (setNth (nth 0 jx 0 + k0) jx 0) 1
  let pads := cells.filter fun ix => decide (b.dim 0 ≤ nth 0 ix 0) || (decide (2 ≤ b.rank) && decide (b.dim 1 ≤ nth 0 ix 1))
  let spare := if b.tiling = 2 ∧ b.w = 6 then
      (cells.filter fun ix => nth 0 ix 0 % b.ks == 0 && nth 0 ix 1 % 4 == 0).map fun ix =>
        (⟨b.base, b.pos ix + 96, 32, 0⟩ : BitWrite)
    else []
  pads.map (fun ix => (⟨b.base, b.pos ix, b.w, v⟩ : BitWrite)) ++ spare

/-- A byte holds element bits of a block. -/
def elemByte (c : Chip) (b : Tld) (a : Nat) : Bool :=
  (windowIdx ((rangeFrom 0 b.rank).map fun k => (0, b.dim k))).any fun ix =>
    let pos := b.pos ix
    (rangeFrom (pos / 8) ((pos % 8 + b.w + 7) / 8)).any fun k =>
      let e := byteAddr b.base k
      decide (e = a) || (isSelf c e && isSelf c a && decide (offOf e = offOf a))

/-- Pad writes of a window, byte by byte, without the bytes of neighbouring blocks; and how many were withheld (R218). -/
def padParts (c : Chip) (x : Ten) (v : Nat) (ixs : List (List Nat)) : List (Nat × Nat × Nat) × Nat :=
  let units := (ixs.map (tenUnit x)).eraseDups
  let parts := units.flatMap fun u => (unitPads v u.1 u.2).flatMap fun w => w.parts.map fun p => (u.1, p)
  let held (u : Tld) (a : Nat) : Bool := x.o.isSome && x.blocks.any fun b => decide (b ≠ u) && elemByte c b a
  let live := parts.filter fun p => !held p.1 p.2.1
  let lost := addrSet ((parts.filter fun p => held p.1 p.2.1).map fun p => p.2.1)
  (live.map Prod.snd, lost.length)

/-- Gathers byte parts, later over earlier. -/
def gatherParts (m : SMap (Nat × Nat)) (ps : List (Nat × Nat × Nat)) : SMap (Nat × Nat) :=
  ps.foldl (fun m p =>
    let old := SMap.get (0, 0) m p.1
    SMap.insert (old.1 ||| p.2.1, (old.2 &&& (255 - p.2.1)) ||| p.2.2) m p.1) m

/-- The pad bits of a descriptor's destination type. -/
def padValue (d : Desc) (t : Tld) : Nat := if t.ty.isMx then 0 else (padBits t.ty (padCode d t)).getD 0

/-! ## Running -/

/-- The staging area after a staged descriptor: values without meaning (R222). -/
def scrambleStage (d : Desc) (c : Chip) : Chip :=
  if d.staged then
    let v : W64 := w64 (SMap.get 0 d.samp 0)
    let n := stageSize v
    let bs := (rangeFrom c.free n).map fun k => BitVec.ofNat 8 (Config.freeNat k)
    lmemWrite (stageBase v) bs { c with free := c.free + n }
  else c

/-- Lines of a buffer: N_L (R223). -/
def bufLines : Nat := 2 * Config.xpbKib

/-- Tiles that a transposing copy passes through buffers: N_L source lines of 512 bytes (R223). -/
def tilesOf (w lines elems other : Nat) : Nat := ceilDiv lines bufLines * ceilDiv elems (4096 / w) * other

/-- Elements along a side of the square tiles that an exact transpose exchanges: as many as a buffer takes both ways (R221, R223). -/
def squareSide (w : Nat) : Nat := min bufLines (4096 / w)

/-- Counts a transposing descriptor's tiles: its source lines run along the source's adjacent dimension, and lie beside each other
along the destination's; an exact transpose exchanges square tiles (R221). -/
def countTiles (d : Desc) (c : Chip) : Chip :=
  if d.bufs.isEmpty then c
  else
    let s := (d.ten d.srcTld).t
    let across := (d.ten d.dstTld).t.adjacent
    let along := ((rangeFrom 0 6).find? fun k => d.permOf k == s.adjacent).getD 0
    let rest := (((rangeFrom 0 6).filter fun k => k != across && k != along).map d.count).foldl (· * ·) 1
    let side := squareSide s.w
    countXpb (if overlapOf (dmaIntervals c d).1 (dmaIntervals c d).2 ≠ 0 ∧ dmaExact c d then
        ceilDiv (d.count across) side * ceilDiv (d.count along) side * rest
      else tilesOf s.w (d.count across) (d.count along) rest) c

/-- Counts the bytes that a DMA descriptor has written, once its writes to other cores are acknowledged (Table 8.11). -/
def dmaCount (q : DescRef) (k : Nat) (c : Chip) : Chip :=
  if farWrites c q.ring q.idx then
    updRing q.ring (fun r => { r with descs := r.descs.map fun e => if e.idx = q.idx then { e with uncounted := e.uncounted + k } else e }) c
  else { c with dma.bytes := (c.dma.bytes + k) % 2 ^ 48 }

/-- Writes the gathered destination bytes of a DMA descriptor, counts them and the pad bytes withheld, and finishes it. -/
def dmaStore (q : DescRef) (m : SMap (Nat × Nat)) (lost : Nat) (d : Desc) (c : Chip) : Chip :=
  withOld 5 vcData q d (keptBytes m) (fun d c =>
    let c := scrambleStage d (countTiles d c)
    let c := { c with dma.padSkip := (c.dma.padSkip + lost) % 2 ^ 48 }
    writeOutAnd (dmaCount q m.length) 5 vcData q d (keptBytes m) (overOld (oldByte c d) m) c) c

/-- COPYB (R206): bytes unchanged. -/
def dmaCopyb (q : DescRef) (c : Chip) : Chip :=
  onRunning q 0 1 (fun d c =>
    let n := d.bytes 32 6
    withBytes 5 vcData q d ((rangeFrom 0 n).map (byteAddr (d.bytes 16 8))) (fun d c =>
      let cells := (rangeFrom 0 n).map fun k =>
        (byteAddr (d.bytes 24 8) k, (255, (rdByte c d (byteAddr (d.bytes 16 8) k)).toNat))
      dmaStore q cells 0 d c) c) c

/-- Names of the source bytes of pairs of a destination index and what it receives. -/
def pairNames (d : Desc) (pairs : List (List Nat × Src)) : List Nat :=
  let s := d.ten d.srcTld
  pairs.flatMap fun p => match p.2 with
    | .zero => []
    | .elem ix => elemAddrs s.o s.t ix

/-- The destination bytes that pairs make, with the pads of their units under PADW, and how many pad bytes are withheld. -/
def pairBytes (c : Chip) (d : Desc) (pairs : List (List Nat × Src)) : SMap (Nat × Nat) × Nat :=
  let t := d.ten d.dstTld
  let (pp, lost) := if d.padw then padParts c t (padValue d t.t) (pairs.map Prod.fst) else ([], 0)
  (gatherParts (gatherParts [] pp) ((dmaElemWrites d (rdByte c d) (d.ten d.srcTld) t pairs).flatMap BitWrite.parts), lost)

/-- Stores gathered bytes, of which some pad bytes were withheld (R218). -/
def padStore (q : DescRef) (m : SMap (Nat × Nat) × Nat) (d : Desc) (c : Chip) : Chip := dmaStore q m.1 m.2 d c

/-- Elements of a tensor read by name, then a store of what they become. -/
def dmaMove (q : DescRef) (pairs : List (List Nat × Src)) (d : Desc) (c : Chip) : Chip :=
  withBytes 5 vcData q d (pairNames d pairs) (fun d c => padStore q (pairBytes c d pairs) d c) c

/-- The pairs of COPY and PERMUTE: each element of the window with its source. -/
def copyPairs (d : Desc) : List (List Nat × Src) :=
  let r := (d.ten d.dstTld).t.rank
  (dmaOffsets d r).map fun j => (dmaDst d r j, .elem (dmaSrc d r j))

/-- COPY (R206). -/
def dmaCopy (q : DescRef) (c : Chip) : Chip := onRunning q 0 2 (fun d c => dmaMove q (copyPairs d) d c) c

/-- PERMUTE (R205). -/
def dmaPermute (q : DescRef) (c : Chip) : Chip := onRunning q 0 3 (fun d c => dmaMove q (copyPairs d) d c) c

/-- The index element that selects slice j (R213). -/
def idxValue (d : Desc) (rb : Nat → Byte) (j : Nat) : Int :=
  let x := d.ten d.idxTld
  let v := readRaw rb x.o x.t [d.idxStart + j]
  if x.t.ty = .int32 then sext 32 v else (v : Int)

/-- Names of the index elements a descriptor reads. -/
def idxNames (d : Desc) : List Nat :=
  let x := d.ten d.idxTld
  (rangeFrom 0 (d.count d.gdim)).flatMap fun j => elemAddrs x.o x.t [d.idxStart + j]

/-- An index is inside a dimension. -/
def idxIn (i : Int) (n : Nat) : Bool := decide (0 ≤ i ∧ i < (n : Int))

/-- Some index of a descriptor is outside dimension GDIM, whose size is given. -/
def idxOut (c : Chip) (d : Desc) (n : Nat) : Bool :=
  (rangeFrom 0 (d.count d.gdim)).any fun j => !idxIn (idxValue d (rdByte c d) j) n

/-- Sets PERM_RANGE when some index fell out of range. -/
def notePermRange (bad : Bool) (c : Chip) : Chip :=
  if bad && !c.dma.permRange then emit 0x05 pDMA 1#64 0#64 { c with dma.permRange := true } else c

/-- The pairs of GATHER: an index out of range is clamped, gives zeros or leaves its slice alone, by OOR. -/
def gatherPairs (c : Chip) (d : Desc) : List (List Nat × Src) :=
  let s := d.ten d.srcTld
  let r := s.t.rank
  let g := d.gdim
  (dmaOffsets d r).filterMap fun j =>
    let x := idxValue d (rdByte c d) (nth 0 j g)
    let ix := setNth (clampIdx x (s.t.dim g)) (dmaSrc d r j) g
    if idxIn x (s.t.dim g) ∨ d.oor = 0 then some (dmaDst d r j, .elem ix)
    else if d.oor = 1 then some (dmaDst d r j, .zero)
    else none

/-- GATHER (R214). -/
def dmaGather (q : DescRef) (c : Chip) : Chip :=
  onRunning q 0 4 (fun d c =>
    withBytes 5 vcData q d (idxNames d) (fun d c =>
      dmaMove q (gatherPairs c d) d (notePermRange (idxOut c d ((d.ten d.srcTld).t.dim d.gdim)) c)) c) c

/-- The pairs of SCATTER, as if slices were written in ascending order: the last source of each destination; an index out of
range writes nothing. -/
def scatterPairs (c : Chip) (d : Desc) : List (List Nat × Src) :=
  let t := d.ten d.dstTld
  let r := t.t.rank
  let g := d.gdim
  let put (m : SMap (List Nat × Src)) (j : List Nat) : SMap (List Nat × Src) :=
    let x := idxValue d (rdByte c d) (nth 0 j g)
    if idxIn x (t.t.dim g) then
      let ix := setNth x.toNat (dmaDst d r j) g
      SMap.insert (ix, .elem (dmaSrc d r j)) m (linearIdx t.t.dims ix)
    else m
  ((dmaOffsets d r).foldl put []).map Prod.snd

/-- SCATTER (R215). -/
def dmaScatter (q : DescRef) (c : Chip) : Chip :=
  onRunning q 0 5 (fun d c =>
    withBytes 5 vcData q d (idxNames d) (fun d c =>
      dmaMove q (scatterPairs c d) d (notePermRange (idxOut c d ((d.ten d.dstTld).t.dim d.gdim)) c)) c) c

/-- What FILL writes: elements, or the padded positions of the units that hold elements of the window. -/
def fillParts (c : Chip) (d : Desc) : SMap (Nat × Nat) × Nat :=
  let t := d.ten d.dstTld
  let ixs := (dmaOffsets d t.t.rank).map (dmaDst d t.t.rank)
  let v := padValue d t.t
  if d.fillMode = 0 then
    let ws := if t.t.ty.isMx then mxWrites false t .rne (fun _ => 0) (ixs.map fun ix => (ix, .zero))
      else ixs.flatMap fun ix => elemWrite t.o t.t ix v :: boolTail t ix
    (gatherParts [] (ws.flatMap BitWrite.parts), 0)
  else
    let (pp, lost) := padParts c t v ixs
    (gatherParts [] pp, lost)

/-- FILL (R216). -/
def dmaFill (q : DescRef) (c : Chip) : Chip := onRunning q 0 6 (fun d c => padStore q (fillParts c d) d c) c

/-- The source index of step k of line i of SPLIT64. -/
def splitSrc (d : Desc) (i k : Nat) : List Nat :=
  setNth (d.srcStart (1 - d.axis) + i) (setNth (d.srcStart d.axis + k) [0, 0] d.axis) (1 - d.axis)
/-- The destination index of step k of line i of SPLIT64. -/
def splitDst (d : Desc) (i k : Nat) : List Nat :=
  setNth (d.dstStart (1 - d.axis) + i) (setNth (d.dstStart d.axis + k) [0, 0] d.axis) (1 - d.axis)

/-- Names of the source bytes of SPLIT64. -/
def splitNames (d : Desc) : List Nat :=
  let s := d.ten d.srcTld
  (rangeFrom 0 (d.count (1 - d.axis))).flatMap fun i => (rangeFrom 0 (d.count d.axis)).flatMap fun k =>
    elemAddrs s.o s.t (splitSrc d i k)

/-- What SPLIT64 writes: slices in planes and one exponent for each line (R61 to R64). -/
def splitWrites (c : Chip) (d : Desc) : List BitWrite :=
  let s := d.ten d.srcTld
  let t := (d.ten d.dstTld).t
  let cells := rangeFrom 0 (d.count d.axis)
  (rangeFrom 0 (d.count (1 - d.axis))).flatMap fun i =>
    let (e, sl, bad) := splitRow d.slices (cells.map fun k => readElem (rdByte c d) s.o s.t (splitSrc d i k))
    let line := d.dstStart (1 - d.axis) + i
    (⟨t.base, 8 * (d.slices * t.plane + 2 * line), 16, if bad then 0x8000 else modInt 16 e⟩ : BitWrite) ::
      cells.flatMap fun k => (rangeFrom 0 d.slices).map fun p =>
        (⟨t.base, 8 * (p * t.plane) + t.pos (splitDst d i k), 8, modInt 8 (nth 0 (nth [] sl k) p)⟩ : BitWrite)

/-- SPLIT64 (R209). -/
def dmaSplit (q : DescRef) (c : Chip) : Chip :=
  onRunning q 0 7 (fun d c =>
    withBytes 5 vcData q d (splitNames d) (fun d c =>
      dmaStore q (gatherParts [] ((splitWrites c d).flatMap BitWrite.parts)) 0 d c) c) c

/-- A second buffer is taken when one frees (R224), and waiting descriptors of the three classes try to start again. -/
def dmaSecondBuf (c : Chip) : Chip :=
  (classDescs c 0 (fun d => decide (d.phase = .running) && d.bufs.length == 1)).foldl (fun c p =>
    match dmaBufs c (SMap.get 0 p.2.samp 1).toNat with
    | b :: _ => bufClear [b] (putDesc p.1 { p.2 with bufs := p.2.bufs ++ [b] } c)
    | [] => c) c

/-! ## XPB (R225) -/

def Desc.xBuf (d : Desc) : Nat := bits (d.bytes 19 1) 0 2
def Desc.xSrc (d : Desc) (k : Nat) : Nat := d.bytes (24 + 4 * k) 4
def Desc.xDst (d : Desc) (k : Nat) : Nat := d.bytes (32 + 4 * k) 4
def Desc.xCount (d : Desc) (k : Nat) : Nat := d.bytes (40 + 4 * k) 4

/-- Elements of a source or destination window. -/
def xpbIdx (d : Desc) (src : Bool) : List (List Nat) :=
  if src then windowIdx [(d.xSrc 0, d.xCount 1), (d.xSrc 1, d.xCount 0)]
  else windowIdx [(d.xDst 0, d.xCount 0), (d.xDst 1, d.xCount 1)]

/-- An exact square transpose (R221, R225). -/
def xpbExact (c : Chip) (d : Desc) : Bool :=
  let s := (d.ten d.srcTld).t
  let t := (d.ten d.dstTld).t
  decide (mapAddr c d.rmap s.base = mapAddr c d.wmap t.base ∧ s.tiling = t.tiling ∧ s.strides = t.strides)
    && decide (s.dims = t.dims ∧ t.tiling ≠ 2 ∧ d.xCount 0 = d.xCount 1)
    && decide (d.xSrc 0 = d.xDst 0 ∧ d.xSrc 1 = d.xDst 1)

/-- The XPB class. -/
def xpbClass : EngineClass :=
  { opcOk := fun d => decide (d.opc = 1) && !d.chain && decide (d.engf = 0)
    present := fun _ d => decide (d.xBuf < Config.xpbCount)
    noop := fun d => decide (d.xCount 0 = 0 ∨ d.xCount 1 = 0)
    fields := fun d => decide (bits (d.bytes 19 1) 2 6 = 0 ∧ d.bytes 23 1 = 0 ∧ d.bytes 56 8 = 0 ∧ d.xCount 0 ≤ bufLines)
    tens := fun d => [srcRef d.srcTld, dstRef d.dstTld]
    raws := fun _ _ => []
    shape := fun _ d =>
      let s := (d.ten d.srcTld).t
      let t := (d.ten d.dstTld).t
      decide (s.rank = 2 ∧ t.rank = 2 ∧ s.owner = 0 ∧ t.owner = 0 ∧ s.tyCode = t.tyCode) && !s.ty.isMx
        && (s.w == 8 || s.w == 16 || s.w == 32) && decide (s.ty ≠ .slice8)
        && decide (d.xCount 1 * s.w ≤ 4096)
    ranges := fun _ _ => []
    windows := fun _ d =>
      let s := (d.ten d.srcTld).t
      let t := (d.ten d.dstTld).t
      decide (d.xSrc 0 + d.xCount 1 ≤ s.dim 0 ∧ d.xSrc 1 + d.xCount 0 ≤ s.dim 1)
        && decide (d.xDst 0 + d.xCount 0 ≤ t.dim 0 ∧ d.xDst 1 + d.xCount 1 ≤ t.dim 1)
    own := fun c d =>
      let xs := partIntervals c d.rmap (d.ten d.srcTld) (xpbIdx d true)
      let ys := partIntervals c d.wmap (d.ten d.dstTld) (xpbIdx d false)
      if overlapOf xs ys ≠ 0 ∧ !xpbExact c d then some .copyOverlap else none
    wvsel := fun _ => 0
    units := fun _ _ => [11]
    canStart := fun c _ d => (bufHolder c d.xBuf).isNone
    onStart := fun n d c => bufClear [d.xBuf] (putDesc n { d with bufs := [d.xBuf] } c) }

/-- Steps of a TRANSPOSE window. -/
def xpbSteps (d : Desc) : List (List Nat) := windowIdx [(0, d.xCount 0), (0, d.xCount 1)]
/-- The source index of a step. -/
def xpbSrcIx (d : Desc) (j : List Nat) : List Nat := [d.xSrc 0 + nth 0 j 1, d.xSrc 1 + nth 0 j 0]
/-- The destination index of a step. -/
def xpbDstIx (d : Desc) (j : List Nat) : List Nat := [d.xDst 0 + nth 0 j 0, d.xDst 1 + nth 0 j 1]

/-- Names of the source bytes of a TRANSPOSE. -/
def xpbNames (d : Desc) : List Nat :=
  let s := d.ten d.srcTld
  (xpbSteps d).flatMap fun j => elemAddrs s.o s.t (xpbSrcIx d j)

/-- What a TRANSPOSE writes: dimensions 0 and 1 exchanged, bits unchanged. -/
def xpbWrites (c : Chip) (d : Desc) : List BitWrite :=
  let s := d.ten d.srcTld
  let t := d.ten d.dstTld
  (xpbSteps d).map fun j => elemWrite t.o t.t (xpbDstIx d j) (readRaw (rdByte c d) s.o s.t (xpbSrcIx d j))

/-- The tile of a TRANSPOSE as its buffer stores it: one line for each source line. -/
def xpbTile (c : Chip) (d : Desc) : List (Nat × Nat) :=
  let s := d.ten d.srcTld
  let eb := s.t.w / 8
  (xpbSteps d).flatMap fun j =>
    let v := readRaw (rdByte c d) s.o s.t (xpbSrcIx d j)
    (rangeFrom 0 eb).map fun k => (512 * nth 0 j 0 + eb * nth 0 j 1 + k, bits v (8 * k) 8)

/-- TRANSPOSE (R225). -/
def xpbTranspose (q : DescRef) (c : Chip) : Chip :=
  onRunning q 8 1 (fun d c =>
    withBytes 5 vcData q d (xpbNames d) (fun d c =>
      writeBits 5 vcData q d (xpbWrites c d) (countXpb 1 (bufPut d.xBuf (xpbTile c d) c))) c) c

/-! ## Registers (R226) -/

/-- Reads of the DMA page. -/
def dmaRead (c : Chip) (off : Nat) : W64 :=
  match off with
  | 0x100 => c.dma.cfg
  | 0x108 => c.dma.stage ||| pack [(63, 1, b2n c.dma.stageErr)]
  | 0x110 => pack [(0, 1, b2n c.dma.permRange), (1, 1, b2n (stageBusy c)), (8, 5, dmaRunning c)]
  | 0x118 => pack [(0, 48, c.dma.bytes)]
  | 0x120 => pack [(0, 48, c.dma.padSkip)]
  | _ => 0#64

/-- DMA_STAGE (Table 8.9): refused while busy, or with EN for a region past LMEM; a 1 in CFGERR clears it. -/
def dmaStageWrite (v : W64) (c : Chip) : Chip :=
  let c := if bitAt v 63 then { c with dma.stageErr := false } else c
  let nv := maskWrite (maskOf [(0, 1), (6, 22), (32, 13)]) 0#64 v
  if stageBusy c || (bitAt nv 0 && !inLmem (stageBase nv) (stageSize nv)) then { c with dma.stageErr := true }
  else { c with dma.stage := nv }

/-- Writes of the DMA page. -/
def dmaWrite (off : Nat) (v : W64) (c : Chip) : Chip :=
  match off with
  | 0x100 => { c with dma.cfg := maskWrite (maskOf [(0, 9)]) 0#64 v }
  | 0x108 => dmaStageWrite v c
  | 0x110 => if bitAt v 0 then { c with dma.permRange := false } else c
  | _ => c

/-- Reads of the XPB page. -/
def xpbRead (c : Chip) (off : Nat) : W64 :=
  match off with
  | 0x120 => pack [(0, 48, c.xpb.tiles)]
  | _ =>
    if 0x100 ≤ off ∧ off < 0x120 then
      match bufHolder c ((off - 0x100) / 8) with
      | some (n, cls) => pack [(0, 15, n), (16, 4, cls), (63, 1, 1)]
      | none => 0#64
    else 0#64

end Sys2Proof.Machine
end

