-- ==== Sys2Proof/Machine/Mxa.lean ====
section
/-! DEFINITION. The Cube Quad and its drains: MXA descriptors and their issue checks, the weight sets and the flip, the
streamed products of every array mode, the accumulators, softmax state and epilogue, forwarding to the chains, and the
registers of the MXA, FEED and DRN pages (R227 to R280, R518). -/

namespace Sys2Proof.Machine

/-! ## Payload (Tables 9.3, 9.4 and 10.2) -/

def Desc.mArrays (d : Desc) : Nat := bits (d.bytes 16 1) 0 4
def Desc.mMode (d : Desc) : Nat := bits (d.bytes 16 1) 4 4
def Desc.mSlices (d : Desc) : Nat := bits (d.bytes 17 1) 0 4
def Desc.mXt (d : Desc) : Bool := (d.bytes 17 1).testBit 4
def Desc.mWt (d : Desc) : Bool := (d.bytes 17 1).testBit 5
def Desc.mGran (d : Desc) : Nat := bits (d.bytes 17 1) 6 2
def Desc.mXTld (d : Desc) (s : Nat) : Nat := d.bytes (20 + 4 * s) 3
def Desc.mXBuf (d : Desc) (s : Nat) : Nat := d.bytes (23 + 4 * s) 1
def Desc.mWTld (d : Desc) (s : Nat) : Nat := d.bytes (28 + 4 * s) 3
def Desc.mWBuf (d : Desc) (s : Nat) : Nat := d.bytes (31 + 4 * s) 1
def Desc.mRows (d : Desc) : Nat := d.bytes 36 4
def Desc.mKblk (d : Desc) : Nat := d.bytes 40 4
def Desc.mMask (d : Desc) : Nat := d.bytes 44 3
def Desc.mXRow (d : Desc) (s : Nat) : Nat := d.bytes (64 + 4 * s) 4
def Desc.mNblk (d : Desc) (s : Nat) : Nat := d.bytes (72 + 4 * s) 4
def Desc.mTaps (d : Desc) : Nat := bits (d.bytes 80 1) 0 6
def Desc.mDil (d : Desc) : Nat := bits (d.bytes 81 1) 0 4
def Desc.mOrg (d : Desc) : Int := sext 16 (d.bytes 82 2)
def Desc.zgate (d : Desc) : Bool := d.engf.testBit 0
def Desc.keepW (d : Desc) : Bool := d.engf.testBit 1

def Desc.rAcc (d : Desc) : Nat := bits (d.bytes 128 1) 0 2
def Desc.rFinal (d : Desc) : Bool := (d.bytes 128 1).testBit 2
def Desc.rOut (d : Desc) : Nat := bits (d.bytes 128 1) 3 2
def Desc.rRescale (d : Desc) : Bool := (d.bytes 128 1).testBit 5
def Desc.rSmx (d : Desc) : Bool := (d.bytes 128 1).testBit 6
def Desc.rNorm (d : Desc) : Bool := (d.bytes 128 1).testBit 7
def Desc.rChain (d : Desc) : Nat := bits (d.bytes 129 1) 0 2
def Desc.rAmax (d : Desc) : Bool := (d.bytes 129 1).testBit 2
def Desc.rScaleEn (d : Desc) : Bool := (d.bytes 129 1).testBit 3
def Desc.rFirst (d : Desc) : Bool := (d.bytes 129 1).testBit 4
def Desc.rOscale (d : Desc) : Bool := (d.bytes 129 1).testBit 5
def Desc.rBase (d : Desc) : Nat := d.bytes 130 4
def Desc.rSmxEnt (d : Desc) : Nat := d.bytes 134 4
def Desc.rDst (d : Desc) : Nat := d.bytes 138 3
def Desc.rRnd (d : Desc) : Nat := bits (d.bytes 141 1) 0 3
def Desc.rSat (d : Desc) : Bool := (d.bytes 141 1).testBit 3
def Desc.rCmp (d : Desc) : Nat := bits (d.bytes 141 1) 4 3
def Desc.rSlot (d : Desc) : Nat := d.bytes 142 2
def Desc.rBias (d : Desc) : Nat := d.bytes 144 3
def Desc.rAct (d : Desc) : Nat := bits (d.bytes 147 1) 0 5
def Desc.rDeriv (d : Desc) : Bool := (d.bytes 147 1).testBit 5
def Desc.rAux (d : Desc) : Nat := d.bytes 148 3
def Desc.rScale (d : Desc) : Nat := d.bytes 152 4
def Desc.rParam (d : Desc) : Nat := d.bytes 156 4
def Desc.rTag (d : Desc) : Nat := d.bytes 176 2

/-- The conversion settings of the drain. -/
def Desc.rConv (d : Desc) : Conv :=
  ⟨d.rRnd, d.rSat, d.bytes 160 8, d.bytes 168 2, d.bytes 172 4, d.bytes 170 2⟩

/-- The named arrays. -/
def Desc.arrays (d : Desc) : List Nat := (rangeFrom 0 4).filter fun n => d.mArrays.testBit n
/-- The activation stream of an array (Table 1.3). -/
def xStream (n : Nat) : Nat := n / 2
/-- The weight stream of an array (Table 1.3). -/
def wStream (n : Nat) : Nat := n % 2
def Desc.usesX (d : Desc) (s : Nat) : Bool := d.arrays.any fun n => xStream n == s
def Desc.usesW (d : Desc) (s : Nat) : Bool := d.arrays.any fun n => wStream n == s
def Desc.xs (d : Desc) : List Nat := [0, 1].filter d.usesX
def Desc.ws (d : Desc) : List Nat := [0, 1].filter d.usesW
/-- Buffers that the descriptor names (R243). -/
def Desc.mBufs (d : Desc) : List Nat :=
  (if d.mXt then d.xs.map d.mXBuf else []) ++ (if d.mWt then d.ws.map d.mWBuf else [])

def mMUL : Nat := 0
def mSPLIT3 : Nat := 1
def mSLICE : Nat := 2
def mMIN : Nat := 3
def mMAX : Nat := 4
def mL1 : Nat := 5
def mL2 : Nat := 6
def mHAM : Nat := 7
def mCMP : Nat := 8

/-- Row groups of the descriptor. -/
def Desc.groups (d : Desc) : Nat := ceilDiv d.mRows 4

/-! ## Issue checks (R234, R235, R250, R256, R260, R264, R266, R270) -/

/-- The fields of the streams. -/
def mxaStreamFields (d : Desc) : Bool :=
  let bufs := d.mBufs
  [0, 1].all (fun s =>
      (d.usesX s || (decide (d.mXTld s = 0) && decide (d.mXBuf s = 0)))
        && (d.usesW s || (decide (d.mWTld s = 0) && decide (d.mWBuf s = 0)))
        && (d.mXt || decide (d.mXBuf s = 0)) && (d.mWt || decide (d.mWBuf s = 0))
        && (!d.usesX s || aligned (if d.mGran = 2 then 128 else 4) (d.mXRow s)))
    && decide (bufs.eraseDups.length = bufs.length)

/-- The fields of Tables 9.3 and 9.4. -/
def mxaFields (d : Desc) : Bool :=
  let taps := d.opc == 2
  decide (d.mArrays ≠ 0) && decide (d.mMode ≤ 8)
    && (if d.mMode = mSLICE then decide (7 ≤ d.mSlices ∧ d.mSlices ≤ 9) else decide (d.mSlices = 0))
    && decide (d.mGran ≠ 3) && (decide (d.mGran ≠ 0) || decide (d.mMask = 0))
    && (decide (d.bytes 18 1 = 0) || decide (128 ≤ d.bytes 18 1))
    && decide (d.bytes 19 1 = 0 ∧ d.bytes 47 17 = 0 ∧ d.bytes 84 44 = 0)
    && decide (bits (d.bytes 80 1) 6 2 = 0 ∧ bits (d.bytes 81 1) 4 4 = 0)
    && (!(d.mXt || d.mWt) || (!taps && decide (d.mMode ≠ mSPLIT3) && decide (d.mMode ≠ mSLICE)))
    && (!d.keepW || (decide (d.mMode ≠ mSPLIT3) && decide (d.mMode ≠ mSLICE)))
    && mxaStreamFields d
    && (if taps then
          decide (1 ≤ d.mTaps ∧ d.mTaps ≤ 32) && decide (1 ≤ d.mDil ∧ d.mDil ≤ 8)
            && decide ((d.mTaps - 1) * d.mDil ≤ 32) && decide (d.mMode = mMUL)
        else decide (d.bytes 80 4 = 0))

/-- Fields of the epilogue that are zero when no stage of it runs. -/
def drnIdle (d : Desc) : Bool :=
  !d.rAmax && !d.rOscale && !d.rScaleEn && !d.rNorm && !d.rSmx && !d.rFirst && !d.rDeriv
    && decide (d.rBias = 0 ∧ d.rAct = 0 ∧ d.rParam = 0 ∧ d.rSlot = 0)

/-- The fields of Table 10.2 (R260). -/
def drnFields (d : Desc) : Bool :=
  let keeps := d.rAcc == 0 || d.rAcc == 1
  let plain := d.mMode == mMUL || d.mMode == mSPLIT3
  let named := d.arrays
  decide (d.rAcc ≤ 2 ∧ d.rOut ≤ 2 ∧ d.rRnd ≤ 4 ∧ d.rCmp ≤ 3 ∧ d.rAct ≤ 0x0B)
    && (decide (d.rOut = 0) == (keeps && !d.rFinal)) && (d.rAcc != 2 || !d.rFinal)
    && (keeps || (decide (d.mMode ≠ mSLICE) && decide (d.mMode ≠ mSPLIT3)))
    && (d.rOut != 0 || drnIdle d)
    && (!d.rSmx || (decide (d.mMode = mMUL) && d.rAcc == 2
          && [0, 1].all fun s => decide ((named.filter fun n => xStream n == s).length ≤ 1)))
    && (!d.rRescale || (decide (d.mMode = mMUL) && d.rAcc == 1))
    && (!d.rNorm || (decide (d.mMode = mMUL) && d.rFinal))
    && (!d.rFirst || d.rSmx)
    && (plain || (!d.rScaleEn && !d.rDeriv && !d.rSmx && !d.rRescale && !d.rNorm
          && decide (d.rBias = 0 ∧ d.rAct = 0)))
    && (d.mMode != mSLICE || (d.rOut == 1 && decide (d.rRnd = 0)))
    && (d.rOut == 1 || (decide (d.rDst = 0 ∧ d.rRnd = 0) && !d.rSat))
    && (d.rOut == 2 || (decide (d.rChain = 0 ∧ d.rTag = 0)))
    && (d.rRnd == 4 || decide (d.bytes 160 16 = 0))
    && (d.mMode == mCMP || decide (d.rCmp = 0))
    && (d.rAmax || d.rOscale || decide (d.rSlot = 0)) && decide (d.rSlot < sctSlots)
    && (d.rDeriv || decide (d.rAux = 0)) && (d.rScaleEn || decide (d.rScale = 0))
    && (actHasParam d.rAct || decide (d.rParam = 0))
    && (keeps || decide (d.rBase = 0)) && (d.rSmx || d.rRescale || d.rNorm || decide (d.rSmxEnt = 0))
    && decide (bits (d.bytes 129 1) 6 2 = 0 ∧ bits (d.bytes 141 1) 7 1 = 0 ∧ bits (d.bytes 147 1) 6 2 = 0)
    && decide (d.bytes 151 1 = 0 ∧ d.bytes 178 14 = 0)

/-- Extent of a sliced operand: its lines are its rows or its columns. -/
def mxaSliceExt (d : Desc) (line : Nat) (t : Tld) : Nat :=
  if t.ty = .slice8 then t.sliceExtent d.mSlices (t.dim line) else t.extent

/-- The tensors of a descriptor. -/
def mxaTens (d : Desc) : List TenRef :=
  d.xs.map (fun s => ⟨d.mXTld s, false, mxaSliceExt d 1⟩) ++ d.ws.map (fun s => ⟨d.mWTld s, false, mxaSliceExt d 0⟩)
    ++ (if d.mGran = 0 then [] else [srcRef d.mMask]) ++ (if d.rOut = 1 then [dstRef d.rDst] else [])
    ++ (if d.rBias = 0 then [] else [srcRef d.rBias]) ++ (if d.rDeriv then [srcRef d.rAux] else [])

def Desc.xTen (d : Desc) (n : Nat) : Ten := d.ten (d.mXTld (xStream n))
def Desc.wTen (d : Desc) (n : Nat) : Ten := d.ten (d.mWTld (wStream n))

/-- The dimension along which an operand is reduced. -/
def Desc.xRed (d : Desc) : Nat := if d.mXt then 1 else 0
def Desc.wRed (d : Desc) : Nat := if d.mWt then 0 else 1

/-- Types of an array mode of Table 10.7. -/
def modeTy (mode : Nat) (t : Ty) : Bool :=
  if mode = mMIN ∨ mode = mMAX then t == .bf16 || t == .fp16 || t == .int16
  else if mode = mL2 then t == .bf16 || t == .fp16
  else if mode = mHAM then t == .uint8 || t == .int8
  else t == .e4m3 || t == .e5m2 || t == .int8 || t == .uint8

/-- The operand types of an array fit the mode (R55, R274). -/
def opTypes (mode : Nat) (a b : Ty) : Bool :=
  if mode = mMUL then (match groupOf a b with
    | some .f32 => false
    | some _ => true
    | none => false)
  else if mode = mSPLIT3 then groupOf a b == some .f32
  else if mode = mSLICE then decide (a = .slice8 ∧ b = .slice8)
  else decide (a = b) && modeTy mode a

/-- Rules on the tensors (R234, R250, R260, R270, Table 9.5). -/
def mxaShape (c : Chip) (d : Desc) : Bool :=
  let taps := d.opc == 2
  let refs := mxaTens d
  refs.all (fun r => (d.ten r.off).localHere c)
    && d.xs.all (fun s =>
        let t := (d.ten (d.mXTld s)).t
        decide (t.rank = 2) && (if d.mXt then decide (t.tiling ≤ 2) else decide (t.tiling = 2))
          && !(d.mXt && t.ty.isMx) && !(taps && t.ty.isMx))
    && d.ws.all (fun s =>
        let t := (d.ten (d.mWTld s)).t
        decide (t.rank = if taps then 3 else 2) && (decide (t.tiling ≤ 1) || (d.mWt && decide (t.tiling = 4)))
          && !(!d.mWt && t.ty.isMx))
    && d.arrays.all (fun n =>
        opTypes d.mMode (d.xTen n).t.ty (d.wTen n).t.ty
          && decide ((d.xTen n).t.dim d.xRed = (d.wTen n).t.dim d.wRed))
    && (d.mGran == 0 ||
        (let t := (d.ten d.mMask).t
         decide (t.rank = 1 ∧ t.tiling = 0) && decide (t.ty = .bool1)))
    && (d.rOut != 1 ||
        (let t := (d.ten d.rDst).t
         decide (t.rank = 2) && (if d.mMode = mSLICE then decide (t.ty = .fp64) else t.ty.drnOut)))
    && (d.rBias == 0 ||
        (let t := (d.ten d.rBias).t
         decide (t.rank = 1 ∧ t.tiling = 0) && (t.ty == .fp32 || t.ty == .bf16 || t.ty == .fp16)))
    && (!d.rDeriv ||
        (let t := (d.ten d.rAux).t
         decide (t.rank = 2)
           && (t.ty == .fp32 || t.ty == .bf16 || t.ty == .fp16 || t.ty == .e4m3 || t.ty == .e5m2)))

/-- Every named array pairs MXFP4 with MXFP4 in an ordinary product: the 4-bit group. A descriptor that has arrays of both 8-bit and
4-bit pairs over its streams runs all of them with K blocks of 128. DESIGN CHOICE (log 107). -/
def mxaFour (d : Desc) : Bool :=
  d.mMode == mMUL && d.arrays.all fun n => groupOf (d.xTen n).t.ty (d.wTen n).t.ty == some .f4

/-- Channels that a tap holds in cube-rows: G of R249. -/
def Desc.tapRows (d : Desc) : Nat := 32 / d.mTaps

/-- Ku of R235. -/
def mxaKu (d : Desc) : Nat := if d.opc = 2 then 4 * d.tapRows else if mxaFour d then 256 else 128

/-- Streamed rows of the activation: the dimension that they run along. -/
def xRows (d : Desc) (n : Nat) : Nat := (d.xTen n).t.dim (1 - d.xRed)
/-- Output length of an array's weights. -/
def wCols (d : Desc) (n : Nat) : Nat := (d.wTen n).t.dim (if d.opc = 2 then 0 else 1 - d.wRed)
/-- Output columns of an array's N block that lie below the output length. -/
def nCols (d : Desc) (n : Nat) : Nat := min 128 (wCols d n - 128 * d.mNblk (wStream n))

/-- Accumulator entries of an array under the descriptor's form (Table 10.1). -/
def accEntries (d : Desc) : Nat := if d.mMode = mSLICE then 104857 else 524288

/-- Step 7. -/
def mxaWindows (_ : Chip) (d : Desc) : Bool :=
  let rows := d.mRows
  let u := if d.mGran = 1 then 4 else 128
  d.arrays.all (fun n =>
      let x0 := d.mXRow (xStream n)
      let c0 := 128 * d.mNblk (wStream n)
      let fits (t : Tld) : Bool := decide (x0 + rows ≤ t.dim 1) && decide (c0 + nCols d n ≤ t.dim 0)
      decide (x0 + rows ≤ xRows d n)
        && decide (d.mKblk * mxaKu d < (d.xTen n).t.dim d.xRed) && decide (c0 < wCols d n)
        && (d.opc != 2 || decide (0 < (d.wTen n).t.dim 2))
        && (d.mGran == 0 || decide ((x0 + rows - 1) / u < (d.ten d.mMask).t.dim 0))
        && (d.rOut != 1 || fits (d.ten d.rDst).t) && (!d.rDeriv || fits (d.ten d.rAux).t)
        && (d.rBias == 0 || decide (c0 + nCols d n ≤ (d.ten d.rBias).t.dim 0)))
    && (d.rAcc == 2 || decide (d.rBase + 512 * d.groups ≤ accEntries d))
    && (!(d.rSmx || d.rRescale || d.rNorm) || decide (d.rSmxEnt + 16 * d.groups ≤ 524288))

/-- Step 8: softmax state and accumulator region overlap (R260). -/
def mxaOwn (_ : Chip) (d : Desc) : Option Cause :=
  let g := d.groups
  if (d.rSmx || d.rRescale || d.rNorm) ∧ d.rAcc ≠ 2 ∧ d.rSmxEnt < d.rBase + 512 * g ∧ d.rBase < d.rSmxEnt + 16 * g
  then some .descMalformed else none

/-! ## Starting (R236, R27, R466) -/

/-- Descriptors that are on an array at a stage: 1 loading or loaded, 2 streaming. -/
def onArray (c : Chip) (n stage : Nat) : List (Nat × Desc) :=
  classDescs c 1 fun d => d.arrs.contains (n, stage)

/-- The shadow set of an array is free: nobody loads it, and nobody that streams uses both sets. -/
def shadowFree (c : Chip) (n : Nat) : Bool :=
  (onArray c n 1).isEmpty && (onArray c n 2).all fun p => decide (p.2.mMode ≠ mSPLIT3) && decide (p.2.mMode ≠ mSLICE)

/-- The forward paths of a descriptor: array and chain (R271). -/
def Desc.paths (d : Desc) : List (Nat × Nat) :=
  if d.rOut = 2 then d.arrays.map fun n =>
    (n, (d.rChain + (d.arrays.filter fun k => decide (k < n)).length) % Config.chains)
  else []

/-- Forward paths that are taken. -/
def pathsHeld (c : Chip) : List (Nat × Nat) := (classDescs c 1 Desc.started).flatMap fun p => p.2.paths

/-- A path may be taken beside those that are (R27). -/
def pathFree (held : List (Nat × Nat)) (p : Nat × Nat) : Bool :=
  held.all fun h => if h.1 = p.1 then h.2 == p.2 else h.2 != p.2

def mxaCanStart (c : Chip) (_ : Nat) (d : Desc) : Bool :=
  d.arrays.all (shadowFree c) && d.mBufs.all (fun b => (bufHolder c b).isNone)
    && d.paths.all (pathFree (pathsHeld c))

/-- The drogue units of the named arrays; a zero-gated descriptor asks for the first half of the step. -/
def mxaUnits (c : Chip) (d : Desc) : List Nat :=
  d.arrays.map fun n => if d.zgate && c.mxa.zgEn then 17 + n else 1 + n

/-- The bits of a mask that stand for the units of the descriptor's rows, bit k for unit k (R247). -/
def readMask (c : Chip) (d : Desc) (off n : Nat) : Nat :=
  let x := d.ten off
  ((rangeFrom 0 n).map fun k => readRaw (rdByte c d) x.o x.t [k] <<< k).foldl (· + ·) 0

/-- Units of the mask up to the last streamed row. -/
def maskUnits (d : Desc) : Nat :=
  let u := if d.mGran = 1 then 4 else 128
  (d.xs.map fun s => (d.mXRow s + d.mRows - 1) / u + 1).foldl max 0

/-- Element addresses of the first `n` bits of a mask. -/
def maskNames (d : Desc) (off n : Nat) : List Nat :=
  let x := d.ten off
  addrSet ((rangeFrom 0 n).flatMap fun k => elemAddrs x.o x.t [k])

/-- Index of a weight element: output column, reduction position, tap. -/
def wIdx (d : Desc) (col k t : Nat) : List Nat :=
  if d.opc = 2 then [col, k, t] else if d.mWt then [k, col] else [col, k]

/-- A reduction position of a K block: cell row, part of the cell (0 whole, 1 low nibble, 2 high nibble), scale block,
reduction index or channel, and tap. -/
structure Pos where
  cell : Nat
  part : Nat
  q : Nat
  k : Nat
  tap : Nat
deriving DecidableEq, Repr

/-- The positions of the descriptor's K block that lie within the reduction of an array (R230, R249). -/
def redPos (d : Desc) (n : Nat) : List Pos :=
  let len := (d.xTen n).t.dim d.xRed
  let k0 := d.mKblk * mxaKu d
  if d.opc = 2 then
    let g := d.tapRows
    ((rangeFrom 0 d.mTaps).flatMap fun t => (rangeFrom 0 (4 * g)).map fun j =>
      (⟨4 * (t * g) + j, 0, 0, k0 + j, t⟩ : Pos)).filter fun p => decide (p.k < len) && decide (p.tap < (d.wTen n).t.dim 2)
  else if mxaFour d then
    ((rangeFrom 0 256).map fun p => (⟨p / 2, 1 + p % 2, p / 32, k0 + p, 0⟩ : Pos)).filter fun p => decide (p.k < len)
  else ((rangeFrom 0 128).map fun p => (⟨p, 0, p / 32, k0 + p, 0⟩ : Pos)).filter fun p => decide (p.k < len)

/-- Weight elements of an array's block: columns within the N block and positions. -/
def wNames (d : Desc) (n : Nat) : List Nat :=
  let w := d.wTen n
  let c0 := 128 * d.mNblk (wStream n)
  addrSet ((redPos d n).flatMap fun p => (rangeFrom 0 (nCols d n)).flatMap fun j =>
    elemAddrs w.o w.t (wIdx d (c0 + j) p.k p.tap))

/-- The raw bits of plane `i` of a sliced element, planes counted from 0. -/
def sliceRaw (rb : Nat → Byte) (t : Tld) (i : Nat) (ix : List Nat) : Nat :=
  readBits rb t.base (8 * (i * t.plane) + t.pos ix) 8

/-- The exponent of a line of a sliced tensor of `s` planes (R64). -/
def sliceExp (rb : Nat → Byte) (t : Tld) (s line : Nat) : Nat := readBits rb t.base (8 * (s * t.plane + 2 * line)) 16

/-- What a load puts into a cell (Table 3.3). -/
inductive Load where
  | plain
  | hi
  | lo
  | plane (i : Nat)
deriving DecidableEq, Repr

/-- The value of a weight element as its cell holds it. -/
def loadRaw (rb : Nat → Byte) (w : Ten) (l : Load) (ix : List Nat) : Nat :=
  match l with
  | .plain => readRaw rb w.o w.t ix
  | .hi => bf16.encode .rne false 0 (splitHi (readElem rb w.o w.t ix))
  | .lo => bf16.encode .rne false 0 (splitLo (readElem rb w.o w.t ix))
  | .plane i => sliceRaw rb w.t i ix

/-- Bytes in rising order as memory. -/
def memOf (cells : List (Nat × Byte)) : Mem := cells.filter fun p => p.2 != Mem.unlisted

/-- The cells of an array's block. -/
def loadCells (rb : Nat → Byte) (d : Desc) (n : Nat) (l : Load) : List (Nat × Byte) :=
  let w := d.wTen n
  let c0 := 128 * d.mNblk (wStream n)
  let ps := redPos d n
  (rangeFrom 0 128).flatMap fun k =>
    let here := ps.filter fun p => p.cell == k
    if here.isEmpty then []
    else (rangeFrom 0 (nCols d n)).flatMap fun j =>
      let v := (here.map fun p =>
        loadRaw rb w l (wIdx d (c0 + j) p.k p.tap) <<< (if p.part = 2 then 4 else 0)).foldl (· + ·) 0
      [(256 * k + 2 * j, BitVec.ofNat 8 v), (256 * k + 2 * j + 1, BitVec.ofNat 8 (v / 256))]

/-- Rows of cells that a block fills. -/
def loadRows (d : Desc) (n : Nat) : Nat := ((redPos d n).map fun p => p.cell + 1).foldl max 0

/-- A weight set after a load: the block's cells, and for an MX operand its scales; scales past the block's columns or its
reduction are free values, those of other operands stay. -/
def loadSet (rb : Nat → Byte) (d : Desc) (n : Nat) (l : Load) (free : Nat) (old : WSet) : WSet :=
  let w := d.wTen n
  let c0 := 128 * d.mNblk (wStream n)
  let ps := redPos d n
  let used := if mxaFour d then 8 else 4
  let scale (i : Nat) : Byte :=
    let j := i / 8
    let q := i % 8
    if !w.t.ty.isMx || used ≤ q then Mem.get old.bytes (0x8000 + i)
    else
      match ps.find? fun p => p.q == q with
      | some p =>
        if j < nCols d n then
          let (b, jx) := resolveElem w.o w.t (wIdx d (c0 + j) p.k p.tap)
          rb (byteAddr b.base (b.scalePos jx))
        else BitVec.ofNat 8 (Config.freeNat (free + 0x8000 + i))
      | none => BitVec.ofNat 8 (Config.freeNat (free + 0x8000 + i))
  { bytes := memOf (loadCells rb d n l ++ (rangeFrom 0 1024).map fun i => (0x8000 + i, scale i))
    kmax := loadRows d n, nmax := nCols d n, free := free }

/-- Free values that one load may take. -/
def loadFree : Nat := 0x8400

/-- Loads the shadow set of an array at the start of a descriptor (R238, R242). -/
def loadShadow (d : Desc) (n : Nat) (l : Load) (c : Chip) : Chip :=
  let f := c.free
  let c := noteWeights n c
  let c := updArr n (fun a => { a with shd := loadSet (rdByte c d) d n l f a.shd }) c
  { c with free := f + loadFree }

/-- Loads both sets of an array for SPLIT3: hi into the active set and lo into the shadow set (R241). -/
def loadSplit (d : Desc) (n : Nat) (c : Chip) : Chip :=
  let f := c.free
  let c := noteWeights n c
  let c := updArr n (fun a =>
    { a with act := loadSet (rdByte c d) d n .hi f a.act, shd := loadSet (rdByte c d) d n .lo (f + loadFree) a.shd }) c
  { c with free := f + 2 * loadFree }

/-! ## Transposed operands (R223, R243) -/

/-- Bytes of an element in a buffer: 4-bit elements travel in pairs, and 6-bit ones are widened. -/
def bufBytes (t : Ty) : Nat := max 1 (t.bits / 8)

/-- A source line in the dealt form: byte places of the buffer and what they hold. -/
def dealLine (eb x : Nat) (vs : List (Nat × Nat)) : List (Nat × Nat) :=
  let D := 4 / eb
  vs.flatMap fun p => (rangeFrom 0 eb).map fun k => (512 * (x + 128 * (p.1 % D)) + p.1 / D * eb + k, bits p.2 (8 * k) 8)

/-- The tile of a transposed weight load: source line x is output column x of the N block. An MXFP4 weight travels in bytes of two
consecutive reduction elements, in both groups (R243). -/
def wTile (rb : Nat → Byte) (d : Desc) (n : Nat) : List (Nat × Nat) :=
  let w := d.wTen n
  let c0 := 128 * d.mNblk (wStream n)
  let k0 := d.mKblk * mxaKu d
  let len := (d.xTen n).t.dim d.xRed
  let at_ (j k : Nat) : Nat := if k0 + k < len then readRaw rb w.o w.t [k0 + k, c0 + j] else 0
  let pairs := w.t.ty == .mx4e2m1
  let es := (rangeFrom 0 (if pairs && !mxaFour d then 64 else 128)).filter fun e => decide (k0 + (if pairs then 2 * e else e) < len)
  (rangeFrom 0 (nCols d n)).flatMap fun j =>
    dealLine (bufBytes w.t.ty) j (es.map fun e => (e, if pairs then at_ j (2 * e) + 16 * at_ j (2 * e + 1) else at_ j e))

/-- Streamed rows of one tile: a source line has at most 512 bytes. -/
def tileRows (d : Desc) (n : Nat) : Nat := 512 / bufBytes (d.xTen n).t.ty

/-- Tiles of a transposed activation. -/
def xTiles (d : Desc) (n : Nat) : Nat := ceilDiv d.mRows (tileRows d n)

/-- The last tile of a transposed activation: source line x is reduction index x of the K block and holds the streamed rows that
take part. -/
def xTile (rb : Nat → Byte) (d : Desc) (n : Nat) (live : List Nat) : List (Nat × Nat) :=
  let x := d.xTen n
  let k0 := d.mKblk * mxaKu d
  let first := (xTiles d n - 1) * tileRows d n
  let ms := live.filter fun m => decide (first ≤ m)
  ((rangeFrom 0 128).filter fun k => decide (k0 + k < x.t.dim d.xRed)).flatMap fun k =>
    dealLine (bufBytes x.t.ty) k (ms.map fun m => (m - first, readRaw rb x.o x.t [d.mXRow (xStream n) + m, k0 + k]))

/-- The tiles of the transposed weight loads of a descriptor. -/
def loadTiles (d : Desc) (c : Chip) : Chip :=
  if d.mWt then
    (d.ws.filterMap fun s => d.arrays.find? fun n => wStream n == s).foldl (fun c n =>
      countXpb 1 (bufPut (d.mWBuf (wStream n)) (wTile (rdByte c d) d n) c)) c
  else c

/-- A starting descriptor loads shadow sets: neither KEEPW nor SPLIT3 (R238, R241). -/
def Desc.mLoads (d : Desc) : Bool := !d.keepW && decide (d.mMode ≠ mSPLIT3)

/-- A descriptor that has come to an array has still to load its block there: the shadow set, or for SPLIT3 both sets, for which the
array must be free (R238, R241). -/
def stillLoads (c : Chip) (n : Nat) (d : Desc) : Bool :=
  !d.keepW && (if d.mMode = mSPLIT3 then (onArray c n 2).isEmpty else !d.sampled)

/-- An array loads a block for the next descriptor. -/
def arrayLoads (c : Chip) (n : Nat) : Bool := (onArray c n 1).any fun p => stillLoads c n p.2

/-- The descriptor that an array streams: one that has flipped to it, or a KEEPW descriptor with nobody before it (R240). -/
def arrayRuns (c : Chip) (n : Nat) : List (Nat × Desc) :=
  match onArray c n 2 with
  | [] => (onArray c n 1).filter fun p => p.2.keepW && p.2.sampled
  | ds => ds

/-- A descriptor needs a weight stream now: it has still to load, or loads at this moment, or its passes load planes (R238, R242). -/
def needsW (c : Chip) (d : Desc) : Bool :=
  !d.keepW && (!d.sampled || SMap.get 0 d.samp 3 == ((now c + 1 : Nat) : Int) || (d.mMode == mSLICE && d.arrs.any fun a => a.2 == 2))

/-- A descriptor needs a stream now. -/
def needsStream (c : Chip) (s : Nat) (d : Desc) : Bool :=
  if s < 2 then d.arrays.any fun n => xStream n == s && (arrayRuns c n).any fun p => p.2 == d
  else d.usesW (s - 2) && needsW c d

/-- A stream alternates between two descriptors that need it at the same time (R25, R232). -/
def alternates (c : Chip) (s : Nat) : Bool :=
  2 ≤ (classDescs c 1 fun e => e.opc != 0 && e.phase == .running && needsStream c s e).length

/-- Streams that alternate have their cycles counted (Table 9.16). -/
def countAlts (c : Chip) : Chip :=
  ((rangeFrom 0 4).filter (alternates c)).foldl (fun c s =>
    let (x, c) := growCount (SMap.get 0 c.mxa.alts s) c
    { c with mxa.alts := SMap.set 0 c.mxa.alts s x }) c

/-- An array whose last step has entered stalls until the block of the next descriptor is loaded (R239). -/
def noteStall (n : Nat) (c : Chip) : Chip :=
  let before := (onArray c n 2).isEmpty && !(onArray c n 3).isEmpty
  updArr n (fun a => { a with stalled := before && arrayLoads c n }) c

/-- A load ends: an array that stalled for it has counted its cycles. -/
def endStall (n : Nat) (c : Chip) : Chip :=
  if (arrOf c n).stalled then
    let (x, c) := growCount (arrOf c n).lstall c
    updArr n (fun a => { a with stalled := false, lstall := x }) c
  else c

/-- A descriptor loads at this moment: its weight streams may alternate, and the stalls for it end. -/
def markLoad (n idx : Nat) (c : Chip) : Chip :=
  match (ringOf c n).find idx with
  | some d => d.arrays.foldl (fun c a => endStall a c)
      (countAlts (putDesc n { d with samp := SMap.insert ((now c + 1 : Nat) : Int) d.samp 3 } c))
  | none => c

/-- A starting descriptor reads its mask and loads the shadow set of each array that it names (R238, R247). -/
def mxaSample (n idx : Nat) (c : Chip) : Chip :=
  let names (d : Desc) : List Nat :=
    (if d.mGran = 0 then [] else maskNames d d.mMask (maskUnits d)) ++ (if d.mLoads then d.arrays.flatMap (wNames d) else [])
  sampleAt 0 vcData n idx names (fun d c =>
    let d := { d with mask := if d.mGran = 0 then 0 else readMask c d d.mMask (maskUnits d) }
    let c := putDesc n d c
    if d.mLoads then
      markLoad n d.idx (loadTiles d (d.arrays.foldl (fun c a => loadShadow d a (if d.mMode = mSLICE then .plane 0 else .plain) c) c))
    else c) c

/-- The start of a descriptor (R236): it takes its buffers and waits at its arrays; an array whose earlier descriptor's last step
has entered stalls until the load is over (R239). -/
def mxaOnStart (n : Nat) (d : Desc) (c : Chip) : Chip :=
  let d := { d with
    bufs := d.mBufs
    arrs := d.arrays.map fun a => (a, 1)
    samp := (if d.rOscale then [(1, (slotOf c d.rSlot).exp)] else []) ++ [(2, if c.mxa.zgEn then 1 else 0)] }
  mxaSample n d.idx (d.arrays.foldl (fun c a => noteStall a c) (bufClear d.mBufs (putDesc n d c)))

/-- The MXA class. -/
def mxaClass : EngineClass :=
  { opcOk := fun d => decide (d.opc = 1 ∨ d.opc = 2) && d.chain && decide (d.engf < 4)
    present := fun c d => d.arrays.all (arrayPresent c) && d.mBufs.all fun b => decide (b % 4 < Config.xpbCount)
    noop := fun d => decide (d.mRows = 0)
    fields := fun d => mxaFields d && drnFields d && d.mBufs.all fun b => decide (b < 4)
    tens := mxaTens
    raws := fun _ _ => []
    shape := mxaShape
    ranges := fun _ _ => []
    windows := mxaWindows
    own := mxaOwn
    wvsel := fun d => d.bytes 18 1
    units := mxaUnits
    canStart := mxaCanStart
    onStart := mxaOnStart }

/-! ## The flip (R239, R241) -/

/-- Puts an array of a descriptor to a stage. -/
def Desc.setStage (d : Desc) (a stage : Nat) : Desc :=
  { d with arrs := d.arrs.map fun p => if p.1 = a then (a, stage) else p }

/-- The first step of a descriptor can enter: on every array that it names the last step of the earlier descriptor has (R232, R239). -/
def mayEnter (c : Chip) (d : Desc) : Bool := d.arrays.all fun n => (onArray c n 2).isEmpty

/-- A descriptor streams on every array that it names. -/
def Desc.flipped (d : Desc) : Desc := d.arrays.foldl (fun d a => d.setStage a 2) d

/-- The sets of an array change places. -/
def swapSets (a : Nat) (c : Chip) : Chip := updArr a (fun s => { s with act := s.shd, shd := s.act }) (noteWeights a c)

/-- ARRAY_FLIP: the earlier descriptors' last steps have entered and the shadow sets are full; the first step of the next descriptor
enters, and on every array that it names, which advance in lock step (R232), the sets change places. A SPLIT3 descriptor loads both
sets now. -/
def arrayFlip (a : Nat) (c : Chip) : Chip :=
  match onArray c a 1 with
  | [] => c
  | (n, d) :: _ =>
    if !d.sampled then mxaSample n d.idx c
    else if d.keepW ∨ !mayEnter c d then c
    else if d.mMode = mSPLIT3 then
      withBytes 0 vcData ⟨n, d.idx⟩ d (d.arrays.flatMap (wNames d)) (fun d c =>
        markLoad n d.idx (d.arrays.foldl (fun c a => loadSplit d a c) (putDesc n d.flipped c))) c
    else d.arrays.foldl (fun c a => swapSets a c) (putDesc n d.flipped c)

/-! ## One step's arithmetic -/

/-- What a tree presents for one output. -/
inductive Tree where
  | fp (v : XNum)
  | int (v : Int)
deriving DecidableEq, Repr

/-- Products of operands of a type pair give integers (Table 10.1). -/
def intEntry (mode : Nat) (t : Ty) : Bool :=
  match t.asInt with
  | some _ => decide (mode ≠ mSLICE)
  | none => mode == mCMP

/-- An integer element. -/
def intVal (t : Ty) (x : Nat) : Int :=
  match t.asInt with
  | some (true, w) => sext w x
  | some (false, w) => ((x % 2 ^ w : Nat) : Int)
  | none => 0

/-- Set bits of a byte. -/
def popcount8 (x : Nat) : Nat := ((rangeFrom 0 8).filter fun i => x.testBit i).length

/-- The comparison of CMPCOUNT (R275). -/
def cmpHolds (cmp : Nat) (a w : XNum) : Bool :=
  match cmp with
  | 0 => XNum.le w a
  | 1 => XNum.lt w a
  | 2 => XNum.eq a w
  | _ => !XNum.eq a w

/-- One element pair in a mode with integer entries. -/
def elemInt (mode cmp : Nat) (t : Ty) (a w : Nat) : Int :=
  if mode = mHAM then (popcount8 (a ^^^ w) : Int)
  else if mode = mCMP then (if cmpHolds cmp (t.decode a) (t.decode w) then 1 else 0)
  else
    let x := intVal t a
    let y := intVal t w
    if mode = mMUL then x * y else if mode = mL1 then ((x - y).natAbs : Int) else x + y

/-- One element pair in a mode with float entries, exact. -/
def elemFp (mode : Nat) (a w : XNum) : XNum :=
  if mode = mMIN ∨ mode = mMAX then a.add w
  else if mode = mL1 then (a.sub w).abs
  else if mode = mL2 then (a.sub w).mul (a.sub w)
  else a.mul w

/-- The tree's result in a float mode (R229, R275). -/
def treeFp (mode : Nat) (xs : List XNum) : XNum :=
  if mode = mMIN then fp32.rnd (xs.foldl XNum.min (.inf false))
  else if mode = mMAX then fp32.rnd (xs.foldl XNum.max (.inf true))
  else treeSum xs

/-- The tree's result in an integer mode. -/
def treeInt (mode : Nat) (xs : List Int) : Int :=
  if mode = mMIN then xs.foldl min (2 ^ 31 - 1)
  else if mode = mMAX then xs.foldl max (-2 ^ 31)
  else xs.foldl (· + ·) 0

/-- A 16-bit cell of a weight set. -/
def WSet.cell (w : WSet) (k j : Nat) : Nat := leNat [w.byte (256 * k + 2 * j), w.byte (256 * k + 2 * j + 1)]

/-- The raw weight at a position. -/
def WSet.raw (w : WSet) (p : Pos) (j : Nat) : Nat :=
  let v := w.cell p.cell j
  match p.part with
  | 1 => v % 16
  | 2 => v / 16 % 16
  | _ => v

/-- The weight at a position as the operand type of the descriptor. -/
def WSet.value (w : WSet) (t : Ty) (p : Pos) (j : Nat) : XNum :=
  if t.isMx then mxValue t (w.byte (0x8000 + 8 * j + p.q)).toNat (w.raw p j) else t.decode (w.raw p j)

/-- Index of the activation element of row `r` of the tensor at a position (R249, R90). -/
def xIdx (d : Desc) (n r : Nat) (p : Pos) : List Nat :=
  if d.opc = 2 then [p.k, clampIdx ((r : Int) + d.mOrg + (p.tap * d.mDil : Nat)) ((d.xTen n).t.dim 1)]
  else if d.mXt then [r, p.k] else [p.k, r]

/-- The terms of one output in an ordinary or array mode: one tree output, three for SPLIT3 (R241). -/
def stepTerms (c : Chip) (d : Desc) (n r j : Nat) : List Tree :=
  let x := d.xTen n
  let rb := rdByte c d
  let a := arrOf c n
  let ps := redPos d n
  let ty := x.t.ty
  let wt := (d.wTen n).t.ty
  let av (p : Pos) : XNum := readElem rb x.o x.t (xIdx d n r p)
  if d.mMode = mSPLIT3 then
    let hb (p : Pos) : XNum := bf16.decode (a.act.cell p.cell j)
    let lb (p : Pos) : XNum := bf16.decode (a.shd.cell p.cell j)
    [.fp (treeSum (ps.map fun p => (splitHi (av p)).mul (hb p))),
     .fp (treeSum (ps.map fun p => (splitLo (av p)).mul (hb p))),
     .fp (treeSum (ps.map fun p => (splitHi (av p)).mul (lb p)))]
  else if intEntry d.mMode ty then
    [.int (treeInt d.mMode (ps.map fun p =>
      elemInt d.mMode d.rCmp ty (readRaw rb x.o x.t (xIdx d n r p)) (a.act.raw p j)))]
  else [.fp (treeFp d.mMode (ps.map fun p => elemFp d.mMode (av p) (a.act.value wt p j)))]

/-- The passes of SLICE, in order: weight plane and activation plane from 1 (R242). -/
def slicePasses (s : Nat) : List (Nat × Nat) :=
  (rangeFrom 1 s).flatMap fun j => (rangeFrom 1 (s + 1 - j)).map fun i => (j, i)

/-- The contributions of one output in SLICE, each with its weight (R277). The weight planes are those of the block that the
fields name, which its passes load in turn. -/
def sliceTerms (c : Chip) (d : Desc) (n r j : Nat) : List Int :=
  let x := (d.xTen n).t
  let w := (d.wTen n).t
  let rb := rdByte c d
  let s := d.mSlices
  let c0 := 128 * d.mNblk (wStream n)
  let ps := redPos d n
  (slicePasses s).map fun q =>
    let t := (ps.map fun p =>
      sext 8 (sliceRaw rb x (q.2 - 1) (xIdx d n r p)) * sext 8 (sliceRaw rb w (q.1 - 1) (wIdx d (c0 + j) p.k 0))).foldl (· + ·) 0
    t * ((2 ^ (7 * (s + 1 - q.2 - q.1)) : Nat) : Int)

/-! ## Accumulators and softmax state (R255 to R258, R265 to R267) -/

/-- Reads a number from a drain's storage. -/
def accNat (c : Chip) (n off k : Nat) : Nat := Mem.readNat c.drn.acc (0x200000 * n + off) k

/-- Writes a number to a drain's storage. -/
def accPut (n off k v : Nat) (c : Chip) : Chip :=
  { c with drn.acc := Mem.write c.drn.acc (0x200000 * n + off) (leBytes k v) }

/-- An FP32 entry. -/
def entryFp (c : Chip) (n e : Nat) : XNum := f32 (accNat c n (4 * e) 4)
/-- Writes an FP32 entry. -/
def putFp (n e : Nat) (v : XNum) (c : Chip) : Chip := accPut n (4 * e) 4 (f32Code v) c

/-- Combines a contribution with a float entry (R257, R267). -/
def combineFp (mode : Nat) (rescale : Option XNum) (old v : XNum) : XNum :=
  if mode = mMIN then XNum.min old v
  else if mode = mMAX then XNum.max old v
  else match rescale with
    | some k => fp32.rnd ((old.mul k).add v)
    | none => fp32.rnd (old.add v)

/-- Combines a contribution with an integer entry. -/
def combineInt (mode : Nat) (old v : Int) : Int :=
  if mode = mMIN then min old v else if mode = mMAX then max old v else old + v

/-- An INT32 entry under RESCALE: entry × C + contribution with one rounding to an integer, modulo 2^32; the spec does not say what
integer a NaN or an infinity gives: the same for the same operands (R369, log 86). -/
def rescaleInt (old : Int) (k : XNum) (v : Int) : Nat :=
  match (((XNum.ofInt old).mul k).add (XNum.ofInt v)).toInt? .rne 0 with
  | some x => modInt 32 x
  | none => Config.rescaled (modInt 32 old) (f32Code k) (modInt 32 v) % 2 ^ 32

/-- Accumulates the contributions of one output into its entry. -/
def accumulate (d : Desc) (n e m : Nat) (ts : List Tree) (c : Chip) : Chip :=
  let scale := if d.rRescale then some (entryFp c n (d.rSmxEnt + 4 * m + 2)) else none
  let step (c : Chip) (p : Nat × Tree) : Chip :=
    let fresh := decide (d.rAcc = 0) && p.1 == 0
    match p.2 with
    | .fp v => putFp n e (if fresh then v else combineFp d.mMode scale (entryFp c n e) v) c
    | .int v =>
      let old := sext 32 (accNat c n (4 * e) 4)
      match (if fresh then none else scale) with
      | none => accPut n (4 * e) 4 (modInt 32 (if fresh then v else combineInt d.mMode old v)) c
      | some k => accPut n (4 * e) 4 (rescaleInt old k v) c
  ((rangeFrom 0 ts.length).zip ts).foldl step c

/-- Accumulates the contributions of one output into its 160-bit entry (R277). -/
def accumulate160 (d : Desc) (n e : Nat) (ts : List Int) (c : Chip) : Chip :=
  let old : Int := if d.rAcc = 0 then 0 else sext 160 (accNat c n (20 * e) 20)
  accPut n (20 * e) 20 (modInt 160 (ts.foldl (· + ·) old)) c

/-- The softmax step of one row (R265): the row's outputs and its new state. -/
def softmaxRow (first : Bool) (mOld lOld : XNum) (vs : List XNum) : List XNum × XNum × XNum × XNum :=
  let mo := if first then .inf true else mOld
  let lo := if first then .zero else lOld
  if vs.any XNum.isNaN then (vs.map fun _ => .nan, .nan, .nan, .nan)
  else
    let mx := vs.foldl XNum.max mo
    if mx = .inf true then
      (vs.map fun _ => .zero, mx, fp32.rnd (lo.mul .one), .one)
    else
      let k := expOf (fp32.rnd (mo.sub mx))
      let ps := vs.map fun v => expOf (fp32.rnd (v.sub mx))
      (ps, mx, fp32.rnd (ps.foldl XNum.add (lo.mul k)), k)

/-- Runs the softmax step on a row's state record (R266). -/
def softmaxStep (d : Desc) (n m : Nat) (vs : List XNum) (c : Chip) : List XNum × Chip :=
  let e := d.rSmxEnt + 4 * m
  let (ps, mx, l, k) := softmaxRow d.rFirst (entryFp c n e) (entryFp c n (e + 1)) vs
  (ps, accPut n (4 * (e + 3)) 4 0 (putFp n (e + 2) k (putFp n (e + 1) l (putFp n e mx c))))

/-! ## The epilogue of one row -/

/-- The element that enters the epilogue (E1), and whether it stays an integer (R262). -/
def enterEpilogue (d : Desc) (t : Tree) : XNum :=
  match t with
  | .fp v => v
  | .int v =>
    let x := XNum.ofInt v
    let keep := d.mMode != mMUL ||
      (d.rOut == 1 && decide ((d.ten d.rDst).t.ty = .int32) && !d.rScaleEn && decide (d.rBias = 0 ∧ d.rAct = 0) && !d.rDeriv
        && !d.rNorm && !d.rSmx && !d.rAmax && !d.rOscale)
    if keep then x else fp32.rnd x

/-- The value of an output before conversion, for a bias, a saved pre-activation and stages E2 and E3. -/
def drnStages (c : Chip) (d : Desc) (n m j : Nat) (v : XNum) : XNum :=
  let rb := rdByte c d
  let col := 128 * d.mNblk (wStream n) + j
  let b := if d.rBias = 0 then none else some (readElem rb (d.ten d.rBias).o (d.ten d.rBias).t [col])
  let p := if d.rDeriv then
      some (readElem rb (d.ten d.rAux).o (d.ten d.rAux).t [col, d.mXRow (xStream n) + m]) else none
  let v := stageE2 (if d.rScaleEn then some (f32 d.rScale) else none) b v
  if d.rAct = 0 ∧ !d.rDeriv then v else stageE3 d.rAct (f32 d.rParam) p v

/-- What one row hands to stage E5. -/
def rowOutputs (d : Desc) (n m : Nat) (vs : List Tree) (c : Chip) : List XNum × Chip :=
  let xs := ((rangeFrom 0 vs.length).zip vs).map fun p => drnStages c d n m p.1 (enterEpilogue d p.2)
  if d.rSmx then softmaxStep d n m xs c
  else if d.rNorm then (xs.map fun v => fp32.rnd (v.div (entryFp c n (d.rSmxEnt + 4 * m + 1))), c)
  else (xs, c)

/-- One row of a SLICE product (R278). -/
def sliceRow (d : Desc) (n m : Nat) (c : Chip) : List XNum :=
  let rb := rdByte c d
  let s := d.mSlices
  let ea := sliceExp rb (d.xTen n).t s (d.mXRow (xStream n) + m)
  (rangeFrom 0 (nCols d n)).map fun j =>
    let ew := sliceExp rb (d.wTen n).t s (128 * d.mNblk (wStream n) + j)
    if ea = 0x8000 ∨ ew = 0x8000 then .nan
    else
      let a := sext 160 (accNat c n (20 * (d.rBase + 128 * m + j)) 20)
      (XNum.ofInt a).scale (sext 16 ea + sext 16 ew - 7 * (s : Int) - 5)

/-- A row takes part: its unit is not masked (R247). -/
def rowOn (d : Desc) (n m : Nat) : Bool :=
  d.mGran == 0 || d.mask.testBit ((d.mXRow (xStream n) + m) / (if d.mGran = 1 then 4 else 128))

/-- The rows of an array that are streamed. -/
def liveRows (d : Desc) (n : Nat) : List Nat := (rangeFrom 0 d.mRows).filter (rowOn d n)

/-- One row of an array: contributions, accumulation and, where it is complete, its outputs: array, row, column, value. -/
def streamRow (d : Desc) (n m : Nat) (s : List (Nat × Nat × Nat × XNum) × Chip) : List (Nat × Nat × Nat × XNum) × Chip :=
  let c := s.2
  let r := d.mXRow (xStream n) + m
  let js := rangeFrom 0 (nCols d n)
  if d.mMode = mSLICE then
    let c := js.foldl (fun c j => accumulate160 d n (d.rBase + 128 * m + j) (sliceTerms c d n r j) c) c
    if d.rFinal then
      let vs := sliceRow d n m c
      (s.1 ++ (js.zip vs).map (fun p => (n, m, p.1, p.2)), c)
    else (s.1, c)
  else
    let e (j : Nat) : Nat := d.rBase + 128 * m + j
    let terms := js.map (stepTerms c d n r)
    if d.rAcc = 2 then
      let (vs, c) := rowOutputs d n m (terms.map fun t => t.headD (.fp .zero)) c
      (s.1 ++ (js.zip vs).map (fun p => (n, m, p.1, p.2)), c)
    else
      let c := (js.zip terms).foldl (fun c p => accumulate d n (e p.1) m p.2 c) c
      if d.rFinal then
        let entry (j : Nat) : Tree :=
          if intEntry d.mMode (d.xTen n).t.ty then .int (sext 32 (accNat c n (4 * e j) 4)) else .fp (entryFp c n (e j))
        let (vs, c) := rowOutputs d n m (js.map entry) c
        (s.1 ++ (js.zip vs).map (fun p => (n, m, p.1, p.2)), c)
      else (s.1, c)

/-- All rows of all named arrays, in step order. -/
def streamAll (d : Desc) (c : Chip) : List (Nat × Nat × Nat × XNum) × Chip :=
  (d.arrays.flatMap fun n => (liveRows d n).map fun m => (n, m)).foldl (fun s p => streamRow d p.1 p.2 s) ([], c)

/-! ## Zero gating (R248) -/

/-- A list of values allows its cube to be gated by the other operand: none is NaN or infinite. -/
def plainVals (xs : List XNum) : Bool := xs.all XNum.isFinite
/-- Values that are all zero. -/
def zeroVals (xs : List XNum) : Bool := xs.all XNum.isZero

/-- Gated cubes of one step of an array: the values that are fed for `av row position` and that stand at `wv position column`. -/
def gatedCubes (cells : List (Nat × List Pos)) (rows : List Nat) (cols : Nat) (av : Nat → Pos → List XNum)
    (wv : Pos → Nat → List XNum) : Nat :=
  (cells.map fun q =>
    let xs := rows.flatMap fun r => q.2.flatMap (av r)
    ((rangeFrom 0 32).filter fun k =>
      let js := (rangeFrom (4 * k) 4).filter fun j => decide (j < cols)
      let ws := q.2.flatMap fun p => js.flatMap (wv p)
      (zeroVals ws && plainVals xs) || (zeroVals xs && plainVals ws)).length).foldl (· + ·) 0

/-- The gated cubes of each step of a descriptor on an array, were gating to apply. SPLIT3 feeds both terms of an activation and holds
both terms of a weight (R241). -/
def gatedSteps (c : Chip) (d : Desc) (n : Nat) : List Nat :=
  let ps := redPos d n
  let per := 4
  let cells := (rangeFrom 0 Config.arraySide).map fun k => (k, ps.filter fun p => p.cell / per == k)
  let x := d.xTen n
  let w := d.wTen n
  let rb := rdByte c d
  let x0 := d.mXRow (xStream n)
  let c0 := 128 * d.mNblk (wStream n)
  let groups := ((liveRows d n).map fun m => m / 4).eraseDups
  let rowsOf (g : Nat) : List Nat := (liveRows d n).filter fun m => m / 4 == g
  let a := arrOf c n
  if d.mMode = mSLICE then
    (slicePasses d.mSlices).flatMap fun q => groups.map fun g =>
      gatedCubes cells (rowsOf g) (nCols d n)
        (fun m p => [XNum.ofInt (sext 8 (sliceRaw rb x.t (q.2 - 1) (xIdx d n (x0 + m) p)))])
        (fun p j => [XNum.ofInt (sext 8 (sliceRaw rb w.t (q.1 - 1) (wIdx d (c0 + j) p.k 0)))])
  else
    groups.map fun g =>
      gatedCubes cells (rowsOf g) (nCols d n)
        (fun m p =>
          let v := readElem rb x.o x.t (xIdx d n (x0 + m) p)
          if d.mMode = mSPLIT3 then [splitHi v, splitLo v] else [v])
        (fun p j =>
          if d.mMode = mSPLIT3 then [bf16.decode (a.act.cell p.cell j), bf16.decode (a.shd.cell p.cell j)]
          else [a.act.value w.t.ty p j])

/-- Gating applies (R248); ZG_EN as it stood at the start (R21). -/
def gatingOn (d : Desc) : Bool :=
  d.zgate && SMap.get 0 d.samp 2 == 1 && (d.mMode == mMUL || d.mMode == mSPLIT3 || d.mMode == mSLICE)

/-- The gated cubes of each step that an array streams for a descriptor: none where gating does not apply. -/
def stepGates (c : Chip) (d : Desc) (n : Nat) : List Nat :=
  let gs := gatedSteps c d n
  if gatingOn d then gs else gs.map fun _ => 0

/-- Fewer than half of the cube-steps of a window were gated (R466). -/
def dense (w : List Nat) : Bool := decide (2 * w.foldl (· + ·) 0 < Config.arraySide * Config.arraySide * w.length)

/-- The window of the last 64 steps, latest first, once more steps have entered. -/
def windowOf (old new : List Nat) : List Nat := (new.reverse ++ old).take 64

/-- After some step of the descriptor the window of the array is dense. -/
def turnsDense (c : Chip) (d : Desc) (n : Nat) : Bool :=
  let gs := stepGates c d n
  (rangeFrom 1 gs.length).any fun k => dense (windowOf (arrOf c n).gates (gs.take k))

/-! ## STREAM and TAPS -/

/-- The activation bytes of a descriptor, and the weight planes of SLICE. -/
def streamNames (d : Desc) : List Nat :=
  let act (n : Nat) : List Nat :=
    let x := d.xTen n
    (liveRows d n).flatMap fun m =>
      let r := d.mXRow (xStream n) + m
      (redPos d n).flatMap fun p =>
        if d.mMode = mSLICE then
          (rangeFrom 0 d.mSlices).map (fun i => byteAddr x.t.base (i * x.t.plane + x.t.pos (xIdx d n r p) / 8))
            ++ (rangeFrom 0 2).map (fun k => byteAddr x.t.base (d.mSlices * x.t.plane + 2 * r + k))
        else elemAddrs x.o x.t (xIdx d n r p)
  let wts (n : Nat) : List Nat :=
    let w := (d.wTen n).t
    let c0 := 128 * d.mNblk (wStream n)
    if d.mMode = mSLICE then
      (rangeFrom 0 (nCols d n)).flatMap fun j =>
        (rangeFrom 0 2).map (fun k => byteAddr w.base (d.mSlices * w.plane + 2 * (c0 + j) + k))
          ++ (redPos d n).flatMap fun p => (rangeFrom 0 d.mSlices).map fun i =>
            byteAddr w.base (i * w.plane + w.pos (wIdx d (c0 + j) p.k 0) / 8)
    else []
  d.arrays.flatMap fun n => act n ++ wts n

/-- The bytes of bias and saved pre-activation that the drains read. -/
def drainNames (d : Desc) : List Nat :=
  if d.rOut = 0 then []
  else d.arrays.flatMap fun n =>
    (rangeFrom 0 (nCols d n)).flatMap fun j =>
      let col := 128 * d.mNblk (wStream n) + j
      (if d.rBias = 0 then [] else elemAddrs (d.ten d.rBias).o (d.ten d.rBias).t [col])
        ++ (if d.rDeriv then (liveRows d n).flatMap fun m =>
              elemAddrs (d.ten d.rAux).o (d.ten d.rAux).t [col, d.mXRow (xStream n) + m] else [])

/-- The last sets of a SLICE descriptor: plane s active and plane s − 1 in the shadow set (R242). -/
def sliceSets (d : Desc) (n : Nat) (c : Chip) : Chip :=
  if d.mMode = mSLICE then
    let s := d.mSlices
    let rb := rdByte c d
    let f := c.free
    let c := noteWeights n c
    let c := updArr n (fun a =>
      { a with act := loadSet rb d n (.plane (s - 1)) f a.act, shd := loadSet rb d n (.plane (s - 2)) (f + loadFree) a.shd }) c
    { c with free := f + 2 * loadFree }
  else c

/-- Steps that an array streams for a descriptor. -/
def streamSteps (d : Desc) (n : Nat) : Nat :=
  let g := ((liveRows d n).map fun m => m / 4).eraseDups.length
  if d.mMode = mSLICE then g * (slicePasses d.mSlices).length else g

/-- The rows that a descriptor forwards: one per row group of an array, with its active lanes (R271). -/
def forwardRows (q : DescRef) (d : Desc) (outs : List (Nat × Nat × Nat × XNum)) : List FwdRow :=
  d.paths.flatMap fun p =>
    (((liveRows d p.1).map fun m => m / 4).eraseDups).map fun g =>
      { array := p.1, chain := p.2, group := g, ring := q.ring, idx := q.idx, tag := d.rTag
        lanes := (outs.filter fun o => o.1 == p.1 && o.2.1 / 4 == g).map fun o => (128 * (o.2.1 % 4) + o.2.2.1, f32Code o.2.2.2) }

/-- Counts what an array has streamed for a descriptor. -/
def countArray (d : Desc) (outs : List (Nat × Nat × Nat × XNum)) (gs : List Nat) (n : Nat) (c : Chip) : Chip :=
  let mine := (outs.filter fun o => o.1 == n).map fun o => o.2.2.2
  updArr n (fun a => { a with
    steps := (a.steps + streamSteps d n) % 2 ^ 48
    gates := windowOf a.gates gs
    nonfin := (a.nonfin + nonfinite mine) % 2 ^ 48 }) c

/-- Every named array streams this descriptor: flipped to it, or, for KEEPW, with nobody before it; and none stalls for the
other half of its step (R236, R240, R466). -/
def mayStream (c : Chip) (d : Desc) : Bool :=
  d.sampled && d.arrays.all fun n =>
    (d.arrs.contains (n, 2) || (d.keepW && d.arrs.contains (n, 1) && (onArray c n 2).isEmpty))
      && !(c.pwr.ramp.any (fun q => q.unit == 13 + n) || c.pwr.queue.any fun q => q.unit == 13 + n)

/-- The tiles of the transposed activations of a descriptor. -/
def streamTiles (d : Desc) (c : Chip) : Chip :=
  if d.mXt then
    (d.xs.filterMap fun s => d.arrays.find? fun n => xStream n == s).foldl (fun c n =>
      countXpb (xTiles d n) (bufPut (d.mXBuf (xStream n)) (xTile (rdByte c d) d n (liveRows d n)) c)) c
  else c

/-- Bank of a line of LMEM (Table 7.1). -/
def lineBank (line : Nat) : Nat := 32 * ((line % 256 / 32) ^^^ (line / 256 % 8)) + line % 32

/-- Cycles in which the bank of a byte reads (R198). -/
def readLat (c : Chip) (off : Nat) : Nat :=
  let b := SMap.get Bank.reset c.lmem.banks (lineBank (off / 64))
  if 0 < b.rowsUsed + b.colsUsed then 4 else 3

/-- The banks from which the cube-rows of an array have read last (Table 20.5); rows from a transposing buffer come from none. -/
def noteBanks (d : Desc) (n : Nat) (c : Chip) : Chip :=
  match (liveRows d n).getLast? with
  | none => c
  | some m =>
    if d.mXt then c
    else
      let x := d.xTen n
      let at_ (p : Pos) : Nat :=
        let ix := xIdx d n (d.mXRow (xStream n) + m) p
        mapAddr c d.rmap (if d.mMode = mSLICE then byteAddr x.t.base (x.t.pos ix / 8) else (elemAddrs x.o x.t ix).headD 0)
      let lats := ((redPos d n).filter fun p => hereRegion c (at_ p) == some .lmem).map fun p => (p.cell / 4, readLat c (offOf (at_ p)))
      updArr n (fun a => { a with bankLat := lats.foldl (fun s l => SMap.set 0 s l.1 l.2) a.bankLat }) c

/-- The bytes of the drains that a descriptor writes, by offset in the core: its entries and its softmax state. -/
def drainOffs (d : Desc) : List Nat :=
  let w := if d.mMode = mSLICE then 20 else 4
  d.arrays.flatMap fun n =>
    let base := 0x10000000 + 0x200000 * n
    (liveRows d n).flatMap fun m =>
      (if d.rAcc = 2 then [] else rangeFrom (base + w * (d.rBase + 128 * m)) (w * nCols d n))
        ++ (if d.rSmx then rangeFrom (base + 4 * (d.rSmxEnt + 4 * m)) 16 else [])

/-- Streams into the drains; what other engines reach through the aperture meanwhile has no order with it (R258). -/
def streamDrained (q : DescRef) (d : Desc) (c : Chip) : List (Nat × Nat × Nat × XNum) × Chip :=
  let offs := drainOffs d
  let c := noteRaceOn (fun r => r.cls != 1) q.ring q.idx offs c
  let (outs, e) := streamAll d (raceIn .drain d c)
  (outs, raceOut .drain d offs c e)

/-- The outputs of a descriptor, by destination index: those of every streamed row. -/
def outPlaces (d : Desc) : List (List Nat) :=
  d.arrays.flatMap fun n => (liveRows d n).flatMap fun m => (rangeFrom 0 (nCols d n)).map fun j =>
    [128 * d.mNblk (wStream n) + j, d.mXRow (xStream n) + m]

/-- The destination bytes of which a descriptor keeps some bits. -/
def outKept (d : Desc) : List Nat :=
  if d.rOut = 1 then keptBytes (gatherBits (outWrites (d.ten d.rDst) d.rConv ((outPlaces d).map fun ix => (ix, .zero)))) else []

/-- The work of a STREAM or TAPS descriptor once its operands, and the destination bytes that it keeps in part, are readable. -/
def streamNow (q : DescRef) (d : Desc) (c : Chip) : Chip :=
  let gates := d.arrays.map fun n => (n, stepGates c d n)
  let gated := (gates.flatMap Prod.snd).foldl (· + ·) 0
  let (outs, c) := streamDrained q d c
  let c := d.arrays.foldl (fun c n => noteBanks d n c) c
  let c := gates.foldl (fun c g => countArray d outs g.2 g.1 (sliceSets d g.1 c)) c
  let vals := outs.map fun o => o.2.2.2
  let c := if d.rAmax then addTap q d.rSlot vals c else c
  let osc := if d.rOscale then some (SMap.get 0 d.samp 1) else none
  let scaled := if d.mMode = mSLICE then
      outs.map fun o => (o.1, o.2.1, o.2.2.1, match osc with
        | some k => o.2.2.2.scale k
        | none => o.2.2.2)
    else outs.map fun o => (o.1, o.2.1, o.2.2.1, stageE5 osc o.2.2.2)
  let c := streamTiles d (countAlts { c with mxa.gated := (c.mxa.gated + gated) % 2 ^ 48 })
  let c := updRing q.ring (fun r => { r with descs := r.descs.map fun e =>
    if e.idx = d.idx then { e with arrs := d.arrays.map fun n => (n, 3) } else e }) c
  let c := d.arrays.foldl (fun c n => noteStall n c) c
  if d.rOut = 1 then
    let x := d.ten d.rDst
    let vs := scaled.map fun o => ([128 * d.mNblk (wStream o.1) + o.2.2.1, d.mXRow (xStream o.1) + o.2.1], o.2.2.2)
    let count (c : Chip) : Chip := d.arrays.foldl (fun c n => countElems (outs.filter fun o => o.1 == n).length n c) c
    writeBitsAnd count 1 vcData q d (outWrites x d.rConv vs) c
  else
    let c := { c with vec.fwd := c.vec.fwd ++ forwardRows q d scaled }
    finishWork q c

/-- The work of a STREAM or TAPS descriptor once its operands are readable. -/
def streamWork (q : DescRef) (d : Desc) (c : Chip) : Chip := withOld 1 vcData q d (outKept d) (streamNow q) c

/-- The bytes that the streams of a descriptor read are here. -/
def streamHere (c : Chip) (d : Desc) : Bool :=
  (streamNames d).all fun a =>
    let r := mapAddr c d.rmap a
    isStored c r || d.rbuf.any fun p => p.1 == r

/-- The arrays on half their step whose work turns dense with this descriptor and that have not asked for the other half. -/
def denseArrays (c : Chip) (d : Desc) : List Nat :=
  d.arrays.filter fun n => SMap.get false c.pwr.half (n + 1) && !unitAsked c (n + 1) && turnsDense c d n

/-- An array turns dense with the descriptor that it streams now. -/
def arrayDense (c : Chip) (n : Nat) : Bool :=
  !(classDescs c 1 fun d => decide (d.phase = .running ∧ (d.opc = 1 ∨ d.opc = 2)) && mayStream c d && streamHere c d
      && (denseArrays c d).contains n).isEmpty

/-- Arrays whose work turns dense ask for the other half of their step and stall (R466); the others stream. -/
def streamOrAsk (q : DescRef) (d : Desc) (c : Chip) : Chip :=
  match denseArrays c d with
  | [] => streamWork q d c
  | ns => ns.foldl (fun c n => addRequest (13 + n) c) c

/-- STREAM and TAPS (R231, R249): a running descriptor streams its rows once its arrays have come to it. -/
def mxaStream (opc : Nat) (q : DescRef) (c : Chip) : Chip :=
  onRunning q 1 opc (fun d c =>
    if !d.sampled then mxaSample q.ring q.idx c
    else if mayStream c d then
      withBytes 0 vcData q d (streamNames d) (fun d c =>
        withBytes 1 vcData q d (drainNames d) (streamOrAsk q) c) c
    else c) c

/-! ## Array latency and the equalisers (R251 to R253) -/

/-- ARRAY_LAT of an array. -/
def latOf (c : Chip) (n : Nat) : Nat :=
  if !arrayPresent c n then 0
  else if c.mxa.force7 || ((arrOf c n).spare != 0 && c.lmem.banks.any fun b => b.2.rowsUsed != 0 || b.2.colsUsed != 0)
  then 7 else 6

/-- FEED_EQ of an array at a latency: D of a read from a 3-cycle bank (Table 9.8). -/
def eqOf (lat spare : Nat) : Nat :=
  packNat ((rangeFrom 0 Config.arraySide).map fun r => (2 * r, 2, lat - 5 - (if spare.testBit r then 1 else 0)))

/-- Derives latency and equaliser delays of every array. -/
def deriveLat (c : Chip) : Chip :=
  (rangeFrom 0 Config.arrays).foldl (fun c n =>
    let l := latOf c n
    updArr n (fun a => { a with lat := l, eq := if l = 0 then 0 else eqOf l a.spare }) c) c

/-- FORCE7_APPLY (R253): in a cycle in which no MXA descriptor runs, a written FORCE7 takes effect. -/
def force7Apply (c : Chip) : Chip :=
  if c.mxa.f7Wait ∧ (classDescs c 1 Desc.started).isEmpty then deriveLat { c with mxa.f7Wait := false } else c

/-! ## Registers (R254, R280) -/

/-- Rows of a descriptor that an array has not streamed. -/
def rowsLeft (d : Desc) (n : Nat) : Nat := if d.arrs.contains (n, 3) then 0 else (liveRows d n).length

/-- An array stalls for a load (R239). -/
def loadStalls (c : Chip) (n : Nat) : Bool := (arrOf c n).stalled && arrayLoads c n

/-- MXA_STATn (Table 9.11): SHADOW_FULL speaks of a block that the next descriptor has loaded. Before the image has been loaded no
array is reported, and the register has its reset value (log 77). -/
def mxaStat (c : Chip) (n : Nat) : W64 :=
  if !arrayPresent c n then pack [(0, 3, if n < Config.arrays ∧ c.core.present ≠ 0 then 5 else 0)]
  else
    let run := arrayRuns c n
    let full := (onArray c n 1).any fun p => p.2.mLoads && p.2.sampled
    let st := if run.isEmpty then (if loadStalls c n then 4 else if arrayLoads c n then 1 else 0) else if arrayLoads c n then 3 else 2
    match run with
    | (r, d) :: _ => pack [(0, 3, st), (3, 1, b2n full), (16, 15, r), (32, 32, rowsLeft d n)]
    | [] => pack [(0, 3, st), (3, 1, b2n full)]

/-- Reads of the MXA page. -/
def mxaRead (c : Chip) (off : Nat) : W64 :=
  if off = 0x100 then pack [(0, 1, b2n c.mxa.zgEn), (1, 1, b2n c.mxa.force7)]
  else if off = 0x108 then pack ((rangeFrom 0 4).map fun n => (4 * n, 4, (arrOf c n).lat))
  else if 0x110 ≤ off ∧ off < 0x130 then mxaStat c ((off - 0x110) / 8)
  else if 0x130 ≤ off ∧ off < 0x150 then pack [(0, 48, (arrOf c ((off - 0x130) / 8)).steps)]
  else if 0x150 ≤ off ∧ off < 0x170 then pack [(0, 48, (arrOf c ((off - 0x150) / 8)).lstall)]
  else 0#64

/-- MXA_CFG (Table 9.9): a change of FORCE7 waits for its moment. -/
def mxaCfgWrite (v : W64) (c : Chip) : Chip :=
  { c with mxa.zgEn := bitAt v 0, mxa.force7 := bitAt v 1, mxa.f7Wait := true }

/-- Writes of the MXA page. -/
def mxaWrite (off : Nat) (v : W64) (c : Chip) : Chip := if off = 0x100 then mxaCfgWrite v c else c

/-- Reads of the FEED page. -/
def feedRead (c : Chip) (off : Nat) : W64 :=
  if 0x100 ≤ off ∧ off < 0x120 then pack [(0, 32, (arrOf c ((off - 0x100) / 8)).spare)]
  else if 0x120 ≤ off ∧ off < 0x140 then pack [(0, 64, (arrOf c ((off - 0x120) / 8)).eq)]
  else if 0x140 ≤ off ∧ off < 0x160 then pack [(0, 48, SMap.get 0 c.mxa.alts ((off - 0x140) / 8))]
  else if off = 0x160 then pack [(0, 48, c.mxa.gated)]
  else 0#64

/-- Row groups that have still to pass through the epilogue. -/
def groupsLeft (d : Desc) (n : Nat) : Nat :=
  if d.rOut = 0 ∨ d.arrs.contains (n, 3) then 0 else ((liveRows d n).map fun m => m / 4).eraseDups.length

/-- The rows of an array that wait for their chain (R271), and the descriptors that have streamed them. -/
def drainRows (c : Chip) (n : Nat) : List FwdRow := c.vec.fwd.filter fun w => w.array == n

/-- DRN_STATn (Table 10.9): rows that have not passed stage E7 are in the epilogue. Before the image has been loaded the register has
its reset value (log 77). -/
def drnStat (c : Chip) (n : Nat) : W64 :=
  if !arrayPresent c n then pack [(0, 3, if n < Config.arrays ∧ c.core.present ≠ 0 then 4 else 0)]
  else
    let fwd := (pathsHeld c).any fun p => p.1 == n
    let run := (arrayRuns c n).head?
    let acc := run.any fun p => p.2.rAcc != 2
    match drainRows c n with
    | w :: ws =>
      let left := ((w :: ws).filter fun x => x.ring == w.ring && x.idx == w.idx).length
      pack [(0, 3, 2 + b2n acc), (3, 1, b2n fwd), (16, 15, w.ring), (32, 32, left)]
    | [] =>
      match run with
      | some (r, d) => pack [(0, 3, b2n acc + (if d.rOut = 0 then 0 else 2)), (3, 1, b2n fwd), (16, 15, r), (32, 32, groupsLeft d n)]
      | none => pack [(3, 1, b2n fwd)]

/-- The row group that a drain passes next: that of the oldest row that waits, or the first that its descriptor streams. -/
def nextGroup (c : Chip) (n : Nat) : Nat :=
  match drainRows c n with
  | w :: _ => w.group
  | [] =>
    match (arrayRuns c n).head? with
    | some (_, d) => (((liveRows d n).map fun m => m / 4).head?).getD 0
    | none => 0

/-- Reads of the DRN page. -/
def drnRead (c : Chip) (off : Nat) : W64 :=
  if 0x100 ≤ off ∧ off < 0x120 then drnStat c ((off - 0x100) / 8)
  else if 0x120 ≤ off ∧ off < 0x140 then pack [(0, 48, (arrOf c ((off - 0x120) / 8)).elems)]
  else if 0x140 ≤ off ∧ off < 0x160 then pack [(0, 48, (arrOf c ((off - 0x140) / 8)).nonfin)]
  else if off = 0x160 then
    let held := (pathsHeld c).eraseDups
    let waits (n : Nat) : Bool := (classDescs c 1 fun d => decide (d.phase = .checked)).any fun p =>
      p.2.paths.any fun x => x.1 == n && !pathFree held x
    pack ((held.map fun p => (4 * p.1, 4, p.2 + 8)) ++ (rangeFrom 0 4).map fun n => (16 + n, 1, b2n (waits n)))
  else 0#64

end Sys2Proof.Machine
end

