-- ==== Sys2Proof/Machine/Sct.lean ====
section
/-! DEFINITION. Scale tracking: what a commit and a skip do to the slots, and the registers of the SCT page (R360 to R365). -/

namespace Sys2Proof.Machine

/-! ## Fields of a slot (Table 14.15) -/

def SctSlot.fmt (s : SctSlot) : Nat := fld s.cfg 4 5
/-- History length: 0 means 32. -/
def SctSlot.hlen (s : SctSlot) : Nat := if fld s.cfg 12 5 = 0 then 32 else fld s.cfg 12 5
def SctSlot.margin (s : SctSlot) : Int := fld s.cfg 20 4
def SctSlot.backoff (s : SctSlot) : Int := fld s.cfg 24 4
/-- Commits between growths: 0 is taken as 1. -/
def SctSlot.interval (s : SctSlot) : Nat := max 1 (fld s.cfg 32 16)
def SctSlot.xmin (s : SctSlot) : Int := sext 8 (fld s.cfg 48 8)
def SctSlot.xmax (s : SctSlot) : Int := sext 8 (fld s.cfg 56 8)

/-- emax of a format (Table 14.8). -/
def fmtEmax (f : Nat) : Option Int :=
  match f with
  | 0x03 => some 15
  | 0x04 => some 8
  | 0x05 => some 15
  | 0x0C => some 6
  | _ => none

/-- A slot with a scale exponent. -/
def SctSlot.withExp (s : SctSlot) (x : Int) : SctSlot := { s with x := modInt 8 x }

/-- A slot without its pending amax. -/
def SctSlot.clearPend (s : SctSlot) : SctSlot := { s with amax := 0, taps := 0, fin := true }

/-! ## Commit and skip (R363) -/

/-- The scale exponent that an amax gives: the least one for an amax above every FP32 number. A NaN, which only a restored or written
history can hold, has no stated exponent: Config.nanScale (log 29). -/
def scaleFor (s : SctSlot) (a : Nat) : Int :=
  match f32 a with
  | .inf _ => -126
  | .nan => max (-126) (min 127 (Config.nanScale a))
  | x => max (-126) (min 127 ((fmtEmax s.fmt).getD 0 - s.margin - x.expo - 1))

/-- A slot at a commit. -/
def SctSlot.commit (s : SctSlot) : SctSlot :=
  let s :=
    if s.policy = 3 then
      if s.interval ≤ s.good + 1 then { s.withExp (min (s.exp + 1) s.xmax) with good := 0 }
      else { s with good := s.good + 1 }
    else
      let s := if s.taps ≠ 0 ∧ s.fin then { s with hist := (s.amax :: s.hist).take s.hlen } else s
      if s.policy = 0 then s
      else
        match s.hist with
        | [] => s
        | newest :: _ =>
          let a := if s.policy = 1 then s.hist.foldl max 0 else newest
          if 0 < a then s.withExp (scaleFor s a) else s
  s.clearPend

/-- A slot at a skip. -/
def SctSlot.skip (s : SctSlot) : SctSlot :=
  (if s.policy = 3 then { s.withExp (max (s.exp - s.backoff) s.xmin) with good := 0 } else s).clearPend

/-- The change of every slot and of the generation at a commit or a skip (R363). -/
def sctChange (commit : Bool) (c : Chip) : Chip :=
  { c with
    sct.slots := SMap.mapVal .reset (fun _ s => if commit then s.commit else s.skip) c.sct.slots
    sct.gen := add32 c.sct.gen 1 }

/-- The taps that a quiesce request held are folded when it ends (Table 22.5). -/
def foldHeld (c : Chip) : Chip :=
  let ts := c.sct.held
  ts.foldl (fun c t => foldTap t.1 t.2.1 t.2.2.1 t.2.2.2 c) { c with sct.held := [] }

/-! ## Registers (Tables 14.13 to 14.18) -/

/-- Bits of SCT_SLOT_CFG that are fields. -/
def slotCfgMask : W64 := maskOf [(0, 2), (4, 5), (12, 5), (20, 4), (24, 4), (32, 16), (48, 8), (56, 8)]

/-- A signed exponent in range. -/
def expOk (x : Int) : Bool := decide (-126 ≤ x ∧ x ≤ 127)

/-- A slot configuration is accepted (R365). -/
def slotCfgOk (v : W64) : Bool :=
  let p := fld v 0 2
  let lo := sext 8 (fld v 48 8)
  let hi := sext 8 (fld v 56 8)
  (!(p == 1 || p == 2) || (fmtEmax (fld v 4 5)).isSome) && expOk lo && expOk hi && decide (lo ≤ hi)

/-- SCT_SLOT_CFG (R365). -/
def slotCfgWrite (v : W64) (c : Chip) : Chip :=
  if slotCfgOk v then setSlot c.sct.sel { slotOf c c.sct.sel with cfg := v &&& slotCfgMask } c
  else { c with sct.cfgErr := true }

/-- SCT_SLOT_SCALE (R365). -/
def slotScaleWrite (v : W64) (c : Chip) : Chip :=
  if expOk (sext 8 (fld v 0 8)) then
    setSlot c.sct.sel { slotOf c c.sct.sel with x := fld v 0 8, good := fld v 16 16 } c
  else { c with sct.cfgErr := true }

/-- SCT_SLOT_CMD.CLR_HIST. -/
def sctClrHist (c : Chip) : Chip := setSlot c.sct.sel { slotOf c c.sct.sel with hist := [] } c
/-- SCT_SLOT_CMD.CLR_PEND. -/
def sctClrPend (c : Chip) : Chip := setSlot c.sct.sel (slotOf c c.sct.sel).clearPend c

/-- A write to SCT_STAT with CFGERR = 0. -/
def sctStatClear (c : Chip) : Chip := { c with sct.late := 0, sct.losstap := 0, sct.nonfin := 0 }

/-- Reads of the SCT page. -/
def sctRead (c : Chip) (off : Nat) : W64 :=
  let s := slotOf c c.sct.sel
  match off with
  | 0x100 => pack [(0, 32, c.sct.gen)]
  | 0x108 => pack [(0, 11, c.sct.sel)]
  | 0x110 => s.cfg &&& slotCfgMask
  | 0x118 => pack [(0, 8, s.x), (16, 16, s.good)]
  | 0x120 => pack [(0, 32, s.amax), (32, 16, s.taps), (48, 1, b2n s.fin)]
  | 0x128 => pack [(0, 32, s.hist.foldl max 0), (32, 6, s.hist.length)]
  | 0x138 => pack [(0, 16, c.sct.late), (16, 16, c.sct.losstap), (32, 16, c.sct.nonfin), (63, 1, b2n c.sct.cfgErr)]
  | _ => 0#64

/-- Writes of the SCT page. -/
def sctWrite (off : Nat) (v : W64) (c : Chip) : Chip :=
  match off with
  | 0x100 => { c with sct.gen := fld v 0 32 }
  | 0x108 => { c with sct.sel := fld v 0 11 }
  | 0x110 => slotCfgWrite v c
  | 0x118 => slotScaleWrite v c
  | 0x130 =>
    let c := if bitAt v 0 then sctClrHist c else c
    if bitAt v 1 then sctClrPend c else c
  | 0x138 => if bitAt v 63 then { c with sct.cfgErr := false } else sctStatClear c
  | _ => c

end Sys2Proof.Machine
end

