-- ==== Sys2Proof/Machine/Wvm.lean ====
section
/-! DEFINITION. Parameter regions: the WVM descriptors, the hold of COMMIT and SKIP with the latch of SNAP, and the registers
of the WVM page (R370 to R387, R438). -/

namespace Sys2Proof.Machine

/-! ## Payload (Table 15.7) -/

def Desc.wFirst (d : Desc) : Nat := bits (d.bytes 16 2) 0 11
def Desc.wCount (d : Desc) : Nat := bits (d.bytes 18 2) 0 12
def Desc.wFill (d : Desc) : Bool := (d.bytes 20 1).testBit 0
def Desc.wGuard (d : Desc) : Bool := (d.bytes 20 1).testBit 1
def Desc.wFreeze (d : Desc) : Bool := (d.bytes 20 1).testBit 2
def Desc.wSnapGen (d : Desc) : Bool := (d.bytes 20 1).testBit 3
def Desc.wTrickle (d : Desc) : Bool := (d.bytes 20 1).testBit 4
def Desc.wKind (d : Desc) : Bool := (d.bytes 20 1).testBit 5
def Desc.wSel (d : Desc) : Nat := d.bytes 21 1
def Desc.wPin (d : Desc) : Nat := d.bytes 22 1
def Desc.wA (d : Desc) : Nat := d.bytes 24 8
def Desc.wB (d : Desc) : Nat := d.bytes 32 8
def Desc.wLen (d : Desc) : Nat := d.bytes 40 6

/-- The regions that a descriptor names. -/
def Desc.wRgns (d : Desc) : List Nat := rangeFrom d.wFirst d.wCount

/-- Opcodes that name FIRST and COUNT. -/
def wvmRange (opc : Nat) : Bool := opc == 2 || opc == 3 || opc == 6 || opc == 8

/-- Bits of payload words 2 to 7 that an opcode uses (Table 15.6). -/
def wvmUsed (opc : Nat) : List W64 :=
  let ones : W64 := maskOf [(0, 64)]
  match opc with
  | 1 => [maskOf [(0, 11), (36, 2)], ones, ones, maskOf [(0, 48)], 0, 0]
  | 2 => [maskOf [(0, 11), (16, 12)], 0, 0, 0, 0, 0]
  | 3 => [maskOf [(0, 11), (16, 12), (32, 1)], 0, 0, 0, 0, 0]
  | 4 => [maskOf [(33, 3)], 0, 0, 0, 0, 0]
  | 6 => [maskOf [(0, 11), (16, 12), (40, 16)], 0, 0, 0, 0, 0]
  | 7 => [maskOf [(48, 8)], 0, 0, 0, 0, 0]
  | 8 => [maskOf [(0, 11), (16, 12)], 0, 0, 0, 0, 0]
  | _ => [0, 0, 0, 0, 0, 0]

/-- Step 4 (R386). -/
def wvmFields (d : Desc) : Bool :=
  (((wvmUsed d.opc).zip ((rangeFrom 2 6).map d.word)).all fun p => (p.2 &&& ~~~p.1) == 0#64)
    && (d.opc != 6 || d.wSel == 0 || decide (128 ≤ d.wSel)) && !(d.opc == 4 && d.wSnapGen && !d.wFreeze)
    && (d.opc != 1 || (aligned 64 d.wA && aligned 64 d.wB && aligned 64 d.wLen))

/-- A slot of this core: in LMEM or in the host memory aperture, whole. -/
def slotMapped (c : Chip) (a n : Nat) : Bool :=
  isSelf c a && (regionOf (offOf a) n == some .lmem || regionOf (offOf a) n == some .host)

/-- Two ranges of this core intersect. -/
def rangesMeet (a n b m : Nat) : Bool := decide (a < b + m ∧ b < a + n)

/-- A slot range of REGISTER meets the other or a slot of a valid region (R371). -/
def tiedWeight (c : Chip) (d : Desc) : Bool :=
  let a := offOf d.wA
  let b := offOf d.wB
  rangesMeet a d.wLen b d.wLen
    || (nameRanges c).any fun r => rangesMeet a d.wLen r.2.1 r.2.2 || rangesMeet b d.wLen r.2.1 r.2.2

/-- Step 8 in the order of R386. -/
def wvmOwn (c : Chip) (d : Desc) : Option Cause :=
  if d.opc = 1 then
    if (rgnOf c d.wFirst).valid then some .descMalformed
    else if tiedWeight c d then some .tiedWeight else none
  else if wvmRange d.opc then
    if !(d.wRgns.all fun g => (rgnOf c g).valid) || (d.opc == 6 && (handleOf c d.wPin).valid) then some .descMalformed
    else if d.opc == 6 && !(d.wRgns.all fun g => (selSlot c g d.wSel).isSome) then some .versionAbsent
    else none
  else none

/-- The slots that a PIN selects. -/
def pinSlots (c : Chip) (d : Desc) : List (Nat × Nat) :=
  d.wRgns.filterMap fun g => (selSlot c g d.wSel).map fun s => (g, s)

/-- Another COMMIT or SKIP runs (R382). -/
def commitRuns (c : Chip) : Bool := !(classDescs c 7 fun e => e.started && (e.opc == 4 || e.opc == 5)).isEmpty

/-- The pin handle of a PIN, with the slots that it selects (R375). -/
def pinHandle (c : Chip) (d : Desc) : PinH :=
  let opt : Int := c.wvm.opt
  let step := if d.wSel = 0 then c.wvm.opt else modInt 32 (opt - (opt - ((d.wSel % 128 : Nat) : Int)) % 128)
  ⟨d.wFirst, d.wCount, true, step, pinSlots c d⟩

/-- The start: COMMIT reads the finite flag (R380), OPEN waits for each of its regions (R378), PIN takes its pins all together, if
what its checks found still holds (R375). -/
def wvmOnStart (n : Nat) (d : Desc) (c : Chip) : Chip :=
  if d.opc = 6 then
    match wvmOwn c d with
    | some k => abandonDesc n d.idx k c
    | none => { c with wvm.handles := SMap.set .reset c.wvm.handles d.wPin (pinHandle c d) }
  else if d.opc = 4 then putDesc n { d with samp := [(1, if d.wGuard && c.rdu.nonfinStep then 1 else 0)] } c
  else if d.opc = 3 then putDesc n { d with arrs := d.wRgns.map fun g => (g, 1) } c
  else c

/-- The WVM class. -/
def wvmClass : EngineClass :=
  { opcOk := fun d => decide (1 ≤ d.opc ∧ d.opc ≤ 8) && !d.chain && decide (d.engf = 0)
    present := fun _ _ => true
    noop := fun d => (d.opc == 1 && d.wLen == 0) || (wvmRange d.opc && d.wCount == 0)
    fields := wvmFields
    tens := fun _ => []
    raws := fun _ _ => []
    shape := fun _ _ => true
    ranges := fun _ _ => []
    windows := fun _ d => !wvmRange d.opc || decide (d.wFirst + d.wCount ≤ 2048)
    own := wvmOwn
    wvsel := fun _ => 0
    units := fun _ _ => [11]
    canStart := fun c _ d =>
      if d.opc = 4 ∨ d.opc = 5 then !commitRuns c else if d.opc = 6 then pinsFit c (pinSlots c d) else true
    onStart := wvmOnStart
    unmapped := fun c d => d.opc == 1 && !(slotMapped c d.wA d.wLen && slotMapped c d.wB d.wLen) }

/-! ## Table updates: REGISTER, PIN, UNPIN, THAW, RELEASE -/

/-- The work of a descriptor whose step 8 conditions still hold; otherwise it is abandoned with their cause. -/
def wvmUpdate (q : DescRef) (d : Desc) (f : Chip → Chip) (c : Chip) : Chip :=
  match wvmOwn c d with
  | some k => abandonDesc q.ring q.idx k c
  | none => finishWork q (f c)

/-- REGISTER (R371). -/
def wvmRegister (q : DescRef) (c : Chip) : Chip :=
  onRunning q 7 1 (fun d c => wvmUpdate q d (setRgn d.wFirst
    { valid := true, aBase := d.wA, bBase := d.wB, len := d.wLen, kind := d.wKind, trickle := d.wTrickle, curB := false
      other := .empty, frozenA := false, frozenB := false, firstA := c.wvm.opt, firstB := 0, latSlot := none }) c) c

/-- PIN (R375): its pins were taken at its start. -/
def wvmPin (q : DescRef) (c : Chip) : Chip := onRunning q 7 6 (fun _ c => finishWork q c) c

/-- UNPIN (R375). -/
def wvmUnpin (q : DescRef) (c : Chip) : Chip :=
  onRunning q 7 7 (fun d c => finishWork q { c with wvm.handles := SMap.erase c.wvm.handles d.wPin }) c

/-- THAW (R381). -/
def wvmThaw (q : DescRef) (c : Chip) : Chip :=
  onRunning q 7 8 (fun d c => wvmUpdate q d (fun c =>
    d.wRgns.foldl (fun c g => updRgn g (fun r => { r with frozenA := false, frozenB := false, latSlot := none }) c) c) c) c

/-- A region holds no pin, no freeze and no write resolution. -/
def rgnQuiet (c : Chip) (g : Nat) : Bool :=
  let r := rgnOf c g
  !r.frozenA && !r.frozenB && decide (pinsOn c g 0 = 0 ∧ pinsOn c g 1 = 0 ∧ writersOn c g = 0)

/-- Ends the wait of every OPEN for regions, and what it still does on them. -/
def dropOpens (gs : List Nat) (c : Chip) : Chip :=
  (classDescs c 7 fun e => decide (e.phase = .running ∧ e.opc = 3)).foldl (fun c p =>
    putDesc p.1 { p.2 with arrs := p.2.arrs.map fun a => if gs.contains a.1 then (a.1, 3) else a } c) c

/-- RELEASE (R382). -/
def wvmRelease (q : DescRef) (c : Chip) : Chip :=
  onRunning q 7 2 (fun d c =>
    if d.wRgns.all (rgnQuiet c) then
      finishWork q (dropOpens d.wRgns (d.wRgns.foldl (fun c g => setRgn g .reset c) c))
    else c) c

/-! ## OPEN (R378) -/

/-- Some running OPEN has still to fill a region. -/
def filling (c : Chip) (g : Nat) : Bool :=
  !(classDescs c 7 fun e => decide (e.phase = .running ∧ e.opc = 3) && e.arrs.contains (g, 2)).isEmpty

/-- The non-current slot of a region may become PEND. -/
def slotFree (c : Chip) (g : Nat) : Bool :=
  let r := rgnOf c g
  !r.frozen r.alt && decide (pinsOn c g r.alt = 0)

/-- One region of an OPEN: its next stage and the core. -/
def openOne (fill : Bool) (a : Nat × Nat) (c : Chip) : (Nat × Nat) × Chip :=
  let r := rgnOf c a.1
  if a.2 ≠ 1 then (a, c)
  else if !r.valid || (decide (r.other = .pend) && !filling c a.1) then ((a.1, 3), c)
  else if decide (r.other = .pend) || !slotFree c a.1 then (a, c)
  else
    let f := add32 c.wvm.opt 1
    ((a.1, if fill then 2 else 3),
     setRgn a.1 { r with other := .pend, firstA := if r.curB then f else r.firstA, firstB := if r.curB then r.firstB else f } c)

/-- Claims every region of an OPEN that is free now. -/
def openClaim (fill : Bool) : List (Nat × Nat) → Chip → List (Nat × Nat) × Chip
  | [], c => ([], c)
  | a :: as, c =>
    let (b, c) := openOne fill a c
    let (bs, c) := openClaim fill as c
    (b :: bs, c)

/-- Sets the stages of a descriptor's regions. -/
def setArrs (q : DescRef) (as : List (Nat × Nat)) (c : Chip) : Chip :=
  updRing q.ring (fun r => { r with descs := r.descs.map fun d => if d.idx = q.idx then { d with arrs := as } else d }) c

/-- Copies bytes by address without resolution (R372); answers whether the data were there. -/
def rawCopy (vc : Nat) (q : DescRef) (src dst n : Nat) (c : Chip) : Got × Chip :=
  match engineFetch 5 vc q.ring q.idx ((rangeFrom 0 n).map (byteAddr src)) c with
  | (.ready, c) =>
    match descOf c q with
    | some d => engineWrite 5 vc q.ring q.idx [] ((rangeFrom 0 n).map fun i => (byteAddr dst i, fetched c d (byteAddr src i))) c
    | none => (.missing, c)
  | r => r

/-- An OPEN keeps the slots of a region that it has just claimed: from where its fill copies, to where, and how much. -/
def openKeep (q : DescRef) (g : Nat) (c : Chip) : Chip :=
  let r := rgnOf c g
  let put (m : SMap Int) (k v : Nat) : SMap Int := SMap.insert (v : Int) m (3 * g + 3000 + k)
  updRing q.ring (fun x => { x with descs := x.descs.map fun d =>
    if d.idx = q.idx then { d with samp := put (put (put d.samp 0 (r.base r.cur)) 1 (r.base r.alt)) 2 r.len } else d }) c

/-- Fills the claimed regions of an OPEN, one after another, between the slots that were current and PEND when they were claimed. -/
def openFill (q : DescRef) : List Nat → Chip → Chip
  | [], c => c
  | g :: gs, c =>
    let kept (k : Nat) : Nat := ((descOf c q).elim 0 fun d => (SMap.get 0 d.samp (3 * g + 3000 + k)).toNat)
    andThen q (rawCopy vcData q (kept 0) (kept 1) (kept 2) c) fun c =>
      match descOf c q with
      | some d => openFill q gs (setArrs q (d.arrs.map fun a => if a = (g, 2) then (g, 3) else a) c)
      | none => c

/-- Marks the time since which a descriptor waits on something that SNAP_COST counts, or adds the time it has waited
(R447). -/
def costMark (q : DescRef) (waits : Bool) (c : Chip) : Chip :=
  match descOf c q with
  | none => c
  | some d =>
    if waits then
      if d.samp.any fun p => p.1 == costKey then c
      else putDesc q.ring { d with samp := SMap.insert (now c : Int) d.samp costKey } c
    else if d.samp.any fun p => p.1 == costKey then
      costEnds q.ring d (putDesc q.ring { d with samp := SMap.erase d.samp costKey } c)
    else c

/-- OPEN and OPEN_TAKE (R378): the regions that are free are taken and filled; the descriptor ends when none is left. -/
def wvmOpen (q : DescRef) (c : Chip) : Chip :=
  onRunning q 7 3 (fun d c =>
    let (as, c) := openClaim d.wFill d.arrs c
    let fresh := (as.filter fun a => a.2 == 2 && !d.arrs.contains a).map Prod.fst
    let c := fresh.foldl (fun c g => openKeep q g c) (setArrs q as c)
    let c := costMark q (c.snap.latched && as.any fun a =>
      let r := rgnOf c a.1
      a.2 == 1 && r.frozen r.alt && r.latSlot == some r.alt) c
    let c := openFill q ((as.filter fun a => a.2 == 2).map Prod.fst) c
    match descOf c q with
    | some d => if d.phase = .running ∧ d.arrs.all (fun a => a.2 == 3) then finishWork q c else c
    | none => c) c

/-! ## COMMIT and SKIP (R379 to R381) -/

/-- COMMIT (R379): the descriptor waits for the hold. -/
def wvmCommit (q : DescRef) (c : Chip) : Chip :=
  onRunning q 7 4 (fun _ c =>
    if c.wvm.wants.isNone && c.wvm.hold.isNone then { c with wvm.wants := some (q.ring, q.idx) } else c) c

/-- SKIP (R379). -/
def wvmSkip (q : DescRef) (c : Chip) : Chip :=
  onRunning q 7 5 (fun _ c =>
    if c.wvm.wants.isNone && c.wvm.hold.isNone then { c with wvm.wants := some (q.ring, q.idx) } else c) c

/-- A region at a commit (Table 15.4). -/
def Rgn.commit (opt : Nat) (r : Rgn) : Rgn :=
  if r.valid ∧ r.other = .pend then
    let f := add32 opt 1
    { r with curB := !r.curB, other := .prev, firstA := if r.curB then f else r.firstA
             firstB := if r.curB then r.firstB else f }
  else r

/-- A region at a skip (Table 15.4); FIRST of an EMPTY slot is 0. -/
def Rgn.skip (r : Rgn) : Rgn :=
  if r.valid ∧ r.other = .pend then
    { r with other := .empty, firstA := if r.curB then 0 else r.firstA, firstB := if r.curB then r.firstB else 0 }
  else r

/-- The freeze of a TRICKLE region's CUR slot (R381). -/
def Rgn.freeze (r : Rgn) : Rgn :=
  if r.valid ∧ r.trickle then { r with frozenA := r.frozenA || !r.curB, frozenB := r.frozenB || r.curB } else r

/-- State of a generation. -/
def genState (c : Chip) (g : Bool) : Nat := if g then c.snap.stB else c.snap.stA

/-- STEP of a generation. -/
def genStep (c : Chip) (g : Bool) : Nat := if g then c.snap.stepB else c.snap.stepA

/-- Sets the state of a generation, with its event (Table 20.1). -/
def setGen (g : Bool) (st : Nat) (c : Chip) : Chip :=
  let c := if g then { c with snap.stB := st } else { c with snap.stA := st }
  emit 0x0C pSNAP (pack [(0, 1, b2n g), (1, 2, st)]) (BitVec.ofNat 64 (genStep c g)) c

/-- The latch of SNAP at a COMMIT with FREEZE, which keeps the slots that this COMMIT has frozen (R438 steps 2 and 3, R443). -/
def snapLatch (g : Bool) (c : Chip) : Chip :=
  if genState c g = 1 ∧ !c.snap.latched then
    let c := if g then { c with snap.stepB := c.wvm.opt } else { c with snap.stepA := c.wvm.opt }
    { c with
      snap.latched := true
      snap.batchC := (c.wvm.batch + 2 ^ 32 - 1) % 2 ^ 32
      snap.latBatch := c.wvm.batch
      snap.latTime := now c
      snap.latEpoch := c.rdu.epoch
      snap.latGen := c.sct.gen
      snap.latCopy := true
      wvm.rgns := SMap.mapVal .reset (fun _ r => if r.valid ∧ r.trickle then { r with latSlot := some r.cur } else r) c.wvm.rgns }
  else { c with snap.xfreeze := satAdd 16 c.snap.xfreeze 1 }

/-- The change of regions, scale trackers and step counts (R379 steps 3 to 5). -/
def stepChange (commit : Bool) (c : Chip) : Chip :=
  let opt := c.wvm.opt
  let c := sctChange commit
    { c with wvm.rgns := SMap.mapVal .reset (fun _ r => if commit then r.commit opt else r.skip) c.wvm.rgns }
  { c with
    wvm.opt := if commit then add32 opt 1 else opt
    wvm.batch := add32 c.wvm.batch 1
    wvm.commits := if commit then add32 c.wvm.commits 1 else c.wvm.commits
    wvm.skips := if commit then c.wvm.skips else add32 c.wvm.skips 1 }

/-- The freeze of a commit (R381), with SNAP's latch. -/
def stepFreeze (g : Bool) (c : Chip) : Chip :=
  snapLatch g { c with
    wvm.rgns := SMap.mapVal .reset (fun _ r => r.freeze) c.wvm.rgns
    wvm.snapOpt := c.wvm.opt
    wvm.snapGen := g
    wvm.snapV := true }

/-- Everything that a COMMIT or SKIP waits for beside the latch copy. -/
def holdBlocked (c : Chip) : Bool := anyWriter c || (pageOf c pSCT).qreq

/-- A COMMIT or SKIP that only the latch copy holds back begins to wait for it (R438, R447). -/
def noteLatchWait (c : Chip) : Chip :=
  match c.wvm.wants with
  | none => c
  | some w => if c.snap.latCopy && !holdBlocked c then costMark ⟨w.1, w.2⟩ true c else c

/-- WVM_HOLD (R379): with no write resolution left, SCT not asked to quiesce and no latch copy outstanding, the hold begins
and the step changes. -/
def wvmHold (c : Chip) : Chip :=
  match c.wvm.wants with
  | none => c
  | some w =>
    let q : DescRef := ⟨w.1, w.2⟩
    match descOf c q with
    | none => { c with wvm.wants := none }
    | some d =>
      let blocked := holdBlocked c
      if blocked || c.snap.latCopy then costMark q (c.snap.latCopy && !blocked) c
      else
        let guarded := d.opc == 4 && SMap.get 0 d.samp 1 == 1
        let commit := d.opc == 4 && !guarded
        let c := costMark q false c
        let c := stepChange commit { c with wvm.wants := none, wvm.hold := some w }
        let c := if guarded then { c with wvm.guarded := satAdd 16 c.wvm.guarded 1 } else c
        let c := if commit && d.wFreeze then stepFreeze d.wSnapGen c else c
        let what := if commit then 1 else if guarded then 3 else 2
        let c := emit 0x0B pWVM (BitVec.ofNat 64 what) (pack [(0, 32, c.wvm.opt), (32, 32, c.wvm.batch)]) c
        finishWork q c

/-! ## Registers (R387) -/

/-- WVM_STEP (Table 15.8). -/
def wvmStepWrite (v : W64) (c : Chip) : Chip :=
  if (classDescs c 7 Desc.started).isEmpty && c.wvm.rgns.all fun p => decide (p.2.other ≠ .pend) then
    { c with wvm.opt := fld v 0 32, wvm.batch := fld v 32 32 }
  else { c with wvm.cfgErr := true }

/-- Regions that some running OPEN waits for. -/
def openWaits (c : Chip) : List Nat :=
  (classDescs c 7 fun e => decide (e.phase = .running ∧ e.opc = 3)).flatMap fun p =>
    (p.2.arrs.filter fun a => a.2 == 1).map Prod.fst

/-- Number of the state of the non-current slot. -/
def Other.code : Other → Nat
  | .empty => 0 | .prev => 1 | .pend => 2

/-- WVM_RGN_CFG (Table 15.10). -/
def Rgn.cfgWord (r : Rgn) : W64 := pack [(0, 48, r.len), (48, 1, b2n r.kind), (49, 1, b2n r.trickle), (63, 1, b2n r.valid)]

/-- WVM_RGN_STATE (Table 15.11). -/
def rgnStateWord (c : Chip) (g : Nat) : W64 :=
  let r := rgnOf c g
  pack [(0, 1, b2n r.curB), (1, 2, r.other.code), (3, 1, b2n r.frozenA), (4, 1, b2n r.frozenB),
    (5, 1, b2n ((openWaits c).contains g)), (16, 16, pinsOn c g 0), (32, 16, pinsOn c g 1),
    (48, 8, min 255 (writersOn c g))]

/-- WVM_RGN_FIRST. -/
def Rgn.firstWord (r : Rgn) : W64 := pack [(0, 32, r.firstA), (32, 32, r.firstB)]

/-- WVM_PIN (Table 15.12). -/
def PinH.word (h : PinH) : W64 := pack [(0, 11, h.first), (16, 12, h.count), (31, 1, b2n h.valid), (32, 32, h.step)]

/-- Reads of the WVM page. -/
def wvmRead (c : Chip) (off : Nat) : W64 :=
  let r := rgnOf c c.wvm.sel
  match off with
  | 0x100 => pack [(0, 32, c.wvm.opt), (32, 32, c.wvm.batch)]
  | 0x108 => pack [(0, 11, c.wvm.sel)]
  | 0x110 => pack [(6, 58, r.aBase / 64)]
  | 0x118 => pack [(6, 58, r.bBase / 64)]
  | 0x120 => r.cfgWord
  | 0x128 => rgnStateWord c c.wvm.sel
  | 0x130 => r.firstWord
  | 0x138 => pack [(0, 8, c.wvm.pinSel)]
  | 0x140 => (handleOf c c.wvm.pinSel).word
  | 0x148 =>
    let st := if c.wvm.hold.isSome then 3 else if c.wvm.wants.isSome then 2
      else if (classDescs c 7 Desc.started).isEmpty then 0 else 1
    pack [(0, 2, st), (8, 1, b2n !(openWaits c).isEmpty), (16, 16, c.wvm.guarded), (63, 1, b2n c.wvm.cfgErr)]
  | 0x150 => pack [(0, 32, c.wvm.commits), (32, 32, c.wvm.skips)]
  | 0x158 => pack [(0, 32, c.wvm.snapOpt), (32, 1, b2n c.wvm.snapGen), (33, 1, b2n c.wvm.snapV)]
  | _ => 0#64

/-- Writes of the WVM page. -/
def wvmWrite (off : Nat) (v : W64) (c : Chip) : Chip :=
  match off with
  | 0x100 => wvmStepWrite v c
  | 0x108 => { c with wvm.sel := fld v 0 11 }
  | 0x138 => { c with wvm.pinSel := fld v 0 8 }
  | 0x148 => if bitAt v 63 then { c with wvm.cfgErr := false } else c
  | _ => c

end Sys2Proof.Machine
end

