-- ==== Sys2Proof/Machine/Snap.lean ====
section
/-! DEFINITION. Snapshots, Spares and Restarts: streams and tees, the SNAP descriptors, digests, the STATE record, and the
registers of the SNAP page (R436 to R454). -/

namespace Sys2Proof.Machine

/-! ## Streams (R436, Table 18.9) -/

def streamOf (c : Chip) (s : Nat) : Stream := SMap.get Stream.reset c.snap.streams s
def setStream (s : Nat) (x : Stream) (c : Chip) : Chip := { c with snap.streams := SMap.set .reset c.snap.streams s x }

/-- Bytes of the STATE record on Herend. -/
def stateLen : Nat := 917568

/-- KIND of a stream: 0 none or STATE, 1 RIDE, 2 JOURNAL, 3 TRICKLE. -/
def strKind (c : Chip) (s : Nat) : Nat := if s = 0 then 0 else fld (streamOf c s).cfg 0 2
/-- REGION of a stream. -/
def strRegion (c : Chip) (s : Nat) : Nat := fld (streamOf c s).cfg 4 11
/-- LEN of a stream; that of stream 0 is fixed. -/
def strLen (c : Chip) (s : Nat) : Nat := if s = 0 then stateLen else fld (streamOf c s).cfg 16 48
/-- LMEM offset of a stream's source. -/
def strSrc (c : Chip) (s : Nat) : Nat := 64 * fld (streamOf c s).src 6 22
/-- LMEM offset of a stream's bitmap. -/
def strMap (c : Chip) (s : Nat) : Nat := 64 * fld (streamOf c s).src 32 22
/-- The base of a stream in a generation. -/
def strGen (c : Chip) (s : Nat) (g : Bool) : Nat := if g then (streamOf c s).genB.toNat else (streamOf c s).genA.toNat
/-- A stream is valid: stream 0, or its KIND is nonzero. -/
def strValid (c : Chip) (s : Nat) : Bool := s == 0 || strKind c s != 0

/-- The header of a generation. -/
def genHdr (c : Chip) (g : Bool) : Nat := if g then c.snap.hdrB.toNat else c.snap.hdrA.toNat

/-- The FILLING generation. -/
def fillingGen (c : Chip) : Option Bool :=
  if c.snap.stA = 1 then some false else if c.snap.stB = 1 then some true else none

/-- Blocks of a RIDE stream. -/
def strBlocks (c : Chip) (s : Nat) : Nat := ceilDiv (strLen c s) 4096

/-- Bytes of a RIDE stream's bitmap. -/
def mapBytes (c : Chip) (s : Nat) : Nat := roundUp (ceilDiv (strBlocks c s) 8) 64

/-- Covered blocks of a RIDE stream. -/
def coveredBlocks (c : Chip) (s : Nat) : Nat :=
  if strKind c s = 1 then
    ((rangeFrom 0 (strBlocks c s)).filter fun j => (Mem.get c.lmem.mem (strMap c s + j / 8)).toNat.testBit (j % 8)).length
  else 0

/-- Writes LMEM where it is mapped; a range past its end is not. -/
def snapLmem (off : Nat) (bs : List Byte) (c : Chip) : Chip := if inLmem off bs.length then lmemWrite off bs c else c

/-- Clears the bitmap of a stream and gives it a tag. -/
def clearMap (s tag : Nat) (c : Chip) : Chip :=
  let c := snapLmem (strMap c s) (List.replicate (mapBytes c s) 0#8) c
  setStream s { streamOf c s with tag := tag, digs := [] } c

/-- Sets the bit of a block. -/
def setMapBit (s j : Nat) (c : Chip) : Chip :=
  let a := strMap c s + j / 8
  snapLmem a [Mem.get c.lmem.mem a ||| (1#8 <<< (j % 8))] c

/-! ## Digests (R445) -/

/-- The words of a block, little-endian, zero past its end. -/
def blockWords (bs : List Byte) : List Nat :=
  (rangeFrom 0 (ceilDiv bs.length 8)).map fun i => leNat ((bs.drop (8 * i)).take 8)

/-- The term of block `b` of a sequence. -/
def digestBlock (b : Nat) (bs : List Byte) : Nat :=
  ((rangeFrom 0 (ceilDiv bs.length 8)).zip (blockWords bs)).foldl (fun h p =>
    let n := b * 2 ^ 96 + p.1 * 2 ^ 64 + p.2
    genWord 0 h n + 2 ^ 32 * genWord 1 h n) bs.length

/-- The terms of the 4,096-byte blocks of a sequence. -/
def digestTerms (bs : List Byte) : SMap Nat :=
  (rangeFrom 0 (ceilDiv bs.length 4096)).map fun b => (b, digestBlock b ((bs.drop (4096 * b)).take 4096))

/-- The digest that terms add up to. -/
def digestSum (ts : SMap Nat) : Nat := (ts.map Prod.snd).foldl (· + ·) 0 % 2 ^ 64

/-- The digest of a byte sequence. -/
def digestOf (bs : List Byte) : Nat := digestSum (digestTerms bs)

/-! ## Tees (R440, R441) -/

/-- Blocks that the tee buffer of 256 KiB holds. -/
def teeRoom (c : Chip) : Bool := decide (c.snap.tees.length < 64)

/-- A tee block that is not written. -/
def countIdle (c : Chip) : Chip := { c with snap.teeIdle := satAdd 16 c.snap.teeIdle 1 }

/-- Tees one stream block of a PUT, whose writes carry the layout epoch of its start (R393). -/
def teeBlock (s j tag lEpoch : Nat) (bs : List Byte) (c : Chip) : Chip :=
  match fillingGen c with
  | none => countIdle c
  | some g =>
    if (c.snap.latched && decide (c.snap.batchC < tag)) || decide (tag < (streamOf c s).tag) then countIdle c
    else
      let c := if (streamOf c s).tag < tag then clearMap s tag c else c
      let id := c.snap.teeNext
      askRange (.tee id) .wr (byteAddr (strGen c s g) (4096 * j)) bs.length bs vcSnap
        { c with snap.tees := c.snap.tees ++ [⟨id, lEpoch, s, j, tag, bs.length, digestBlock j bs, false⟩], snap.teeNext := id + 1 }

/-- TEE_BLOCK_ACK (R441): a tee block whose writes have all been answered sets its bit, or is counted as failed. -/
def teeBlockAck (k : Nat) (c : Chip) : Chip :=
  match c.snap.tees[k]? with
  | none => c
  | some t =>
    if reqsOf c (.tee t.id) ≠ 0 then c
    else
      let c := { c with snap.tees := c.snap.tees.eraseIdx k }
      if t.failed then { c with snap.teefail := satAdd 16 c.snap.teefail 1 }
      else if (streamOf c t.stream).tag = t.tag then
        let c := setMapBit t.stream t.block c
        let x := streamOf c t.stream
        setStream t.stream { x with digs := SMap.insert t.digest x.digs t.block } c
      else c

/-! ## Payload (Table 18.6) -/

def Desc.nGen (d : Desc) : Bool := (d.bytes 16 1).testBit 0
def Desc.nFirst (d : Desc) : Nat := bits (d.bytes 18 2) 0 10
def Desc.nCount (d : Desc) : Nat := bits (d.bytes 20 2) 0 11
def Desc.nPos (d : Desc) : Nat := d.bytes 24 4
def Desc.nEpoch (d : Desc) : Nat := d.bytes 28 4
def Desc.nSrc (d : Desc) : Nat := d.bytes 32 8
def Desc.nLen (d : Desc) : Nat := d.bytes 40 6
def Desc.nDst (d : Desc) : Nat := d.bytes 48 8
def Desc.nExpect (d : Desc) : Nat := d.bytes 56 8

/-- Streams of the range. -/
def Desc.nStreams (d : Desc) : List Nat := rangeFrom d.nFirst d.nCount

/-- Opcodes that name FIRST and COUNT. -/
def snapRange (opc : Nat) : Bool := opc == 2 || opc == 3 || opc == 6

/-- Bits of payload words 2 to 7 that a descriptor uses (Tables 18.5 and 18.6). -/
def snapUsed (d : Desc) : List W64 :=
  let ones : W64 := maskOf [(0, 64)]
  match d.opc with
  | 2 => [maskOf [(0, 1), (16, 10), (32, 11)], 0, 0, 0, 0, 0]
  | 3 => [maskOf [(0, 1), (16, 10), (32, 11)], 0, 0, 0, 0, 0]
  | 5 => [0, 0, ones, maskOf [(0, 48)], ones, ones]
  | 6 => [maskOf [(0, 1), (16, 10), (32, 11)], if d.nFirst = 0 then ones else 0, 0, 0, 0, 0]
  | _ => [maskOf [(0, 1)], 0, 0, 0, 0, 0]

def snapFields (d : Desc) : Bool :=
  (((snapUsed d).zip ((rangeFrom 2 6).map d.word)).all fun p => (p.2 &&& ~~~p.1) == 0#64)
    && (d.opc != 5 || (aligned 8 d.nDst && aligned 8 d.nExpect))

/-- Streams of a kind in the range. -/
def kindIn (c : Chip) (d : Desc) (k : Nat) : List Nat := d.nStreams.filter fun s => strKind c s == k

/-- Byte ranges on this core (R444). -/
def snapRanges (c : Chip) (d : Desc) : List Span :=
  if d.opc = 2 then (kindIn c d 2).map fun s => ⟨strSrc c s, strLen c s, false⟩
  else if d.opc = 5 then
    (if isSelf c d.nSrc then [⟨offOf d.nSrc, d.nLen, false⟩] else [])
      ++ (if d.nDst ≠ 0 ∧ isSelf c d.nDst then [⟨offOf d.nDst, 8, true⟩] else [])
      ++ (if d.nExpect ≠ 0 then [⟨offOf d.nExpect, 8, false⟩] else [])
  else []

/-- The slot frozen by the latching COMMIT, and frozen still (R443). -/
def frozenSlot (c : Chip) (g : Nat) : Option Nat :=
  let r := rgnOf c g
  r.latSlot.filter fun s => r.valid && r.frozen s

/-- A stream's source meets a name range (R437). -/
def srcNamed (c : Chip) (s : Nat) : Bool :=
  (nameRanges c).any fun r => rangesMeet (strSrc c s) (strLen c s) r.2.1 r.2.2

/-- R437 on the streams that a descriptor uses. -/
def streamsBad (c : Chip) (d : Desc) : Bool :=
  let src := if d.opc = 2 then kindIn c d 2 else if d.opc = 6 then kindIn c d 1 ++ kindIn c d 2 else []
  let tri := if d.opc = 3 ∨ d.opc = 6 then kindIn c d 3 else []
  src.any (srcNamed c) || tri.any fun s => strLen c s != (rgnOf c (strRegion c s)).len

/-- R439: a BEGIN is refused. -/
def beginBad (c : Chip) (g : Bool) : Bool :=
  (fillingGen c).isSome || (genState c g == 2 && genState c (!g) != 2)
    || (genState c g == 2 && genState c (!g) == 2 && decide (genStep c (!g) < genStep c g))

/-- Pages that a RESTORE needs quiesced (R448). -/
def restorePages : List Nat := [pMXA, pMVP, pVEC, pRDU, pDMA, pXPB, pWVM]

/-- R448: a RESTORE is refused. -/
def restoreBad (c : Chip) (d : Desc) : Bool :=
  !(restorePages.all (quiesced c)) || (ownLcn c).isNone
    || (kindIn c d 3).any fun s =>
        let g := strRegion c s
        decide ((rgnOf c g).other = .pend) || decide (pinsOn c g 0 + pinsOn c g 1 ≠ 0)

/-- Step 8 in the order of R453. -/
def snapOwn (c : Chip) (d : Desc) : Option Cause :=
  if streamsBad c d || (d.opc == 1 && beginBad c d.nGen) then some .descMalformed
  else if (d.opc == 2 || d.opc == 3) && !(genState c d.nGen == 1 && c.snap.latched) then some .descMalformed
  else if d.opc == 3 && !((kindIn c d 3).all fun s => (frozenSlot c (strRegion c s)).isSome) then some .versionAbsent
  else if d.opc == 6 && restoreBad c d then some .descMalformed
  else none

/-- The slots that a TRICKLE reads. -/
def trickleSlots (c : Chip) (d : Desc) : List (Nat × Nat) :=
  ((kindIn c d 3).filterMap fun s => (frozenSlot c (strRegion c s)).map fun k => (strRegion c s, k)).eraseDups

/-- Descriptors that run alone (R452). -/
def snapAlone (opc : Nat) : Bool := opc == 1 || opc == 4 || opc == 6

/-- SNAP descriptors that run. -/
def snapRunning (c : Chip) : List (Nat × Desc) := classDescs c 6 Desc.started

/-- SNAP has room for one more descriptor: 8 run at once, and BEGIN, CLOSE and RESTORE run alone; this holds for a NOP too. -/
def snapRoom (c : Chip) (_ : Nat) (d : Desc) : Bool :=
  let rs := snapRunning c
  decide (rs.length < 8) && (if snapAlone d.opc then rs.isEmpty else rs.all fun p => !snapAlone p.2.opc)

def snapCanStart (c : Chip) (n : Nat) (d : Desc) : Bool := snapRoom c n d && (d.opc != 3 || pinsFit c (trickleSlots c d))

/-- What a start keeps of the registers (R21): the header addresses (keys 50 and 51), the latch area (52), and of each stream that it
copies the generation base, the length and the region (keys 1000 + 4 s + 0 to 2). -/
def snapKeep (c : Chip) (d : Desc) (ss : List Nat) : SMap Int :=
  let nat (k v : Nat) : Nat × Int := (k, (v : Int))
  [nat 50 (genHdr c false), nat 51 (genHdr c true), nat 52 (64 * fld c.snap.cfg 24 24)]
    ++ ss.flatMap fun s => [nat (1000 + 4 * s) (strGen c s d.nGen), nat (1001 + 4 * s) (strLen c s), nat (1002 + 4 * s) (strRegion c s)]

/-- The header address of a generation as a descriptor's start found it. -/
def Desc.hdr (d : Desc) (g : Bool) : Nat := (SMap.get 0 d.samp (50 + b2n g)).toNat
/-- The latch area as a descriptor's start found it. -/
def Desc.latchOff (d : Desc) : Nat := (SMap.get 0 d.samp 52).toNat
/-- The generation base, length and region of a stream as a descriptor's start found them. -/
def Desc.strBase (d : Desc) (s : Nat) : Nat := (SMap.get 0 d.samp (1000 + 4 * s)).toNat
def Desc.strBytes (d : Desc) (s : Nat) : Nat := (SMap.get 0 d.samp (1001 + 4 * s)).toNat
def Desc.strRgn (d : Desc) (s : Nat) : Nat := (SMap.get 0 d.samp (1002 + 4 * s)).toNat

/-- The start: JOURNAL reads its sources as they resolve, TRICKLE takes its pins, RESTORE runs (R442, R443, R448). -/
def snapOnStart (n : Nat) (d : Desc) (c : Chip) : Chip :=
  let ss := if d.opc = 2 then kindIn c d 2 else if d.opc = 3 then kindIn c d 3 else []
  let d := { d with samp := snapKeep c d ss, arrs := ss.map fun s => (s, 1) }
  if d.opc = 2 then
    let offs := (ss.flatMap fun s => rangeFrom (strSrc c s) (strLen c s)).map fun o => offOf (mapAddr c d.rmap (selfLcn * 2 ^ 44 + o))
    let (bad, c) := eccRead 5 offs c
    if bad then abandonDesc n d.idx .eccUncorr c
    else
      putDesc n { d with part := offs.map fun o => (Mem.get c.lmem.mem o).toNat } c
  else if d.opc = 3 then putDesc n { d with pins := trickleSlots c d } c
  else if d.opc = 6 then putDesc n d { c with snap.rsState := 1 }
  else putDesc n d c

/-- The SNAP class. -/
def snapClass : EngineClass :=
  { opcOk := fun d => decide (1 ≤ d.opc ∧ d.opc ≤ 7) && !d.chain && decide (d.engf = 0)
    present := fun _ _ => true
    noop := fun d => (snapRange d.opc && d.nCount == 0) || (d.opc == 5 && d.nLen == 0)
    fields := snapFields
    tens := fun _ => []
    raws := fun _ _ => []
    shape := fun _ _ => true
    ranges := snapRanges
    windows := fun _ d => !snapRange d.opc || decide (d.nFirst + d.nCount ≤ 1024)
    own := snapOwn
    wvsel := fun _ => 0
    units := fun _ _ => [11]
    canStart := snapCanStart
    onStart := snapOnStart
    idleStart := snapRoom
    unmapped := fun c d => d.opc == 5 &&
      (pastEnd d.nSrc d.nLen || (d.nExpect != 0 && !(isSelf c d.nExpect && inLmem (offOf d.nExpect) 8))) }

/-! ## Headers and entries (Table 18.2) -/

/-- Bytes with no stated value. -/
def freeBytes (n : Nat) (c : Chip) : List Byte × Chip :=
  ((rangeFrom c.free n).map fun i => BitVec.ofNat 8 (Config.freeNat i), { c with free := c.free + n })

/-- MAGIC, STATE with GEN, and LCN: bytes 0 to 11 of a header. -/
def hdrStart (c : Chip) (g : Bool) (st : Nat) : List Byte :=
  leBytes 4 0xAC2E5A01 ++ leBytes 4 (st + 4 * b2n g) ++ leBytes 4 (srcLcn c)

/-- The header of a generation that CLOSE writes. -/
def hdrBytes (c : Chip) (g : Bool) (st : Nat) : List Byte :=
  hdrStart c g st ++ leBytes 4 (genStep c g) ++ leBytes 4 c.snap.latBatch ++ leBytes 4 c.snap.latEpoch
    ++ leBytes 8 c.snap.latTime ++ leBytes 8 (now c) ++ List.replicate 24 0#8

/-- A stream entry. -/
def entryBytes (c : Chip) (digest : Nat) (s : Nat) : List Byte :=
  leBytes 6 (strLen c s) ++ leBytes 1 (strKind c s) ++ leBytes 1 (b2n (strValid c s)) ++ leBytes 8 digest

/-- Sends a write of a SNAP descriptor on the SNAP channel. -/
def snapSend (q : DescRef) (a : Nat) (bs : List Byte) (c : Chip) : Chip :=
  askRange (.desc q.ring q.idx) .wr a bs.length bs vcSnap c

/-- Sets the progress of a descriptor. -/
def setProg (q : DescRef) (k : Nat) (c : Chip) : Chip :=
  updRing q.ring (fun r => { r with descs := r.descs.map fun d => if d.idx = q.idx then { d with prog := k } else d }) c

/-- Every request of a descriptor has been answered. -/
def allAcked (c : Chip) (q : DescRef) : Bool := reqsOf c (.desc q.ring q.idx) == 0

/-! ## BEGIN, JOURNAL, TRICKLE -/

/-- What the generation holds nothing of: every bitmap is clear and no stream is done. -/
def beginStreams (c : Chip) : Chip :=
  let ss := (c.snap.streams.map Prod.fst).filter fun s => strKind c s != 0
  ss.foldl (fun c s =>
    let c := if strKind c s = 1 then clearMap s (streamOf c s).tag c else c
    setStream s { streamOf c s with done := false, digs := [] } c) c

/-- BEGIN (R438, R439): the header is written FILLING; once that is acknowledged the generation fills. -/
def snapBegin (q : DescRef) (c : Chip) : Chip :=
  onRunning q 6 1 (fun d c =>
    if d.prog = 0 then
      let (fs, c) := freeBytes 28 c
      let bs := hdrStart c d.nGen 1 ++ fs ++ List.replicate 24 0#8 ++ List.replicate (16 * 1024) 0#8
      setProg q 1 (snapSend q (d.hdr d.nGen) bs c)
    else if allAcked c q then
      finishWork q (setGen d.nGen 1 (beginStreams { c with snap.latched := false, snap.costNs := 0 }))
    else c) c

/-- Notes what was written of a stream. -/
def noteDigest (s : Nat) (bs : List Byte) (c : Chip) : Chip := setStream s { streamOf c s with digs := digestTerms bs } c

/-- Marks streams as done. -/
def markDone (ss : List Nat) (c : Chip) : Chip :=
  ss.foldl (fun c s => setStream s { streamOf c s with done := true } c) c

/-- A write of a descriptor to a range is unanswered. -/
def writesTo (c : Chip) (q : DescRef) (a n : Nat) : Bool :=
  (c.outbox ++ c.tlk.out ++ c.tlk.heldReqs ++ c.tlk.waitReqs ++ c.hport.out).any fun r =>
    r.who == .desc q.ring q.idx && r.kind == .wr && decide (a ≤ r.addr ∧ r.addr < a + n)

/-- A stream whose writes by a JOURNAL are all acknowledged is DONE, whatever becomes of the others (R442). -/
def journalDone (n : Nat) (d : Desc) (c : Chip) : Chip :=
  let acked := (d.arrs.filter fun x => x.2 == 1 && !writesTo c ⟨n, d.idx⟩ (d.strBase x.1) (d.strBytes x.1)).map Prod.fst
  if acked.isEmpty then c
  else markDone acked (putDesc n { d with arrs := d.arrs.map fun x => if acked.contains x.1 then (x.1, 3) else x } c)

/-- Every JOURNAL that has sent its streams takes note of what has been acknowledged. -/
def noteJournals (c : Chip) : Chip :=
  (classDescs c 6 fun d => decide (d.phase = .running ∧ d.opc = 2 ∧ d.prog = 1)).foldl (fun c p => journalDone p.1 p.2 c) c

/-- JOURNAL (R442). -/
def snapJournal (q : DescRef) (c : Chip) : Chip :=
  onRunning q 6 2 (fun d c =>
    if d.prog = 0 then
      let r := (d.arrs.map Prod.fst).foldl (fun (x : List Nat × Chip) s =>
        let n := d.strBytes s
        let bs := (x.1.take n).map (BitVec.ofNat 8)
        (x.1.drop n, noteDigest s bs (snapSend q (d.strBase s) bs x.2))) (d.part, c)
      setProg q 1 r.2
    else if allAcked c q then
      finishWork q { journalDone q.ring d c with snap.costNs := c.snap.costNs + (now c - d.tStart.getD (now c)) }
    else c) c

/-- Copies the frozen slots of the streams that have not been sent. -/
def trickleSend (q : DescRef) : List Nat → Chip → Chip
  | [], c => c
  | s :: ss, c =>
    match descOf c q with
    | none => c
    | some d =>
      match d.pins.find? fun p => p.1 == d.strRgn s with
      | none => trickleSend q ss c
      | some p =>
        let a := (rgnOf c p.1).base p.2
        andThen q (engineFetch 5 vcData q.ring q.idx ((rangeFrom 0 (d.strBytes s)).map (byteAddr a)) c) fun c =>
          match descOf c q with
          | none => c
          | some d =>
            let bs := (rangeFrom 0 (d.strBytes s)).map fun i => fetched c d (byteAddr a i)
            let c := noteDigest s bs (snapSend q (d.strBase s) bs c)
            trickleSend q ss (setArrs q (d.arrs.map fun x => if x = (s, 1) then (s, 2) else x) c)

/-- Ends a TRICKLE whose regions are all done. -/
def trickleEnd (q : DescRef) (c : Chip) : Chip :=
  match descOf c q with
  | some d => if d.phase = .running ∧ d.arrs.all (fun x => x.2 == 3) then finishWork q c else c
  | none => c

/-- TRICKLE (R443). -/
def snapTrickle (q : DescRef) (c : Chip) : Chip :=
  onRunning q 6 3 (fun d c => trickleEnd q (trickleSend q ((d.arrs.filter fun x => x.2 == 1).map Prod.fst) c)) c

/-- TRICKLE_REGION_DONE (R443): a region's copy is acknowledged; its slot thaws and its stream is done. -/
def trickleRegionDone (region : Nat) (c : Chip) : Chip :=
  let sent (d : Desc) : Option Nat := (d.arrs.find? fun x => x.2 == 2 && d.strRgn x.1 == region).map Prod.fst
  match (classDescs c 6 fun d => decide (d.phase = .running ∧ d.opc = 3) && (sent d).isSome).head? with
  | none => c
  | some (n, d) =>
    let q : DescRef := ⟨n, d.idx⟩
    match sent d, d.pins.find? fun p => p.1 == region with
    | some s, some p =>
      if writesTo c q (d.strBase s) (d.strBytes s) then c
      else
        let c := updRgn region (fun r =>
          { r with frozenA := r.frozenA && p.2 != 0, frozenB := r.frozenB && p.2 == 0
                   latSlot := if r.latSlot = some p.2 then none else r.latSlot }) c
        let c := setArrs q (d.arrs.map fun x => if x = (s, 2) then (s, 3) else x) c
        trickleEnd q (markDone [s] c)
    | _, _ => c

/-! ## CLOSE (R446) -/

/-- A stream of the generation is whole. -/
def strWhole (c : Chip) (s : Nat) : Bool :=
  match strKind c s with
  | 1 => decide ((streamOf c s).tag = c.snap.batchC) && coveredBlocks c s == strBlocks c s
  | 0 => true
  | _ => (streamOf c s).done

/-- Every valid stream. -/
def validStreams (c : Chip) : List Nat := (c.snap.streams.map Prod.fst).filter fun s => strKind c s != 0

/-- LMEM offset of the STATE record. -/
def latchAt (c : Chip) : Nat := 64 * fld c.snap.cfg 24 24

/-- The counters as the STATE record holds them. -/
def ctrBytes (c : Chip) : List Byte := (rangeFrom 0 Config.counters).flatMap fun n => leBytes 8 (ctrRead c n)

/-- CLOSE (R446). -/
def snapClose (q : DescRef) (c : Chip) : Chip :=
  onRunning q 6 4 (fun d c =>
    let g := d.nGen
    if !c.snap.tees.isEmpty then c
    else if d.prog = 0 then
      let maps := (validStreams c).filter (fun s => strKind c s == 1)
      let (bad, c) := eccRead 5 (maps.flatMap fun s => rangeFrom (strMap c s) (mapBytes c s)) c
      if bad then abandonDesc q.ring q.idx .eccUncorr c
      else if !((validStreams c).all (strWhole c)) then
        let c := setGen g 3 (snapSend q (d.hdr g) (hdrBytes c g 3) c)
        abandonDesc q.ring q.idx .snapIncomplete { c with snap.latched := false }
      else
        let c := snapLmem (d.latchOff + 0x60040) (ctrBytes c) c
        let (bad, c) := eccRead 5 (rangeFrom d.latchOff stateLen) c
        if bad then abandonDesc q.ring q.idx .eccUncorr c
        else
          let rec' := lmemBytes c d.latchOff stateLen
          let c := snapSend q (strGen c 0 g) rec' c
          let es := (rangeFrom 0 1024).flatMap fun s =>
            entryBytes c (if s = 0 then digestOf rec' else digestSum (streamOf c s).digs) s
          setProg q 1 (snapSend q (byteAddr (d.hdr g) 64) es c)
    else if allAcked c q then
      let c := setGen g 2 (snapSend q (d.hdr g) (hdrBytes c g 2) c)
      let us := min (c.snap.costNs / 1000) (2 ^ 32 - 1)
      finishWork q { c with snap.lastUs := us, snap.costNs := 0, snap.latched := false }
    else c) c

/-- ABANDON (R439): a FILLING generation is marked ABANDONED, in its header's STATE byte and in SNAP_GEN_STAT. -/
def snapAbandon (q : DescRef) (c : Chip) : Chip :=
  onRunning q 6 7 (fun d c =>
    let g := d.nGen
    if genState c g = 1 then
      let c := snapSend q (byteAddr (d.hdr g) 4) [BitVec.ofNat 8 (3 + 4 * b2n g)] c
      finishWork q { setGen g 3 c with snap.latched := false }
    else finishWork q c) c

/-! ## The latch copy (R438, Table 18.3) -/

/-- A slot of the scale tracker as the STATE record holds it. -/
def slotRecord (s : SctSlot) : List Byte :=
  leBytes 8 s.cfg.toNat ++ leBytes 8 (packNat [(0, 8, s.x), (16, 16, s.good)]) ++ leBytes 8 s.hist.length
    ++ ((s.hist ++ List.replicate (32 - s.hist.length) 0).take 32).flatMap (leBytes 4) ++ List.replicate 40 0#8

/-- SNAP_LATCH_COPY (R438): the latched words and every SCT slot enter the STATE record. -/
def snapLatchCopy (c : Chip) : Chip :=
  if c.snap.latCopy && c.wvm.hold.isNone then
    let g := c.snap.latBatch
    let opt := if c.wvm.snapGen then c.snap.stepB else c.snap.stepA
    let head := leBytes 4 opt ++ leBytes 4 g ++ leBytes 8 c.snap.batchC ++ leBytes 8 c.snap.latGen ++ leBytes 8 c.snap.latEpoch
      ++ List.replicate 32 0#8
    let slots := (rangeFrom 0 sctSlots).flatMap fun s => slotRecord (slotOf c s)
    let c := { snapLmem (latchAt c) (head ++ slots) c with snap.latCopy := false }
    match c.wvm.wants with
    | some w => costMark ⟨w.1, w.2⟩ false c
    | none => c
  else c

/-! ## DIGEST (R444, R445) -/

/-- DIGEST: of bytes on any core; written, then compared. -/
def snapDigest (q : DescRef) (c : Chip) : Chip :=
  onRunning q 6 5 (fun d c =>
    let names := (rangeFrom 0 d.nLen).map (byteAddr d.nSrc)
    let ex := if d.nExpect = 0 then [] else (rangeFrom 0 8).map (byteAddr d.nExpect)
    withBytes 5 vcData q d (names ++ ex) (fun d c =>
      let h := digestOf (names.map (rdByte c d))
      let bs := if d.nDst = 0 then [] else leBytes 8 h
      let cells := ((rangeFrom 0 bs.length).zip bs).map fun p => (mapAddr c d.wmap (byteAddr d.nDst p.1), p.2)
      andThen q (engineWrite 5 vcData q.ring q.idx [] cells c) fun c =>
        if d.nExpect ≠ 0 ∧ leNat (ex.map (rdByte c d)) ≠ h then
          abandonDesc q.ring q.idx .restoreMismatch { c with snap.mismatch := true }
        else finishWork q c) c) c

/-! ## RESTORE (R448, R449) -/

/-- A number in the bytes that a RESTORE has read. -/
def rsNat (c : Chip) (d : Desc) (a off n : Nat) : Nat := leNat ((rangeFrom 0 n).map fun i => fetched c d (byteAddr a (off + i)))

/-- The state that a header gives its generation: one without the MAGIC is EMPTY. -/
def hdrState (c : Chip) (d : Desc) (g : Bool) : Nat :=
  let a := d.hdr g
  if rsNat c d a 0 4 = 0xAC2E5A01 then bits (rsNat c d a 4 1) 0 2 else 0

/-- The next stage of a RESTORE after stream `s`: 4 × stream + 1, or 2 for stream 0 and the end. -/
def restoreNext (c : Chip) (d : Desc) (s : Nat) : Nat :=
  match d.nStreams.find? fun k => decide (s < k) && strKind c k != 0 with
  | some k => 4 * k + 1
  | none => 2

/-- Reads for a RESTORE: a read that fails ends it with SNAP_INCOMPLETE. -/
def restoreRead (q : DescRef) (as : List Nat) (f : Desc → Chip → Chip) (c : Chip) : Chip :=
  match engineFetch 5 vcData q.ring q.idx as c with
  | (.ready, c) =>
    match descOf c q with
    | some d => f d c
    | none => c
  | (.missing, c) => c
  | (.failed _, c) => failRestore q.ring q.idx .snapIncomplete c

/-- Steps 1 and 2: the headers. -/
def restoreHeaders (q : DescRef) (d : Desc) (c : Chip) : Chip :=
  let g := d.nGen
  let as := (rangeFrom 0 16448).map (byteAddr (d.hdr g)) ++ (rangeFrom 0 64).map (byteAddr (d.hdr !g))
  restoreRead q as (fun d c =>
    let a := d.hdr g
    let wrong := (rangeFrom 0 1024).any fun s =>
      rsNat c d a (64 + 16 * s) 6 != strLen c s || bits (rsNat c d a (64 + 16 * s + 6) 1) 0 2 != strKind c s
    if hdrState c d g ≠ 2 then endRestore q.ring q.idx d.nFirst .snapIncomplete c
    else if ownLcn c ≠ some (bits (rsNat c d a 8 4) 0 20) || wrong then
      endRestore q.ring q.idx d.nFirst .restoreMismatch c
    else
      let sa := hdrState c d false
      let sb := hdrState c d true
      let ta := rsNat c d (d.hdr false) 12 4
      let tb := rsNat c d (d.hdr true) 12 4
      let c := { c with snap.stepA := ta, snap.stepB := tb }
      setProg q (restoreNext c d 0) (setGen true sb (setGen false sa c))) c

/-- A restored region (R448 step 3). -/
def Rgn.restored (step : Nat) (r : Rgn) : Rgn :=
  { r with firstA := if r.curB then 0 else step, firstB := if r.curB then step else 0, other := .empty
           frozenA := false, frozenB := false, latSlot := none }

/-- Step 3 for one stream. -/
def restoreStream (q : DescRef) (d : Desc) (s : Nat) (c : Chip) : Chip :=
  let g := d.nGen
  let a := strGen c s g
  let n := strLen c s
  restoreRead q ((rangeFrom 0 n).map (byteAddr a)) (fun d c =>
    let bs := (rangeFrom 0 n).map fun i => fetched c d (byteAddr a i)
    if digestOf bs ≠ rsNat c d (d.hdr g) (64 + 16 * s + 8) 8 then endRestore q.ring q.idx s .restoreMismatch c
    else
      let rg := strRegion c s
      let dest := if strKind c s = 3 then (rgnOf c rg).base (rgnOf c rg).cur else selfLcn * 2 ^ 44 + strSrc c s
      andThen q (engineWrite 5 vcData q.ring q.idx [] (((rangeFrom 0 n).zip bs).map fun p => (byteAddr dest p.1, p.2)) c) fun c =>
        let c := if strKind c s = 3 then updRgn rg (Rgn.restored (genStep c g)) c else c
        setProg q (restoreNext c d s) c) c

/-- A slot from its record; reserved bits of its configuration stay 0. -/
def slotOfRecord (bs : List Byte) : SctSlot :=
  let n (a k : Nat) : Nat := leNat ((bs.drop a).take k)
  { cfg := BitVec.ofNat 64 (n 0 8) &&& slotCfgMask, x := n 8 1, good := n 10 2
    hist := (rangeFrom 0 (min 32 (bits (n 16 1) 0 6))).map fun i => n (24 + 4 * i) 4
    amax := 0, taps := 0, fin := true }

/-- A counter after the record (R449). -/
def raiseTo (n v : Nat) (c : Chip) : Chip :=
  let k := ctrOf c n
  if k.poisoned ∨ v ≤ k.value then c else watchCross n k.value v (setCtr n ⟨v, false⟩ c)

/-- Applies the STATE record (R449). -/
def applyState (d : Desc) (bs : List Byte) (c : Chip) : Chip :=
  let n (a k : Nat) : Nat := leNat ((bs.drop a).take k)
  let saved := n 4 4
  let batch := if d.nPos = 0xFFFFFFFF then saved else d.nPos
  let slots := (rangeFrom 0 sctSlots).foldl (fun m s =>
    SMap.set SctSlot.reset m s (slotOfRecord ((bs.drop (64 + 192 * s)).take 192))) []
  let c := { c with
    wvm.opt := n 0 4
    wvm.batch := batch
    sct.gen := n 0x10 4
    sct.slots := slots
    rdu.epoch := n 0x18 4
    sync.epochMin := if epochOlder c.sync.epochMin d.nEpoch then d.nEpoch else c.sync.epochMin }
  let c := (rangeFrom 0 Config.counters).foldl (fun c k => raiseTo k (n (0x60040 + 8 * k) 6) c) c
  if batch ≠ saved then pageFault pSNAP .rngSkew { c with snap.skew := true, snap.batchSaved := saved } else c

/-- Step 4 and the end. -/
def restoreState (q : DescRef) (d : Desc) (c : Chip) : Chip :=
  if !allAcked c q then c
  else if d.nFirst ≠ 0 then finishWork q { c with snap.rsState := 2 }
  else
    let a := strGen c 0 d.nGen
    restoreRead q ((rangeFrom 0 stateLen).map (byteAddr a)) (fun d c =>
      let bs := (rangeFrom 0 stateLen).map fun i => fetched c d (byteAddr a i)
      finishWork q { applyState d bs c with snap.rsState := 2 }) c

/-- The steps of a RESTORE that can be taken now. -/
def restoreSteps (q : DescRef) : Nat → Chip → Chip
  | 0, c => c
  | fuel + 1, c =>
    let c' := onRunning q 6 6 (fun d c =>
      if d.prog % 4 = 0 then restoreHeaders q d c
      else if d.prog % 4 = 1 then restoreStream q d (d.prog / 4) c
      else restoreState q d c) c
    restoreSteps q fuel c'

/-- RESTORE (R448): headers, streams in ascending order, then the STATE record. -/
def snapRestore (q : DescRef) (c : Chip) : Chip := restoreSteps q 1026 c

/-! ## Registers (R436, R454) -/

/-- Stream registers are locked: a generation fills or a RESTORE runs. -/
def streamsLocked (c : Chip) : Bool := (fillingGen c).isSome || (snapRunning c).any fun p => p.2.opc == 6

/-- A stream obeys R436 in what its registers hold together. -/
def streamOk (s : Nat) (x : Stream) : Bool :=
  let k := if s = 0 then 0 else fld x.cfg 0 2
  (k != 1 || (aligned 4096 x.genA.toNat && aligned 4096 x.genB.toNat && aligned 4096 (64 * fld x.src 6 22)))
    && (k != 2 || decide (fld x.cfg 16 48 ≤ 1048576))

/-- A generation base lies in the buddy's host memory aperture. -/
def baseOk (c : Chip) (v : W64) : Bool :=
  let buddy := fld c.snap.cfg 0 20
  decide (buddy ≠ selfLcn) && lcnOf v.toNat == buddy && regionOf (offOf v.toNat) 1 == some .host

/-- A write of a stream register (R436). -/
def snapStreamWrite (off : Nat) (v : W64) (c : Chip) : Chip :=
  let s := c.snap.sel
  let x := streamOf c s
  let adr := maskOf [(6, 58)]
  let y : Option Stream := match off with
    | 0x130 => some { x with cfg := if s = 0 then v &&& maskOf [(4, 11)] else v &&& maskOf [(0, 2), (4, 11), (16, 48)] }
    | 0x138 => some { x with src := v &&& maskOf [(6, 22), (32, 22)] }
    | 0x140 => if baseOk c v then some { x with genA := v &&& adr } else none
    | 0x148 => if baseOk c v then some { x with genB := v &&& adr } else none
    | _ => some x
  match y with
  | some y => if streamsLocked c || !streamOk s y then { c with snap.cfgErr := true } else setStream s y c
  | none => { c with snap.cfgErr := true }

/-- SNAP_ADVISE (R447). -/
def adviseWord (c : Chip) : W64 :=
  if c.snap.lastUs = 0 ∨ c.snap.mtbf = 0 then 0#64
  else pack [(0, 32, isqrt (2 * c.snap.lastUs * c.snap.mtbf / 1000000)), (32, 1, 1)]

/-- SNAP_STR_CFG of a stream. -/
def strCfgWord (c : Chip) (s : Nat) : W64 := pack [(0, 2, strKind c s), (4, 11, strRegion c s), (16, 48, strLen c s)]
/-- SNAP_STR_STATE of a stream. -/
def strStateWord (c : Chip) (s : Nat) : W64 :=
  let x := streamOf c s
  pack [(0, 32, x.tag), (32, 24, coveredBlocks c s), (56, 1, b2n x.done)]

/-- Reads of the SNAP page. -/
def snapRead (c : Chip) (off : Nat) : W64 :=
  let n := c.snap
  let x := streamOf c n.sel
  match off with
  | 0x100 => n.cfg
  | 0x108 => n.hdrA
  | 0x110 => n.hdrB
  | 0x118 => pack [(0, 2, n.stA), (2, 2, n.stB), (4, 1, b2n n.latched), (32, 32, n.batchC)]
  | 0x120 => pack [(0, 32, n.stepA), (32, 32, n.stepB)]
  | 0x128 => pack [(0, 10, n.sel)]
  | 0x130 => strCfgWord c n.sel
  | 0x138 => x.src
  | 0x140 => x.genA
  | 0x148 => x.genB
  | 0x150 => strStateWord c n.sel
  | 0x160 =>
    pack [(0, 16, n.teefail), (16, 16, n.teeIdle), (32, 16, n.xfreeze), (48, 4, (snapRunning c).length), (63, 1, b2n n.cfgErr)]
  | 0x168 =>
    pack [(0, 2, n.rsState), (2, 1, b2n n.skew), (3, 1, b2n n.mismatch), (4, 10, n.rsStream), (16, 32, n.batchSaved)]
  | 0x170 => pack [(0, 32, min (n.costNs / 1000) (2 ^ 32 - 1)), (32, 32, n.lastUs)]
  | 0x178 => pack [(0, 32, n.mtbf)]
  | 0x180 => adviseWord c
  | _ => 0#64

/-- A write of SNAP_STAT with CFGERR = 0. -/
def snapStatClear (c : Chip) : Chip := { c with snap.teefail := 0, snap.teeIdle := 0, snap.xfreeze := 0 }

/-- SNAP_MTBF. -/
def mtbfWrite (v : W64) (c : Chip) : Chip := { c with snap.mtbf := fld v 0 32 }

/-- Writes of the SNAP page. -/
def snapWrite (off : Nat) (v : W64) (c : Chip) : Chip :=
  match off with
  | 0x100 => { c with snap.cfg := v &&& maskOf [(0, 20), (24, 24)] }
  | 0x108 => { c with snap.hdrA := v &&& maskOf [(6, 58)] }
  | 0x110 => { c with snap.hdrB := v &&& maskOf [(6, 58)] }
  | 0x128 => { c with snap.sel := fld v 0 10 }
  | 0x160 => if bitAt v 63 then { c with snap.cfgErr := false } else snapStatClear c
  | 0x168 =>
    { c with snap.skew := c.snap.skew && !bitAt v 2, snap.mismatch := c.snap.mismatch && !bitAt v 3 }
  | 0x178 => mtbfWrite v c
  | _ =>
    if off = 0x130 ∨ off = 0x138 ∨ off = 0x140 ∨ off = 0x148 then snapStreamWrite off v c else c

end Sys2Proof.Machine
end

