-- ==== Sys2Proof/Machine/Tlk.lean ====
section
/-! DEFINITION. TLK's descriptors: PUT with its tee (R423, R424, R440), RESHARD in its phases (R393 to R399), and the
layout guards with the registers of Tables 16.5 to 16.8. -/

namespace Sys2Proof.Machine

/-! ## PUT (Table 17.8) -/

def Desc.putSrc (d : Desc) : Nat := d.bytes 16 8
def Desc.putDst (d : Desc) : Nat := d.bytes 24 8
def Desc.putLen (d : Desc) : Nat := d.bytes 32 6
def Desc.putSnap (d : Desc) : Bool := (d.bytes 38 1).testBit 0
def Desc.putTee (d : Desc) : Bool := (d.bytes 38 1).testBit 1
def Desc.putTeeId (d : Desc) : Nat := d.bytes 40 2

/-- The source address lies in this core's LMEM and the destination on another core (R423). -/
def putPlaces (c : Chip) (d : Desc) : Bool :=
  isSelf c d.putSrc && decide (offOf d.putSrc < Config.lmemBytes) && !isSelf c d.putDst

/-- R437 and R440: a tee whose stream's source meets a name range, or that does not fit its stream. -/
def putTeeBad (c : Chip) (d : Desc) : Bool :=
  let s := d.putTeeId
  let o := offOf d.putSrc
  let b := strSrc c s
  d.putTee && (srcNamed c s || decide (s = 0) || decide (1024 ≤ s) || strKind c s != 1 || decide (o < b)
    || decide (b + strLen c s < o + d.putLen) || !aligned 4096 (o - b)
    || (!aligned 4096 (o - b + d.putLen) && decide (o - b + d.putLen ≠ strLen c s)))

/-! ## RESHARD (Tables 16.2 and 16.3) -/

def Desc.oldTld (d : Desc) : Nat := d.bytes 16 3
def Desc.newTld (d : Desc) : Nat := d.bytes 20 3
def Desc.newEpoch (d : Desc) : Nat := d.bytes 24 4
def Desc.arrCtr (d : Desc) : Nat := d.bytes 28 2
def Desc.rshJob (d : Desc) : Nat := bits (d.bytes 30 2) 0 12
def Desc.arrBase (d : Desc) : Nat := d.bytes 32 6
def Desc.npre (d : Desc) : Nat := bits (d.bytes 38 1) 0 4
def Desc.landDelta (d : Desc) : Int := sext 64 (d.bytes 40 8)
def Desc.preCtr (d : Desc) (i : Nat) : Nat := d.bytes (64 + 8 * i) 2
def Desc.preVal (d : Desc) (i : Nat) : Nat := d.bytes (66 + 8 * i) 6

/-- Reserved fields, NPRE and LAND_DELTA (R395). -/
def reshardFields (d : Desc) : Bool :=
  decide (d.bytes 19 1 = 0 ∧ d.bytes 23 1 = 0 ∧ bits (d.bytes 30 2) 12 4 = 0 ∧ bits (d.bytes 38 1) 4 4 = 0)
    && decide (d.bytes 39 1 = 0 ∧ d.bytes 48 16 = 0 ∧ d.bytes 128 64 = 0 ∧ d.npre ≤ 8)
    && (rangeFrom d.npre (8 - d.npre)).all (fun i => d.bytes (64 + 8 * i) 8 == 0)
    && decide (d.landDelta % 64 = 0)

/-- The owner entries of a tensor: (ADDR, VALID). -/
def Ten.entries (x : Ten) : List (Nat × Bool) := (x.o.map OwnerTab.entries).getD []

/-- The members of P: the LCNs that hold a block of the old or the new layout. -/
def rshPeers (d : Desc) : List Nat :=
  (((d.ten d.oldTld).blocks ++ (d.ten d.newTld).blocks).map fun b => lcnOf b.base).eraseDups

/-- This core's own blocks of a tensor. -/
def ownBlocks (c : Chip) (x : Ten) : List Tld := x.blocks.filter fun b => isSelf c b.base

/-- A tensor moved by LAND_DELTA. -/
def landed (delta : Int) (t : Tld) : Tld :=
  { t with base := lcnOf t.base * 2 ^ 44 + modInt 44 ((offOf t.base : Int) + delta) }

/-- Step 4 on the structures. -/
def reshardShape (d : Desc) : Bool :=
  let x := d.ten d.oldTld
  let y := d.ten d.newTld
  decide (x.t.tyCode = y.t.tyCode ∧ x.t.rank = y.t.rank ∧ x.t.dims = y.t.dims ∧ x.t.tiling = y.t.tiling)
    && decide (x.t.strides = y.t.strides ∧ x.t.scaleOff = y.t.scaleOff ∧ x.t.pad = y.t.pad)
    && decide (x.t.owner ≠ 0 ∧ y.t.owner ≠ 0) && decide (d.newEpoch % 65536 = y.t.epoch ∧ x.t.epoch ≠ y.t.epoch)
    && (x.entries ++ y.entries).all (fun e => lcnOf e.1 != selfLcn)
    && decide ((rshPeers d).length ≤ 1024)

/-- Step 6: an own block or its landing copy lies outside this core's LMEM. -/
def reshardUnmapped (c : Chip) (d : Desc) : Bool :=
  let x := ownBlocks c (d.ten d.oldTld)
  let y := ownBlocks c (d.ten d.newTld)
  let low (b : Tld) : Bool := !(decide ((offOf b.base : Int) + d.landDelta < 0)) &&
    inLmem ((offOf b.base : Int) + d.landDelta).toNat b.extent
  !((x ++ y).all fun b => inLmem (offOf b.base) b.extent) || !(y.all low)

/-- The landing copies of a RESHARD's own new blocks, which it writes in its push and reads in its copy (R395, R396). -/
def landSpans (c : Chip) (d : Desc) : List Span :=
  if d.landDelta = 0 then []
  else ((ownBlocks c (d.ten d.newTld)).map (landed d.landDelta)).flatMap fun b => [⟨offOf b.base, b.extent, true⟩, ⟨offOf b.base, b.extent, false⟩]

/-- Two tensors of this core share a byte. -/
def blocksMeet (a b : Tld) : Bool := rangesMeet (offOf a.base) a.extent (offOf b.base) b.extent

/-- Step 8; the landing copies where their names resolve (R372). -/
def reshardOwn (c : Chip) (d : Desc) : Option Cause :=
  let x := ownBlocks c (d.ten d.oldTld)
  let y := ownBlocks c (d.ten d.newTld)
  if (x ++ y).any fun b => (nameRanges c).any fun r => rangesMeet (offOf b.base) b.extent r.2.1 r.2.2 then
    some .descMalformed
  else if d.landDelta = 0 then (if y.any fun b => x.any (blocksMeet b) then some .copyOverlap else none)
  else
    let at_ (m : List (Nat × Nat × Nat)) : List Tld := (y.map (landed d.landDelta)).map fun b => { b with base := mapAddr c m b.base }
    if (at_ d.wmap ++ at_ d.rmap).any fun b => (x ++ y).any (blocksMeet b) then some .copyOverlap else none

/-! ## The class -/

/-- TLK descriptors of an opcode that run. -/
def tlkRunning (c : Chip) (opc : Nat) : List (Nat × Desc) :=
  classDescs c 5 fun d => d.started && d.opc == opc

/-- Translates a RESHARD's counter through the map of the ring's context; one that cannot be translated is never reached
(R165). -/
def rshCtr (n idx v : Nat) (c : Chip) : Option Nat × Chip :=
  let b := blameDesc n idx
  if v = noCtr then (none, syncMisuse b c) else translate b (ringCtx n) v c

/-- The translations of the precondition counters, kept under the keys from 1 on, one up; 0 for none. -/
def rshPreCtrs (n : Nat) (d : Desc) (c : Chip) : List (Nat × Int) × Chip :=
  (rangeFrom 0 d.npre).foldl (fun a i =>
    match rshCtr n d.idx (d.preCtr i) a.2 with
    | (some p, c) => (a.1 ++ [(1 + i, (p : Int) + 1)], c)
    | (none, c) => (a.1, c)) ([], c)

/-- The start: a PUT notes the step and the first stream block of its tees (R441, R21); a RESHARD enters PRE_WAIT (R396). -/
def tlkOnStart (n : Nat) (d : Desc) (c : Chip) : Chip :=
  if d.opc = 1 then
    let first := (offOf d.putSrc - strSrc c d.putTeeId) / 4096
    putDesc n { d with samp := [(0, (c.wvm.batch : Int)), (1, (first : Int))] } c
  else
    let (ks, c) := rshPreCtrs n d c
    putDesc n { d with samp := ks } c

/-- The TLK class. -/
def tlkClass : EngineClass :=
  { opcOk := fun d => (if d.opc = 1 then !d.chain else decide (d.opc = 0x10) && d.chain) && decide (d.engf = 0)
    present := fun _ _ => true
    noop := fun d => decide (d.opc = 1) && decide (d.putLen = 0)
    fields := fun d =>
      if d.opc = 1 then
        decide (bits (d.bytes 38 2) 2 14 = 0 ∧ d.bytes 42 6 = 0 ∧ d.bytes 56 8 = 0) && (d.putTee || d.putTeeId == 0)
      else reshardFields d
    tens := fun d =>
      if d.opc = 1 then [] else [⟨d.oldTld, false, fun _ => 0⟩, ⟨d.newTld, true, fun _ => 0⟩]
    raws := fun _ _ => []
    shape := fun c d => if d.opc = 1 then putPlaces c d else reshardShape d
    ranges := fun c d => if d.opc = 1 then [⟨offOf d.putSrc, d.putLen, false⟩] else landSpans c d
    windows := fun _ _ => true
    own := fun c d => if d.opc = 1 then (if putTeeBad c d then some .descMalformed else none) else reshardOwn c d
    wvsel := fun _ => 0
    units := fun _ _ => [11]
    canStart := fun c _ d =>
      if d.opc = 1 then decide ((tlkRunning c 1).length < 16) else (tlkRunning c 0x10).isEmpty
    onStart := tlkOnStart
    stale := fun c d => decide (d.opc = 0x10) && epochOlder d.newEpoch c.rdu.epoch
    unmapped := fun c d => if d.opc = 0x10 then reshardUnmapped c d else pastEnd d.putDst d.putLen }

/-! ## PUT at work -/

/-- Tees the blocks of a PUT from number `k` on while the tee buffer has room; the PUT stalls while it has none (R440), and its stall
counts (R447). -/
def putTees (q : DescRef) (d : Desc) : Nat → Nat → Chip → Chip
  | 0, _, c => c
  | fuel + 1, k, c =>
    if ceilDiv d.putLen 4096 ≤ k then finishWork q (costMark q false c)
    else if !teeRoom c then costMark q true c
    else
      let c := costMark q false c
      let j := (SMap.get 0 d.samp 1).toNat + k
      let bs := (rangeFrom (4096 * k) (min 4096 (d.putLen - 4096 * k))).map fun i =>
        SMap.get 0#8 d.rbuf (byteAddr d.putSrc i)
      let tag := (SMap.get 0 d.samp 0).toNat
      putTees q d fuel (k + 1) (setProg q (k + 2) (teeBlock d.putTeeId j tag d.lEpoch bs c))

/-- PUT (R424): the source bytes as WR packets, and their tee. -/
def tlkPut (q : DescRef) (c : Chip) : Chip :=
  onRunning q 5 1 (fun d c =>
    let n := d.putLen
    let fuel := ceilDiv n 4096 + 1
    if d.prog ≠ 0 then putTees q d fuel (d.prog - 1) c
    else
      let names := (rangeFrom 0 n).map (byteAddr d.putSrc)
      withBytes 5 vcData q d names (fun d c =>
        let bs := names.map (rdByte c d)
        let cells := ((rangeFrom 0 n).map (byteAddr d.putDst)).zip bs
        let d := { d with prog := 1, rbuf := if d.putTee then names.zip bs else d.rbuf }
        andThen q (engineWrite 5 (if d.putSnap then vcSnap else vcData) q.ring q.idx [] cells (putDesc q.ring d c)) fun c =>
          if d.putTee then putTees q d fuel 0 c else finishWork q c) c) c

/-! ## RESHARD at work -/

/-- Every precondition counter has reached its value (R396 step 1). -/
def preMet (c : Chip) (d : Desc) : Bool :=
  (rangeFrom 0 d.npre).all fun i =>
    let p := SMap.get 0 d.samp (1 + i)
    decide (p ≠ 0) && reached c (p - 1).toNat (d.preVal i)

/-- The indices of a tensor in ascending global order. -/
def Tld.allIdx (t : Tld) : List (List Nat) := windowIdx ((rangeFrom 0 t.rank).map fun k => (0, t.dim k))

/-- An index opens an MX block. -/
def opensBlock (t : Tld) (ix : List Nat) : Bool := t.ty.isMx && nth 0 ix 0 % 32 == 0

/-- The writes that move the bits of one element, and of its block's scale, from one place to another; with a line's last element go
the zeros past it (R42, R45), in allocated positions past the line's end only where `pads` says so (R89, R396). -/
def moveElem (pads : Bool) (rb : Nat → Byte) (t : Tld) (ix : List Nat) (a : Tld) (ja : List Nat) (b : Tld) (jb : List Nat) :
    List BitWrite :=
  let line := if t.tiling = 0 then roundUp (b.dim 0) 32 else if pads then min (b.alloc 0) (roundUp (b.dim 0) 32) else b.dim 0
  (⟨b.base, b.pos jb, b.w, readBits rb a.base (a.pos ja) a.w⟩ : BitWrite) ::
    (if opensBlock t ix then
      [⟨b.base, 8 * b.scalePos jb, 8, (rb (byteAddr a.base (a.scalePos ja))).toNat⟩] else [])
    ++ (if b.ty = .bool1 ∧ nth 0 jb 0 + 1 = b.dim 0 ∧ b.dim 0 % 8 ≠ 0 then [⟨b.base, b.pos jb + 1, 8 - b.dim 0 % 8, 0⟩]
        else [])
    ++ (if b.ty.isMx ∧ nth 0 jb 0 + 1 = b.dim 0 then
          (rangeFrom (b.dim 0) (line - b.dim 0)).map fun i => ⟨b.base, b.pos (setNth i jb 0), b.w, 0⟩
        else [])

/-- Names of the bytes that the elements of own blocks occupy. -/
def rshNames (c : Chip) (x : Ten) : List Nat :=
  x.t.allIdx.flatMap fun ix =>
    if isSelf c (resolveElem x.o x.t ix).1.base then elemAddrs x.o x.t ix else []

/-- Gathered bit writes as bytes; bits of a byte that no element fills keep what a byte of this core holds, and are free
values on another core, which a RESHARD does not read. -/
def fillBytes (at_ : Nat → Nat) (m : SMap (Nat × Nat)) (c : Chip) : List (Nat × Byte) × Chip :=
  let old (a : Nat) : Byte := if isStored c a then coreByte c (offOf (at_ a)) else BitVec.ofNat 8 (Config.freeNat (c.free + a))
  (overOld old m, { c with free := if (keptBytes m).isEmpty then c.free else c.free + 2 ^ 64 })

/-- Steps 2 and 3: the epoch advances and own old blocks are pushed. -/
def rshPush (q : DescRef) (c : Chip) : Chip :=
  onRunning q 5 0x10 (fun d c =>
    if d.prog ≠ 0 ∨ !preMet c d then c
    else
      let c := orderAfterWait q.ring q.idx c
      let c := if epochOlder c.rdu.epoch d.newEpoch then { c with rdu.epoch := d.newEpoch } else c
      let x := d.ten d.oldTld
      let y := d.ten d.newTld
      withBytes 5 vcData q d (rshNames c x) (fun d c =>
        let ws := x.t.allIdx.flatMap fun ix =>
          let (a, ja) := resolveElem x.o x.t ix
          let (b, jb) := resolveElem y.o y.t ix
          let b := landed d.landDelta b
          if isSelf c a.base && !(decide (a.base = b.base ∧ a.pos ja = b.pos jb)) then moveElem true (fetched c d) x.t ix a ja b jb
          else []
        let m := gatherBits ws
        let (cells, c) := fillBytes (mapAddr c d.wmap) m c
        let c := { c with tlk.rshBytes := (c.tlk.rshBytes + cells.length) % 2 ^ 48 }
        andThen q (engineWrite 5 vcData q.ring q.idx ((keptBytes m).map (mapAddr c d.wmap))
          (cells.map fun p => (mapAddr c d.wmap p.1, p.2)) c) (setProg q 1)) c) c

/-- Signals the members of P from number `k` on while the hold queue has room. -/
def rshSignals (q : DescRef) (d : Desc) : List Nat → Chip → Chip
  | [], c => c
  | p :: ps, c =>
    if !sigRoom c p then c
    else
      let c := raiseSignal p d.rshJob d.arrCtr 1 c
      rshSignals q d ps (match descOf c q with
        | some e => putDesc q.ring { e with samp := SMap.insert (SMap.get 0 e.samp 20 + 1) e.samp 20 } c
        | none => c)

/-- Step 4: every push is acknowledged, with which the bytes of this core are written (R67), and the arrival counter is signalled on
every member of P; then its own is translated and waited on. -/
def rshAnnounce (q : DescRef) (c : Chip) : Chip :=
  onRunning q 5 0x10 (fun d c =>
    if d.prog ≠ 1 ∨ !allAcked c q then c
    else andThen q (if d.later.isEmpty then (.ready, c) else commitNow q.ring q.idx c) fun c =>
      let ps := rshPeers d
      let c := rshSignals q d (ps.drop (SMap.get 0 d.samp 20).toNat) c
      match descOf c q with
      | none => c
      | some d =>
        if (SMap.get 0 d.samp 20).toNat < ps.length then c
        else
          let (p, c) := rshCtr q.ring q.idx d.arrCtr c
          let k : Int := match p with
            | some p => (p : Int) + 1
            | none => 0
          putDesc q.ring { d with prog := 2, samp := SMap.insert k d.samp 21 } c) c

/-- Steps 5 to 7: the arrival counter reaches its target, and landing copies are moved into place. -/
def rshCopy (q : DescRef) (c : Chip) : Chip :=
  onRunning q 5 0x10 (fun d c =>
    let p := SMap.get 0 d.samp 21
    if d.prog ≠ 2 ∨ p = 0 ∨ !reached c (p - 1).toNat (d.arrBase + (rshPeers d).length) then c
    else if d.landDelta = 0 then finishWork q c
    else
      let c := orderAfterWait q.ring q.idx c
      let y := d.ten d.newTld
      let own := y.t.allIdx.filter fun ix => isSelf c (resolveElem y.o y.t ix).1.base
      let names := own.flatMap fun ix =>
        let (b, jb) := resolveElem y.o y.t ix
        elemAddrs none (landed d.landDelta b) jb
      let c := setProg q 3 c
      withBytes 5 vcData q d names (fun d c =>
        let ws := own.flatMap fun ix =>
          let (b, jb) := resolveElem y.o y.t ix
          moveElem false (rdByte c d) y.t ix (landed d.landDelta b) jb b jb
        writeBits 5 vcData q d ws c) c) c

/-- RESHARD (R396): the phases that can be taken now. -/
def tlkReshard (q : DescRef) (c : Chip) : Chip := rshCopy q (rshAnnounce q (rshPush q c))

/-! ## Guards (R398, R400) -/

def guardOf (c : Chip) (n : Nat) : Guard := SMap.get Guard.off c.tlk.guards n

/-- A write of bytes of this core reaches an enabled guard: one of its bytes lies in it. -/
def guarded (c : Chip) (off n : Nat) : Bool :=
  decide (0 < n) && c.tlk.guards.any fun g => g.2.en && decide (0 < g.2.lines) && rangesMeet off n g.2.base (64 * g.2.lines)

/-- Bytes that a write or an atomic changes. -/
def touched (p : Packet) : Nat := if p.ty = tyAMO then 2 ^ leNat ((p.payload.drop 1).take 1) else p.len

/-- A remote write or atomic that a guard drops (R398). -/
def guardDrops (c : Chip) (p : Packet) : Bool :=
  guarded c p.addr (touched p) && !p.rsh && (p.v12 || decide (p.lEpoch ≠ c.rdu.epoch))

/-- A write dropped by a guard is counted with its sender. -/
def countGuard (src : Nat) (c : Chip) : Chip :=
  pageFault pTLK .layoutStale { c with
    tlk.guardDropped := satAdd 32 c.tlk.guardDropped 1, tlk.guardLcn := src, tlk.guardV := true }

/-- A write of TLK_LGUARD: one that sets EN for a range running past LMEM is ignored (R400). -/
def lguardWrite (v : W64) (c : Chip) : Chip :=
  let g : Guard := ⟨bitAt v 0, 64 * fld v 6 22, fld v 32 22⟩
  if g.en && !inLmem g.base (64 * g.lines) then c
  else { c with tlk.guards := SMap.set .off c.tlk.guards c.tlk.guardSel g }

/-- A write of TLK_LGUARD_STAT with V = 0 (R400). -/
def lguardStatClear (c : Chip) : Chip := { c with tlk.guardDropped := 0 }

/-- Reads of the registers of Tables 16.5 to 16.8. -/
def rshRead (c : Chip) (off : Nat) : W64 :=
  match off with
  | 0x600 =>
    match (tlkRunning c 0x10).head? with
    | some (n, d) => pack [(0, 3, d.prog + 1), (16, 15, n), (32, 11, (rshPeers d).length)]
    | none => 0#64
  | 0x608 => pack [(0, 48, c.tlk.rshBytes)]
  | 0x610 => pack [(0, 4, c.tlk.guardSel)]
  | 0x618 =>
    let g := guardOf c c.tlk.guardSel
    pack [(0, 1, b2n g.en), (6, 22, g.base / 64), (32, 22, g.lines)]
  | 0x620 => pack [(0, 32, c.tlk.guardDropped), (32, 20, c.tlk.guardLcn), (63, 1, b2n c.tlk.guardV)]
  | _ => 0#64

/-- Writes of the same registers. -/
def rshWrite (off : Nat) (v : W64) (c : Chip) : Chip :=
  match off with
  | 0x610 => { c with tlk.guardSel := fld v 0 4 }
  | 0x618 => lguardWrite v c
  | 0x620 => if bitAt v 63 then { c with tlk.guardV := false } else lguardStatClear c
  | _ => c

end Sys2Proof.Machine
end

