-- ==== Sys2Proof/Machine/Ctx.lean ====
section
/-! DEFINITION. Thread contexts (Threads and the Sequencer Instruction Set): starting, stopping, waiting, faulting and
ending them, the commands of SEQ_CTX_CTRL, the SEQ-internal descriptors, and the registers of the SEQ page. -/

namespace Sys2Proof.Machine

/-! ## Starting and ending (R94 to R97, R100) -/

/-- Whether a PC may be fetched from: 8-byte aligned, in LMEM or the host memory aperture of any core; otherwise the cause
(R100). -/
def pcFault (pc : W64) : Option Cause :=
  if pc.toNat % 8 ≠ 0 then some .isaIllegal
  else
    match regionOf (offOf pc.toNat) 8 with
    | some .lmem => none
    | some .host => none
    | _ => some .addrUnmapped

/-- A context enters FREE; its start argument stays (R96, Table 4.22), and its PC becomes 0, of which the spec says nothing.
DESIGN CHOICE (log 15). -/
def freeCtx (n : Nat) (c : Chip) : Chip := setCtx n { Ctx.idle with startArg := (ctxOf c n).startArg } c

/-- A context leaves FREE (R95). -/
def startCtx (n : Nat) (pc arg : W64) (c : Chip) : Chip :=
  setCtx n { ({ Ctx.idle with startArg := (ctxOf c n).startArg, pc := pc, st := .ready } : Ctx) with
    regs := SMap.set 0#64 [] 1 arg } c

/-- The lowest FREE context. -/
def lowestFree (c : Chip) : Option Nat :=
  firstFrom (fun n => decide ((ctxOf c n).st = .free)) 0 Config.contexts

/-- Starts a named context, or the lowest FREE one, at a PC: the number started, or nothing (R123, R124). -/
def spawnCtx (named : Option Nat) (pc arg : W64) (c : Chip) : Option Nat × Chip :=
  let n := match named with
    | some n => if n < Config.contexts ∧ (ctxOf c n).st = .free then some n else none
    | none => lowestFree c
  match n with
  | some n => if (pcFault pc).isSome then (none, c) else (some n, startCtx n pc arg c)
  | none => (none, c)

/-! ## Faults and waits (R114, R182) -/

/-- A context becomes FAULTED with a code, at its PC or, for a late store failure, where it stands (R114, R117). -/
def faultCtx (n : Nat) (code : Nat) (late : Bool) (c : Chip) : Chip :=
  let k := (Cause.ofCode code).getD .linkDown
  let x := ctxOf c n
  let c := setCtx n { x with st := .faulted, wait := .none, fault := code, late := late, stopping := false } c
  recordFault pSEQ k code n 0xFFFF x.pc c

/-- A context faults with a cause of SEQ's own. -/
def faultHere (n : Nat) (k : Cause) (c : Chip) : Chip := faultCtx n (faultCode pSEQ k) false c

/-- A wait that the watchdog times (Table 4.4). -/
def Wait.timed : Wait → Bool
  | .counter _ _ _ => true
  | .summary => true
  | .ringSpace _ _ => true
  | .barrier _ _ => true
  | _ => false

/-- The code of a wait reason (Table 4.4). -/
def Wait.code : Wait → Nat
  | .none => 0
  | .counter _ _ _ => 1
  | .summary => 2
  | .ringSpace _ _ => 3
  | .memory _ => 4
  | .fetch _ => 5
  | .time _ => 6
  | .barrier _ _ => 7
  | .flush => 8

/-- A context is descheduled. -/
def waitOn (n : Nat) (w : Wait) (c : Chip) : Chip :=
  updCtx n (fun x => { x with st := .waiting, wait := w, waitFrom := now c, waitedBefore := 0, moved := false }) c

/-- A context becomes READY. -/
def wakeCtx (n : Nat) (c : Chip) : Chip :=
  updCtx n (fun x => { x with st := .ready, wait := .none, waitFrom := 0, waitedBefore := 0, moved := false }) c

/-- The context has done an instruction that waited and goes on past it, or where SEQ_CTX_PC was set meanwhile (R97). -/
def wakePast (n : Nat) (c : Chip) : Chip :=
  wakeCtx n (updCtx n (fun x => { x with pc := if x.moved then x.pc else x.pc + 8 }) c)

/-- ns that a context has spent in its present timed wait (R182). -/
def waitedNs (c : Chip) (x : Ctx) : Nat :=
  if x.wait.timed then
    (if x.st = .waiting then x.waitedBefore + (now c - x.waitFrom) else if x.st = .stopped then x.waitedBefore else 0)
  else 0

/-- The watchdog limit of a context in µs; `none`: disabled (R182). -/
def wdogLimit (c : Chip) (n : Nat) : Option Nat :=
  let own := (mapOf c n).limit
  let lim := if own ≠ 0 then own else c.sync.wdog
  if lim = 0xFFFFFFFF then none else some (max lim 1000)

/-! ## Outstanding accesses (R99, R104) -/

/-- An access is a load or atomic whose data have not been written to its register. -/
def Acc.loading (a : Acc) : Bool := decide (a.kind ≠ .store) && !a.returned

/-- An access is a store or atomic that has not been acknowledged. -/
def Acc.storing (a : Acc) : Bool := decide (a.kind ≠ .load) && !a.acked

/-- Loads outstanding; an atomic counts among the stores (R99). -/
def Ctx.loads (x : Ctx) : Nat := (x.accs.filter fun a => decide (a.kind = .load)).length
/-- Unacknowledged stores and atomics. -/
def Ctx.stores (x : Ctx) : Nat := (x.accs.filter Acc.storing).length
/-- Registers that wait for the result of an earlier load or atomic. -/
def Ctx.busy (x : Ctx) : List Nat := (x.accs.filter Acc.loading).map Acc.rd

/-- A MEMORY wait is over. -/
def MemWait.over (c : Chip) (x : Ctx) : MemWait → Bool
  | .regs rs => rs.all fun r => !(x.busy.contains r)
  | .loadSlot => decide (x.loads < 8)
  | .storeSlot => decide (x.stores < 16)
  | .stores => !(x.accs.any Acc.storing)
  | .all => x.accs.isEmpty
  | .sigQueue => decide (c.sync.held.length < 1024)

/-! ## Commands (Table 4.2) -/

/-- START. -/
def ctxStart (n : Nat) (c : Chip) : Chip :=
  let x := ctxOf c n
  if x.st = .free ∧ (pcFault x.pc).isNone then startCtx n x.pc x.startArg c else c

/-- A STOP that has no outstanding loads to wait for takes effect; the watchdog of a kept wait pauses (R97). The data of an atomic
count as a load's. DESIGN CHOICE (log 13). -/
def settleStop (n : Nat) (c : Chip) : Chip :=
  let x := ctxOf c n
  if x.stopping && !(x.accs.any Acc.loading) then
    setCtx n { x with stopping := false, st := .stopped, waitedBefore := waitedNs c x } c
  else c

/-- STOP; given while the page's quiesce request has stopped the context, it outlasts the request. -/
def ctxStop (n : Nat) (c : Chip) : Chip :=
  let x := ctxOf c n
  if (x.st = .ready ∨ x.st = .waiting) ∧ ¬ x.ending then
    settleStop n (setCtx n { x with stopping := true, quiesceStop := false } c)
  else c

/-- RESUME: a kept wait goes on, its watchdog from the time it had reached. -/
def ctxResume (n : Nat) (c : Chip) : Chip :=
  let x := ctxOf c n
  if x.st = .stopped ∨ x.st = .faulted then
    setCtx n { x with
      st := if x.wait = .none then .ready else .waiting
      waitFrom := now c, fault := 0, late := false, quiesceStop := false } c
  else c

/-- A KILL or EXIT whose accesses have all completed takes effect (R96). -/
def settleEnd (n : Nat) (c : Chip) : Chip :=
  let x := ctxOf c n
  if x.ending && x.accs.isEmpty then freeCtx n c else c

/-- KILL. -/
def ctxKill (n : Nat) (c : Chip) : Chip :=
  let x := ctxOf c n
  if x.st = .free then c
  else settleEnd n (setCtx n { x with ending := true, stopping := false, st := .waiting, wait := .memory .all
                                      fault := 0, late := false } c)

/-! ## Instruction cache (R100, R101, Table 4.24) -/

/-- The number of the line that an instruction lies in. -/
def lineOf (pc : W64) : Nat := pc.toNat / 64

/-- Invalidates every line. -/
def flushIcache (c : Chip) : Chip := { c with seq.icache := [], seq.icacheKept := [] }

/-! ## SEQ-internal descriptors (R138) -/

/-- The class of SEQ-internal descriptors. -/
def seqClass : EngineClass :=
  { opcOk := fun d => decide (d.opc = 1) && !d.chain && decide (d.engf = 0)
    present := fun _ _ => true
    noop := fun _ => false
    fields := fun d => decide (d.bytes 34 30 = 0)
    tens := fun _ => []
    raws := fun _ _ => []
    shape := fun _ _ => true
    ranges := fun _ _ => []
    windows := fun _ _ => true
    own := fun _ _ => none
    wvsel := fun _ => 0
    units := fun _ _ => []
    canStart := fun _ _ _ => true
    onStart := fun _ _ c => c }

/-- SPAWN as a SEQ-internal descriptor: a failure is counted, and the descriptor completes all the same. -/
def seqSpawn (q : DescRef) (c : Chip) : Chip :=
  onRunning q 15 1 (fun d c =>
    let n := d.bytes 32 2
    match spawnCtx (if n = 0xFFFF then none else some n) (d.word 2) (d.word 3) c with
    | (some _, c) => finishWork q c
    | (none, c) => finishWork q { c with seq.spawnFail := satAdd 32 c.seq.spawnFail 1 }) c

/-! ## Registers (R125) -/

/-- The number of contexts in a state. -/
def countCtx (c : Chip) (st : CtxState) : Nat := (c.seq.ctxs.filter fun p => decide (p.2.st = st)).length

/-- SEQ_CTX_STATE (Table 4.19). -/
def ctxStateWord (c : Chip) (n : Nat) : W64 :=
  let x := ctxOf c n
  let w := if x.st = .waiting ∨ x.st = .stopped then x.wait else .none
  let wc := match w with
    | .counter v _ _ => v
    | _ => noCtr
  let st := match x.st with
    | .free => 0
    | .ready => 1
    | .waiting => 2
    | .faulted => 3
    | .stopped => 4
  pack [(0, 3, st), (3, 1, b2n x.late), (4, 4, w.code), (8, 2, n % Config.pipes), (16, 16, x.fault)
       , (32, 5, x.sums.length), (48, 16, wc)]

/-- The value that IDX 33 shows: the threshold, target or deadline of the present wait, and 0 for a wait that has none.
DESIGN CHOICE (log 109). -/
def Wait.value : Wait → Nat
  | .counter _ _ t => t
  | .barrier _ t => t
  | .time t => t
  | _ => 0

/-- SEQ_CTX_REGDATA (Table 4.22). -/
def regdataRead (c : Chip) (n : Nat) : W64 :=
  let x := ctxOf c n
  let i := c.seq.regIdx
  match x.st with
  | .free => x.startArg
  | .ready => 0#64
  | .waiting => 0#64
  | _ =>
    if i < 32 then x.reg i
    else if i = 32 then x.predWord
    else if i = 33 then BitVec.ofNat 64 x.wait.value
    else 0#64

/-- A write of SEQ_CTX_REGDATA. -/
def regdataWrite (v : W64) (c : Chip) : Chip :=
  let n := c.seq.ctxSel
  let i := c.seq.regIdx
  if Config.contexts ≤ n then c
  else
    let x := ctxOf c n
    match x.st with
    | .free => setCtx n { x with startArg := v } c
    | .ready => c
    | .waiting => c
    | _ => if i < 32 then setCtx n (x.setReg i v) c else if i = 32 then setCtx n (x.setPreds v) c else c

/-- A write of SEQ_CTX_PC (Table 4.20). -/
def ctxPcWrite (v : W64) (c : Chip) : Chip :=
  let n := c.seq.ctxSel
  if Config.contexts ≤ n then c
  else
    let x := ctxOf c n
    match x.st with
    | .ready => c
    | .waiting => c
    | _ => setCtx n { x with pc := v, moved := decide (x.wait ≠ .none) } c

/-- A command of SEQ_CTX_CTRL on the selected context. -/
def ctxCommand (f : Nat → Chip → Chip) (c : Chip) : Chip :=
  if c.seq.ctxSel < Config.contexts then f c.seq.ctxSel c else c

/-- Reads of the SEQ page. -/
def seqRead (c : Chip) (off : Nat) : W64 :=
  let n := c.seq.ctxSel
  let here (w : W64) : W64 := if n < Config.contexts then w else 0#64
  match off with
  | 0x100 => c.seq.bootPc
  | 0x108 => pack [(0, 16, n)]
  | 0x118 => here (ctxStateWord c n)
  | 0x120 => here (ctxOf c n).pc
  | 0x128 => here (pack [(0, 6, c.seq.regIdx)])
  | 0x130 => here (regdataRead c n)
  | 0x138 => pack [(0, 11, countCtx c .ready), (16, 11, countCtx c .waiting), (32, 11, countCtx c .faulted)
                  , (48, 11, countCtx c .stopped)]
  | 0x140 => c.seq.notify
  | 0x148 => pack [(32, 32, c.seq.misses)]
  | 0x150 => pack [(0, 32, c.seq.sumDropped)]
  | 0x158 => pack [(0, 32, c.seq.spawnFail)]
  | _ => 0#64

/-- Writes of the SEQ page. -/
def seqWrite (off : Nat) (v : W64) (c : Chip) : Chip :=
  match off with
  | 0x100 => { c with seq.bootPc := v &&& ~~~(7#64) }
  | 0x108 => { c with seq.ctxSel := fld v 0 16 }
  | 0x110 =>
    match fld v 0 3 with
    | 1 => ctxCommand ctxStart c
    | 2 => ctxCommand ctxStop c
    | 3 => ctxCommand ctxResume c
    | 4 => ctxCommand ctxKill c
    | _ => c
  | 0x120 => ctxPcWrite v c
  | 0x128 => if c.seq.ctxSel < Config.contexts then { c with seq.regIdx := fld v 0 6 } else c
  | 0x130 => regdataWrite v c
  | 0x140 => { c with seq.notify := c.seq.notify &&& ~~~v }
  | 0x148 => if bitAt v 0 then flushIcache c else c
  | 0x158 => { c with seq.spawnFail := 0 }
  | _ => c

end Sys2Proof.Machine
end

