-- ==== Sys2Proof/Machine/RingRegs.lean ====
section
/-! DEFINITION. Filling, fetching and mending rings (Rings and Descriptors): pushes, doorbells, the fetch of descriptors,
binding, RING_CMD, and the registers of the RING page. -/

namespace Sys2Proof.Machine

/-! ## Fetch (R139 step 1) -/

/-- CHAIN of a descriptor's first word: the slots that it occupies. -/
def slotsOf (w : W64) : Nat := if bitAt w 17 then 3 else 1

/-- Reads a descriptor whose first slot has an index, if the ring holds all of its slots: a failed read halts the ring
there (Table 7.1); one in host memory comes back later. A descriptor whose first slot cannot be read counts as one slot.
DESIGN CHOICE (log 84). One of which a later slot cannot be read has been sampled as far as its header goes. -/
def fetchAt (n i avail : Nat) (keep : Desc → Chip → Chip) (c : Chip) : Chip :=
  if avail = 0 then c
  else
    match readSlots n i 1 c with
    | (true, _, c) => haltRing n (Desc.fetched i 1 []) .eccUncorr (keep (Desc.fetched i 1 []) c)
    | (false, none, c) => c
    | (false, some ws, c) =>
      let k := slotsOf (nth 0#64 ws 0)
      if k = 1 then keep (Desc.fetched i 1 ws) (dropSlots n i 1 c)
      else if avail < 3 then c
      else
        match readSlots n i 3 c with
        | (true, _, c) => haltRing n (Desc.fetched i 3 ws) .eccUncorr (keep (Desc.fetched i 3 ws) c)
        | (false, none, c) => c
        | (false, some ws, c) => keep (Desc.fetched i 3 ws) (dropSlots n i 3 c)

/-- A descriptor fetched again: if it now has another number of slots, the later ones that have not issued are fetched again. -/
def Ring.refetched (r : Ring) (old new : Desc) : Ring :=
  let ds := r.descs.map fun x => if x.idx = new.idx then new else x
  { r with descs :=
      if new.slots = old.slots then ds
      else (ds.takeWhile fun x => x.idx != new.idx)
        ++ (ds.dropWhile fun x => x.idx != new.idx).filter fun x => decide (x.idx = new.idx) || decide (x.phase ≠ .waiting) }

/-- DESCRIPTOR_FETCH: a halted descriptor whose slots are being read again, or the next one of the ring. Nothing is
fetched while the RING page is quiesced (Table 22.5). -/
def ringFetch (n : Nat) (c : Chip) : Chip :=
  let r := ringOf c n
  if Config.rings ≤ n ∨ (pageOf c pRING).qreq ∨ !r.en ∨ r.halted then c
  else
    match r.descs.find? fun d => decide (d.phase = .refetch) with
    | some d => fetchAt n d.idx (sub32 r.tail d.idx) (fun e c => updRing n (fun r => r.refetched d e) c) c
    | none =>
      fetchAt n r.nextFetch (sub32 r.tail r.nextFetch) (fun e c => updRing n (fun r =>
        { r with descs := r.descs ++ [e] }) c) c

/-! ## Filling (R133 to R135) -/

/-- Free slots of a ring. -/
def Ring.freeSlots (r : Ring) : Nat := r.size - r.used

/-- Writes a slot: in LMEM at once, in host memory by a request. -/
def putSlot (n a : Nat) (bs : List Byte) (c : Chip) : Chip :=
  match localLmem c a 64 with
  | some off => lmemWrite off bs c
  | none => ask (.slot n (ringOf c n).era) .wr a 64 bs vcData c

/-- Copies staged words into the slots at the tail and advances the tail (R133). -/
def pushWords (n : Nat) (ws : List W64) (c : Chip) : Chip :=
  let r := ringOf c n
  let k := ws.length / 8
  let c := (rangeFrom 0 k).foldl (fun c j =>
    putSlot n (r.slotAddr (add32 r.tail j)) (wordsBytes ((ws.drop (8 * j)).take 8)) c) c
  updRing n (fun r => { r with tail := add32 r.tail k }) c

/-- A write of RING_DOORBELL (R135). -/
def doorbell (v : W64) (c : Chip) : Chip :=
  let n := fld v 0 15
  let t := fld v 32 32
  let r := ringOf c n
  let k := sub32 t r.tail
  if r.en && r.hostfed && decide (0 < k ∧ k ≤ r.freeSlots) then setRing n { r with tail := t } c
  else setRing n { r with dbErr := true } c

/-! ## Binding (R127 to R129) -/

/-- RING_BASE, LOG2_SIZE and CLASS allow the ring to be bound (R127). -/
def Ring.bindable (c : Chip) (r : Ring) : Bool :=
  aligned 64 r.base && isSelf c r.base && decide (4 ≤ r.log2 ∧ r.log2 ≤ 16)
    && (decide (r.cls ≤ 8) || decide (r.cls = 15))
    && (match regionOf (offOf r.base) (64 * r.size) with
      | some .lmem => true
      | some .host => true
      | _ => false)

/-- The fields of RING_CFG but EN, and RING_BASE, are locked (R128). -/
def Ring.locked (r : Ring) : Bool := r.en || r.head != r.tail

/-- A write of RING_CFG. An ABANDONED ring that is enabled runs again from the oldest abandoned descriptor (R156). -/
def ringCfgWrite (v : W64) (c : Chip) : Chip :=
  let n := c.ring.sel
  if Config.rings ≤ n then c
  else
    let r := ringOf c n
    let w : Ring := { r with hostfed := bitAt v 1, prio := bitAt v 2, cls := fld v 4 4, log2 := fld v 8 5 }
    let refused := r.locked && decide (w ≠ r)
    let w : Ring := if r.locked then { r with cfgErr := r.cfgErr || refused } else w
    let w : Ring :=
      if bitAt v 0 && !r.en then
        (if Ring.bindable c w then { w with en := true, abandoned := false } else { w with cfgErr := true })
      else { w with en := bitAt v 0 }
    setRing n w c

/-- A write of RING_BASE. -/
def ringBaseWrite (v : W64) (c : Chip) : Chip :=
  let n := c.ring.sel
  if Config.rings ≤ n then c
  else
    let r := ringOf c n
    let b := (v &&& ~~~(63#64)).toNat
    if r.locked then (if b = r.base then c else setRing n { r with cfgErr := true } c) else setRing n { r with base := b } c

/-! ## RING_CMD (R148, R157) -/

/-- A halted ring leaves HALTED. -/
def Ring.unhalt (r : Ring) : Ring := { r with halted := false, fault := 0 }

/-- RESUME: the halted descriptor's slots are read again and it goes back to step 2; bytes of host memory read before do not count. -/
def ringResume (n : Nat) (c : Chip) : Chip :=
  let r := ringOf c n
  if !r.halted then c
  else
    let mark (r : Ring) : Ring :=
      { r.unhalt with rbuf := [], era := r.era + 1, descs := r.descs.map fun d => if d.idx = r.fidx then { Desc.fetched d.idx d.slots [] with phase := .refetch } else d }
    let c := setRing n (if (r.find r.fidx).isSome then mark r else r.unhalt) c
    if r.en then ringFetch n c else c

/-- SKIP and SKIP_SIGNAL: the halted descriptor retires in its turn; bytes of host memory read before do not count. -/
def ringRetire (signal : Bool) (n : Nat) (c : Chip) : Chip :=
  let r := ringOf c n
  if !r.halted then c
  else
    match r.find r.fidx with
    | none => setRing n r.unhalt c
    | some d =>
      let (p, c) :=
        if !signal ∨ d.words.isEmpty then ((none : Option Nat), c)
        else if d.sigP.isSome then (d.sigP, c)
        else
          match descCtr n d.idx d.sigCtr c with
          | (some p, c) => (p, c)
          | (none, c) => (none, c)
      let c := updRing n (fun r => { r.unhalt.put { d with phase := .completed, silent := true, sigP := p } with
                                     rbuf := [], era := r.era + 1 }) c
      retireFront n r.descs.length c

/-- SETIDX. -/
def setIdx (n v : Nat) (c : Chip) : Chip :=
  let r := ringOf c n
  if r.en ∨ r.descs.any Desc.inFlight then setRing n { r with cfgErr := true } c
  else setRing n { r with head := v, tail := v, descs := [], rbuf := [], fault := 0, fidx := 0, halted := false
                          abandoned := false, era := r.era + 1 } c

/-- A write of RING_CMD. -/
def ringCmd (v : W64) (c : Chip) : Chip :=
  let n := fld v 0 15
  match fld v 16 4 with
  | 1 => ringResume n c
  | 2 => ringRetire false n c
  | 3 => ringRetire true n c
  | 4 => setIdx n (fld v 32 32) c
  | _ => c

/-! ## Registers (R158) -/

/-- What a read of RING_DONE_Q returns. -/
def doneQWord (c : Chip) : W64 :=
  match c.ring.doneQ with
  | [] => pack [(62, 1, b2n c.ring.doneOvf)]
  | (n, i) :: _ => pack [(0, 32, i), (32, 15, n), (62, 1, b2n c.ring.doneOvf), (63, 1, 1)]

/-- A read of RING_DONE_Q removes the oldest notice and clears OVF (R155, Table 5.16). -/
def doneQTake (c : Chip) : Chip := { c with ring.doneQ := c.ring.doneQ.drop 1, ring.doneOvf := false }

/-- Reads of the RING page; that of RING_DONE_Q changes the queue. -/
def ringRead (off : Nat) (c : Chip) : W64 × Chip :=
  let n := c.ring.sel
  let r := ringOf c n
  let here (w : W64) : W64 × Chip := (if n < Config.rings then w else 0#64, c)
  match off with
  | 0x100 => (pack [(0, 15, n)], c)
  | 0x108 => here (BitVec.ofNat 64 r.base)
  | 0x110 => here (pack [(0, 1, b2n r.en), (1, 1, b2n r.hostfed), (2, 1, b2n r.prio), (4, 4, r.cls), (8, 5, r.log2)])
  | 0x118 => here (pack [(0, 32, r.head)])
  | 0x120 => here (pack [(0, 32, r.tail)])
  | 0x128 => here (pack [(0, 3, r.state), (3, 1, b2n r.cfgErr), (4, 1, b2n r.dbErr), (16, 16, r.fault), (32, 32, r.fidx)])
  | 0x130 => here (pack [(0, 1, b2n r.tsEn)] ||| BitVec.ofNat 64 r.tsAddr)
  | 0x148 => (doneQWord c, doneQTake c)
  | _ => (0#64, c)

/-- Writes of the RING page. -/
def ringWrite (off : Nat) (v : W64) (c : Chip) : Chip :=
  let n := c.ring.sel
  let here (f : Ring → Ring) : Chip := if n < Config.rings then updRing n f c else c
  match off with
  | 0x100 => { c with ring.sel := fld v 0 15 }
  | 0x108 => ringBaseWrite v c
  | 0x110 => ringCfgWrite v c
  | 0x128 => here fun r => { r with cfgErr := r.cfgErr && !bitAt v 3, dbErr := r.dbErr && !bitAt v 4 }
  | 0x130 => here fun r => { r with tsEn := bitAt v 0, tsAddr := (v &&& ~~~(31#64)).toNat }
  | 0x138 => ringCmd v c
  | 0x140 => doorbell v c
  | _ => c

end Sys2Proof.Machine
end

