-- ==== Sys2Proof/Machine/Sync.lean ====
section
/-! DEFINITION. SYNC (Counters, Waits and the Bridle Lines): writing counters, virtual maps and their cache, watches,
signals that COMPAT holds, the bridle lines, and the registers of the SYNC page (R159 to R185). -/

namespace Sys2Proof.Machine

/-! ## Counters (R160 to R163) -/

/-- Sets a counter by a register write: never to a lower value, but a poisoned one to any (R162, R163). -/
def setCtrVal (n v : Nat) (c : Chip) : Chip :=
  let k := ctrOf c n
  if k.poisoned then watchCross n 0 v (setCtr n ⟨v, false⟩ c)
  else if k.value ≤ v then watchCross n k.value v (setCtr n ⟨v, false⟩ c)
  else syncMisuse blameNone { c with sync.misCtr := if c.sync.misV then c.sync.misCtr else n, sync.misV := true }

/-- A write of SYNC_CTR_VAL. -/
def ctrValWrite (v : W64) (c : Chip) : Chip := setCtrVal c.sync.ctrSel (fld v 0 48) c

/-- A write of SYNC_CTR_ADD. -/
def ctrAddWrite (v : W64) (c : Chip) : Chip := addCounter c.sync.ctrSel (fld v 0 16) c

/-- An uncorrectable error in the storage of a counter (R163). -/
def counterEcc (n : Nat) (c : Chip) : Chip :=
  if Config.counters ≤ n then c
  else
    let c := setCtr n ⟨0, true⟩ c
    pageFault pSYNC .eccUncorr { c with sync.eccCtr := if c.sync.eccV then c.sync.eccCtr else n, sync.eccV := true }

/-! ## Virtual maps (R164 to R167) -/

/-- Changes the map of the selected context. -/
def updMap (f : CtxMap → CtxMap) (c : Chip) : Chip :=
  if c.sync.ctxSel < Config.contexts then { c with sync.maps := SMap.upd .reset c.sync.maps c.sync.ctxSel f } else c

/-- A write of SYNC_VMAP: EN is refused for a map that runs past LMEM (Table 6.9); the other fields are taken then too, and EN is 0.
DESIGN CHOICE (log 111). -/
def vmapWrite (v : W64) (c : Chip) : Chip :=
  updMap (fun m =>
    let base := 64 * fld v 6 38
    let len := fld v 44 16
    let ok := inLmem base (4 * len)
    { m with base := base, len := len, en := bitAt v 0 && ok, cfgErr := if bitAt v 0 then !ok else m.cfgErr }) c

/-- Drops cached translations by their key. -/
def dropTrans (p : Nat → Bool) (c : Chip) : Chip :=
  { c with sync.tcache := c.sync.tcache.filter fun e => !(p e.1) }

/-- SYNC_VMAP_INV of one entry. -/
def invEntry (ctx v : Nat) (c : Chip) : Chip := dropTrans (fun k => k == tcKey ctx v) c
/-- SYNC_VMAP_INV of a context. -/
def invCtx (ctx : Nat) (c : Chip) : Chip := dropTrans (fun k => k / 65536 == ctx) c
/-- SYNC_VMAP_INV of everything. -/
def invGlobal (c : Chip) : Chip := dropTrans (fun _ => true) c

/-! ## Remote signals (R175, R176, R185) -/

/-- A write of SYNC_RSIG_STAT. -/
def rsigStatClear (c : Chip) : Chip := { c with sync.stale := 0, sync.nojob := 0, sync.refused := 0 }

/-- COMPAT_SIGNAL_APPLY: a held signal whose time has come is added to its counter (R176). -/
def compatApply (k : Nat) (c : Chip) : Chip :=
  match c.sync.compatHeld[k]? with
  | none => c
  | some x =>
    if now c < x.tRaise + 1000 then c
    else addCounter x.target x.inc { c with sync.compatHeld := c.sync.compatHeld.eraseIdx k }

/-! ## Watches (Table 6.17) -/

def watchOf (c : Chip) (w : Nat) : Watch := SMap.get Watch.reset c.sync.watches w
def setWatch (w : Nat) (x : Watch) (c : Chip) : Chip := { c with sync.watches := SMap.set .reset c.sync.watches w x }

/-- A write of SYNC_WATCHw: an armed watch that is already satisfied sets HIT. -/
def watchWrite (w : Nat) (v : W64) (c : Chip) : Chip :=
  if 8 ≤ w then c
  else
    let x := { watchOf c w with thresh := fld v 0 48, ctr := fld v 48 16 }
    setWatch w { x with hit := x.hit || (x.armed && reached c x.ctr x.thresh) } c

/-- A write of SYNC_WATCH_CTL. -/
def watchCtlWrite (v : W64) (c : Chip) : Chip :=
  (rangeFrom 0 8).foldl (fun c w =>
    let x := watchOf c w
    let arm := bitAt v w
    let hit := x.hit && !bitAt v (8 + w)
    setWatch w { x with armed := arm, hit := hit || (arm && !x.armed && reached c x.ctr x.thresh) } c) c

/-! ## Bridle lines (R177 to R180) -/

def barOf (c : Chip) (l : Nat) : Line := SMap.get Line.reset c.sync.lines l
def updBar (l : Nat) (f : Line → Line) (c : Chip) : Chip := { c with sync.lines := SMap.upd .reset c.sync.lines l f }

/-- LOCAL_COUNT as taken. -/
def Line.count (x : Line) : Nat := max 1 x.localCount

/-- An IDLE line whose local count is complete goes to ARRIVED. -/
def Line.idleStep (x : Line) : Line :=
  if x.st = .idle ∧ (x.gen + 1) * x.count ≤ x.arrivals then { x with st := .arrived } else x

/-- The level that a line drives on BAR_OUT (Table 6.5). -/
def Line.out (x : Line) : Bool :=
  match x.st with
  | .disabled => true
  | .idle => false
  | .arrived => true
  | .hold => true
  | .release => false

/-- Number of a line state. -/
def LineState.code : LineState → Nat
  | .disabled => 0 | .idle => 1 | .arrived => 2 | .hold => 3 | .release => 4

/-- A write of SYNC_BAR_CFG: LOCAL_COUNT and HOLD only while EN is 0; setting EN starts the line afresh, and targets
recorded before it count no longer (R180). -/
def barCfgWrite (v : W64) (c : Chip) : Chip :=
  let l := c.sync.barSel
  let x := barOf c l
  let x := if x.en then x else { x with localCount := fld v 8 8, hold := fld v 16 8 }
  if bitAt v 0 && !x.en then
    let c := updBar l (fun _ => { x with en := true, st := .idle, arrivals := 0, gen := 0 }) c
    { c with seq.ctxs := SMap.mapVal .idle (fun _ y => { y with barTarget := SMap.erase y.barTarget l }) c.seq.ctxs }
  else if !bitAt v 0 && x.en then updBar l (fun _ => { x with en := false, st := .disabled }) c
  else updBar l (fun _ => x) c

/-- A BARARR by a context (R178, R180). -/
def barArrive (n l : Nat) (c : Chip) : Chip :=
  let x := barOf c l
  if x.st = .disabled then
    updCtx n (fun y => { y with barTarget := SMap.erase y.barTarget l }) (updBar l (fun x => { x with stray := true }) c)
  else
    let k := x.arrivals + 1
    let t := ceilDiv k x.count % 2 ^ 32
    updCtx n (fun y => { y with barTarget := SMap.set none y.barTarget l (some t) })
      (updBar l (fun x => { x with arrivals := k }.idleStep) c)

/-- The generation of a target is complete (R179). -/
def barDone (c : Chip) (l t : Nat) : Bool := decide (sub32 ((barOf c l).gen % 2 ^ 32) t < 2 ^ 31)

/-- BAR_IN_RISE. -/
def barInRise (l : Nat) (c : Chip) : Chip :=
  if 8 ≤ l then c
  else updBar l (fun x =>
    let x := { x with input := true }
    if x.st = .arrived then { x with gen := x.gen + 1, st := .hold, held := 0 } else x) c

/-- HOLD as taken: at least 2 (R180). -/
def Line.holds (x : Line) : Nat := max 2 x.hold

/-- BAR_HOLD_EXPIRE: HOLD REFCLK cycles have passed in HOLD (R177). -/
def barHoldExpire (l : Nat) (c : Chip) : Chip :=
  if 8 ≤ l then c
  else updBar l (fun x => if x.st = .hold ∧ x.holds ≤ x.held then { x with st := .release, held := 0 } else x) c

/-- BAR_IN_LOW: BAR_IN has read 0 for HOLD consecutive samples, which began when its sender says. -/
def barInLow (l : Nat) (c : Chip) : Chip :=
  if 8 ≤ l then c
  else updBar l (fun x =>
    let x := { x with input := false }
    if x.st = .release then { x with st := .idle }.idleStep else x) c

/-! ## Registers (R185) -/

/-- Whether the core is quiet (R184). -/
def isQuiet (c : Chip) : Bool :=
  (c.seq.ctxs.all fun p =>
    match p.2.st with
    | .ready => false
    | .waiting => p.2.wait.timed || (match p.2.wait with
      | .time _ => true
      | _ => false)
    | _ => true) && !(allDescs c).any Desc.inFlight

/-- Reads of the SYNC page. -/
def syncRead (c : Chip) (off : Nat) : W64 :=
  let m := mapOf c c.sync.ctxSel
  let here (w : W64) : W64 := if c.sync.ctxSel < Config.contexts then w else 0#64
  let x := barOf c c.sync.barSel
  match off with
  | 0x100 => pack [(0, 1, b2n c.sync.compat)]
  | 0x108 => pack [(0, 32, c.sync.wdog)]
  | 0x110 => pack [(0, 16, c.sync.ctxSel)]
  | 0x118 => here (pack [(0, 1, b2n m.en), (6, 38, m.base / 64), (44, 16, m.len), (60, 1, b2n m.cfgErr)])
  | 0x120 => here (pack [(0, 32, m.limit), (32, 32, min (waitedNs c (ctxOf c c.sync.ctxSel) / 1000) (2 ^ 32 - 1))])
  | 0x130 => pack [(0, 16, c.sync.ctrSel)]
  | 0x138 => BitVec.ofNat 64 (ctrRead c c.sync.ctrSel)
  | 0x148 => pack [(0, 16, c.sync.satCtr), (16, 16, c.sync.misCtr), (32, 16, c.sync.eccCtr), (48, 1, b2n c.sync.satV)
                  , (49, 1, b2n c.sync.misV), (50, 1, b2n c.sync.eccV)]
  | 0x150 => pack [(0, 12, c.sync.jobSel)]
  | 0x158 => pack [(0, 17, SMap.get 0 c.sync.jobs c.sync.jobSel)]
  | 0x160 => pack [(0, 16, c.sync.stale), (16, 16, c.sync.nojob), (32, 16, c.sync.refused)
                  , (48, 11, (c.sync.held.filter fun h => h.sent.isNone).length)]
  | 0x168 => pack [(0, 32, c.sync.epochMin)]
  | 0x170 => pack [(0, 3, c.sync.barSel)]
  | 0x178 => pack [(0, 1, b2n x.en), (8, 8, x.localCount), (16, 8, x.hold)]
  | 0x180 => pack [(0, 3, x.st.code), (3, 1, b2n x.out), (4, 1, b2n x.input), (5, 1, x.gen % 2), (6, 1, b2n x.stray)
                  , (32, 32, x.gen)]
  | 0x188 => pack [(0, 32, x.arrivals)]
  | 0x1D0 => pack ((rangeFrom 0 8).map fun w => (w, 1, b2n (watchOf c w).armed))
      ||| pack ((rangeFrom 0 8).map fun w => (8 + w, 1, b2n (watchOf c w).hit))
  | 0x1D8 => pack [(0, 1, b2n (isQuiet c)), (8, 56, c.sync.quietSince.getD 0)]
  | _ =>
    if 0x190 ≤ off ∧ off < 0x1D0 then
      let w := watchOf c ((off - 0x190) / 8)
      pack [(0, 48, w.thresh), (48, 16, w.ctr)]
    else 0#64

/-- Writes of the SYNC page. -/
def syncWrite (off : Nat) (v : W64) (c : Chip) : Chip :=
  match off with
  | 0x100 => { c with sync.compat := bitAt v 0 }
  | 0x108 => { c with sync.wdog := fld v 0 32 }
  | 0x110 => { c with sync.ctxSel := fld v 0 16 }
  | 0x118 => vmapWrite v c
  | 0x120 => updMap (fun m => { m with limit := fld v 0 32 }) c
  | 0x128 =>
    if bitAt v 33 then invGlobal c else if bitAt v 32 then invCtx (fld v 0 16) c else invEntry (fld v 0 16) (fld v 16 16) c
  | 0x130 => { c with sync.ctrSel := fld v 0 16 }
  | 0x138 => ctrValWrite v c
  | 0x140 => ctrAddWrite v c
  | 0x148 => { c with sync.satV := c.sync.satV && !bitAt v 48, sync.misV := c.sync.misV && !bitAt v 49
                      sync.eccV := c.sync.eccV && !bitAt v 50 }
  | 0x150 => { c with sync.jobSel := fld v 0 12 }
  | 0x158 => { c with sync.jobs := SMap.set 0 c.sync.jobs c.sync.jobSel (fld v 0 17) }
  | 0x160 => rsigStatClear c
  | 0x168 => { c with sync.epochMin := fld v 0 32 }
  | 0x170 => { c with sync.barSel := fld v 0 3 }
  | 0x178 => barCfgWrite v c
  | 0x180 => if bitAt v 6 then updBar c.sync.barSel (fun x => { x with stray := false }) c else c
  | 0x1D0 => watchCtlWrite v c
  | _ => if 0x190 ≤ off ∧ off < 0x1D0 then watchWrite ((off - 0x190) / 8) v c else c

end Sys2Proof.Machine
end

