-- ==== Sys2Proof/Machine/Lmem.lean ====
section
/-! DEFINITION. Local Memory beside its accesses: banks, scrubbing and write-back, arbitration settings, error injection,
and the registers of the LMEM page (R186 to R202). -/

namespace Sys2Proof.Machine

/-- MHz of an operating point (Table 19.2). -/
def pointMhz (p : Nat) : Nat :=
  match p with
  | 0 => 800 | 1 => 1200 | 2 => 1600 | 3 => 2000 | _ => 2200

/-- Core cycles from one TIME to a later one at the present operating point. -/
def cyclesIn (c : Chip) (t u : Nat) : Nat := u * pointMhz c.pwr.cur / 1000 - t * pointMhz c.pwr.cur / 1000

/-! ## Banks (R187) -/

/-- The line that a row of a bank holds. -/
def bankLine (bank row : Nat) : Nat := 256 * row + 32 * ((bank / 32) ^^^ (row % 8)) + bank % 32

def bankOf (c : Chip) (b : Nat) : Bank := SMap.get Bank.reset c.lmem.banks b
def updBank (b : Nat) (f : Bank → Bank) (c : Chip) : Chip := { c with lmem.banks := SMap.upd .reset c.lmem.banks b f }

/-! ## Scrubbing and write-back (R191, R194) -/

/-- A word that a scrub read meets: a single error is corrected and written back, an uncorrectable word is poisoned, a
poisoned one records nothing. -/
def scrubWord (w : Nat) (c : Chip) : Chip :=
  match SMap.get WordErr.ok c.lmem.ecc w with
  | .single =>
    { c with lmem.ceCount := satAdd 32 c.lmem.ceCount 1, lmem.ecc := SMap.set .ok c.lmem.ecc w .ok
             lmem.wbQueue := c.lmem.wbQueue.filter fun x => x != w }
  | .double => poisonWord 6 w .double c
  | _ => c

/-- Every bank has finished its rows: the pass counts, and LATE is set then if it took too long. DESIGN CHOICE (log 113). -/
def scrubPass (c : Chip) : Chip :=
  if (rangeFrom 0 Config.banks).all fun b => (bankOf c b).scrubDone then
    let late := decide (2 * max 16 c.lmem.scrubInterval * Config.bankRows < c.lmem.passCycles)
    { c with
      lmem.passes := (c.lmem.passes + 1) % 2 ^ 32, lmem.scrubLate := c.lmem.scrubLate || late
      lmem.passCycles := 0
      lmem.banks := SMap.mapVal .reset (fun _ b => { b with scrubDone := false }) c.lmem.banks }
  else c

/-- SCRUB_READ: a bank's next scrub read, in P0 while SCRUB_EN is 1; a bank that has finished its rows waits for the end of the pass.
DESIGN CHOICE (log 113). -/
def scrubRead (b : Nat) (c : Chip) : Chip :=
  let k := bankOf c b
  if Config.banks ≤ b ∨ !c.lmem.scrubEn ∨ c.pwr.state ≠ 0 ∨ k.scrubDone then c
  else
    let l := bankLine b k.scrubRow
    let c := (rangeFrom (8 * l) 8).foldl (fun c w => scrubWord w c) c
    let last := decide (Config.bankRows ≤ k.scrubRow + 1)
    scrubPass (updBank b (fun k => { k with scrubRow := if last then 0 else k.scrubRow + 1, scrubDone := last }) c)

/-- ECC_WRITEBACK: a corrected word is written back; neither it nor a scrub's write is the next write that an armed injection strikes.
DESIGN CHOICE (log 19). -/
def eccWriteback (w : Nat) (c : Chip) : Chip :=
  if c.lmem.wbQueue.contains w then
    let c := { c with lmem.wbQueue := c.lmem.wbQueue.filter fun x => x != w }
    if SMap.get WordErr.ok c.lmem.ecc w = .single then { c with lmem.ecc := SMap.set .ok c.lmem.ecc w .ok } else c
  else c

/-- LMEM_ECC_ERROR: a running descriptor's read meets an uncorrectable word (R192, Table 7.1). -/
def lmemEccError (w cls : Nat) (q : DescRef) (c : Chip) : Chip :=
  match descOf c q with
  | none => c
  | some d =>
    if !d.started ∨ Config.lmemBytes ≤ 8 * w then c
    else
      let c := poisonWord cls w (SMap.get WordErr.ok c.lmem.ecc w) c
      if (ringOf c q.ring).cls = 6 then failRestore q.ring q.idx .eccUncorr c else abandonDesc q.ring q.idx .eccUncorr c

/-! ## Registers (R201, R202) -/

/-- The shares and ranks of LMEM_ARB are allowed (R201). -/
def arbOk (v : W64) : Bool :=
  decide (((rangeFrom 0 6).map fun k => fld v (4 * k) 4).foldl (· + ·) 0 ≤ 16)
    && (rangeFrom 0 6).all fun r => (rangeFrom 0 6).any fun k => fld v (24 + 3 * k) 3 == r

/-- A write of LMEM_ARB: it shows the value in force until the next frame boundary, and a later write replaces one that waits.
DESIGN CHOICE (log 112). -/
def lmemArbWrite (v : W64) (c : Chip) : Chip :=
  let c := if bitAt v 63 then { c with lmem.arbErr := false } else c
  if arbOk v then { c with lmem.arbPending := some (maskWrite (maskOf [(0, 42)]) 0#64 v) } else { c with lmem.arbErr := true }

/-- LMEM_ARB_APPLY: the next frame boundary. -/
def lmemArbApply (c : Chip) : Chip :=
  match c.lmem.arbPending with
  | some v => { c with lmem.arb := v, lmem.arbPending := none }
  | none => c

/-- A write of LMEM_ECC_STAT. -/
def eccStatClear (c : Chip) : Chip := { c with lmem.ceCount := 0, lmem.ueCount := 0 }

/-- A write of LMEM_ECC_INJECT. -/
def eccInjectWrite (v : W64) (c : Chip) : Chip :=
  { c with lmem.injWord := fld v 3 25, lmem.injBits := fld v 32 2, lmem.injArm := bitAt v 63 }

/-- A bank reads in 4 cycles (R198). -/
def Bank.slow (b : Bank) : Bool := decide (0 < b.rowsUsed + b.colsUsed)

/-- LMEM_BANK_INFO (Table 7.11). -/
def bankInfo (c : Chip) (b : Nat) : W64 :=
  let k := bankOf c b
  if Config.banks ≤ b then 0#64
  else pack [(0, 5, k.rowsUsed), (8, 3, k.colsUsed), (16, 4, if k.slow then 4 else 3), (24, 1, b2n k.soft)]

/-- Reads of the LMEM page. -/
def lmemRead (off : Nat) (c : Chip) : W64 × Chip :=
  match off with
  | 0x100 => (pack [(0, 1, b2n c.lmem.eccWb), (1, 1, b2n c.lmem.scrubEn), (16, 16, c.lmem.scrubInterval)], c)
  | 0x108 => (c.lmem.arb ||| pack [(63, 1, b2n c.lmem.arbErr)], c)
  | 0x110 => (pack [(0, 32, c.lmem.ceCount), (32, 16, c.lmem.ueCount)], c)
  | 0x118 => (pack [(3, 25, c.lmem.logWord), (32, 3, c.lmem.logClass), (63, 1, b2n c.lmem.logV)], c)
  | 0x120 => (pack [(3, 25, c.lmem.injWord), (32, 2, c.lmem.injBits), (63, 1, b2n c.lmem.injArm)], c)
  | 0x128 => (pack [(0, 32, c.lmem.passes), (32, 1, b2n c.lmem.scrubLate)], c)
  | 0x130 => (pack [(0, 16, c.lmem.hard), (16, 16, c.lmem.softCount)
                   , (32, 9, (c.lmem.banks.filter fun b => b.2.slow).length)], c)
  | 0x138 => (pack [(0, 8, c.lmem.bankSel)], c)
  | 0x140 => (bankInfo c c.lmem.bankSel, c)
  | _ =>
    if 0x148 ≤ off ∧ off < 0x180 then
      (BitVec.ofNat 64 (SMap.get 0 c.lmem.stalls ((off - 0x148) / 8)), c)
    else (0#64, c)

/-- Writes of the LMEM page. -/
def lmemWriteReg (off : Nat) (v : W64) (c : Chip) : Chip :=
  match off with
  | 0x100 => { c with lmem.eccWb := bitAt v 0, lmem.scrubEn := bitAt v 1, lmem.scrubInterval := fld v 16 16 }
  | 0x108 => lmemArbWrite v c
  | 0x110 => eccStatClear c
  | 0x118 => if bitAt v 63 then { c with lmem.logV := false } else c
  | 0x120 => eccInjectWrite v c
  | 0x128 => if bitAt v 32 then { c with lmem.scrubLate := false } else c
  | 0x138 => { c with lmem.bankSel := fld v 0 8 }
  | _ => c

end Sys2Proof.Machine
end

