-- ==== Sys2Proof/Machine/Timebase.lean ====
section
/-! DEFINITION. TIME (Time, Faults and Reading State Back): the count and its discipline, trace rings, and the registers of
the TIME page (R473 to R486). -/

namespace Sys2Proof.Machine

/-! ## The count (R473 to R477) -/

/-- 20 ns in units of 2^−32 ns. -/
def rateNominal : Nat := 20 * 2 ^ 32

/-- TIME_CFG fields. -/
def timeSrc (c : Chip) : Nat := fld c.time.cfg 0 2
def stepNs (c : Chip) : Nat := fld c.time.cfg 8 16
def maxDelayNs (c : Chip) : Nat := fld c.time.cfg 24 16
def holdoverMs (c : Chip) : Nat := fld c.time.cfg 40 16

/-- One REFCLK period: the count advances by TIME_RATE, with the correction that it still has to make: by half of TIME_RATE while
the count is slow, or by up to 2^−10 of it (R473, R476). What has been read within the period is never more than what follows
(R474): a correction that came too late for that is still to be made. -/
def advanceTime (c : Chip) : Chip :=
  let t := c.time
  let lim : Int := (t.rate / 1024 : Nat)
  let lag := min t.slowLeft (t.rate / 2)
  let fix : Int := if lag = 0 then max (-lim) (min lim t.pendingFix) else 0
  let inc : Int := (t.rate - lag : Nat) + fix
  let total := t.count * 2 ^ 32 + t.frac + inc.toNat
  let past := (t.count + t.sub) * 2 ^ 32 - total
  { c with time := { t with
      count := (total + past) / 2 ^ 32 % 2 ^ 64, frac := (total + past) % 2 ^ 32, sub := 0
      pendingFix := t.pendingFix - fix - (if lag = 0 then (past : Int) else 0)
      slowLeft := t.slowLeft - lag + (if lag = 0 then 0 else past) } }

/-- Within a REFCLK period of P0 the count goes on with the core clock, by whole ns and not past the next edge (R474); false where
that edge comes instead. How many ns pass between two steps of the model is a free value. -/
def withinPeriod (c : Chip) : Bool × Chip :=
  let (k, c) := takeFree c
  let n := k % 20 + 1
  if now c + n < (advanceTime c).time.count then (true, { c with time.sub := c.time.sub + n }) else (false, c)

/-- A TIME event (Table 20.1). -/
def timeEvent (k : Nat) (e : Int) (c : Chip) : Chip := emit 0x0A pTIME (BitVec.ofNat 64 k) (w64 e) c

/-- Sets or clears LOCK, with the event of a change. -/
def setLock (on : Bool) (e : Int) (c : Chip) : Chip :=
  if c.time.lock = on then c else timeEvent (if on then 1 else 2) e { c with time.lock := on }

/-- TIME_RATE after a measurement: e / (16 Δt) of the nominal rate, kept within 2^−10 of it; the spec does not say how the
quotient is rounded. -/
def steerRate (e : Int) (c : Chip) : Chip :=
  match c.time.lastMeas with
  | none => c
  | some t0 =>
    let dt := now c - t0
    if dt = 0 then c
    else
      let num : Int := (rateNominal : Int) * e
      let den : Int := 16 * (dt : Int)
      let (x, c) := takeFree c
      let q := num / den + (if num % den ≠ 0 ∧ x % 2 = 1 then 1 else 0)
      let lo : Int := (rateNominal - rateNominal / 1024 : Nat)
      let hi : Int := (rateNominal + rateNominal / 1024 : Nat)
      { c with time.rate := (max lo (min hi ((c.time.rate : Int) + q))).toNat }

/-- TIME applies a measurement: error and delay (R475 to R477, log 105). -/
def measure (e : Int) (delay : Int) (c : Chip) : Chip :=
  if (maxDelayNs c : Int) < delay then { c with time.discarded := satAdd 16 c.time.discarded 1 }
  else
    let c := { c with time.meas := ((now c, e, delay) :: c.time.meas).take 16
                      time.lastE := max (-(2 ^ 23)) (min (2 ^ 23 - 1) e) }
    let c :=
      if e.natAbs ≤ stepNs c then steerRate e { c with time.pendingFix := e * 2 ^ 32, time.slowLeft := 0 }
      else if 0 < e then
        let c := { c with time.count := c.time.count + e.toNat, time.pendingFix := 0, time.slowLeft := 0 }
        setLock false e (timeEvent 3 e { c with time.good := 0 })
      else { c with time.pendingFix := 0, time.slowLeft := e.natAbs * 2 ^ 32 }
    let c := { c with time.lastMeas := some (now c)
                      time.good := if e.natAbs ≤ 20 ∧ e ≤ stepNs c then min 4 (c.time.good + 1) else 0 }
    if 40 < e.natAbs then setLock false e c
    else if c.time.good = 4 then setLock true e c
    else c

/-- TPULSE_EDGE (R475). -/
def tpulseEdge (c : Chip) : Chip :=
  if timeSrc c ≠ 1 then c
  else if !c.time.nextV then { c with time.missed := satAdd 16 c.time.missed 1 }
  else measure ((c.time.next : Int) - (now c : Int)) 0 { c with time.nextV := false }

/-- A write of TIME_TPULSE. -/
def tpulseArm (v : W64) (c : Chip) : Chip := { c with time.next := fld v 0 63, time.nextV := bitAt v 63 }

/-- An offset and delay that a FOLLOW port hands over (R422, R475). -/
def linkMeasure (e delay : Int) (c : Chip) : Chip := if timeSrc c = 2 then measure e delay c else c

/-- HOLDOVER_EXPIRE (R477). -/
def holdoverExpire (c : Chip) : Chip :=
  match c.time.lastMeas with
  | some t0 => if c.time.lock ∧ holdoverMs c * 1000000 ≤ now c - t0 then setLock false c.time.lastE { c with time.good := 0 } else c
  | none => c

/-- A write of TIME_MARK by a context, or by another agent as 0xFFFF. -/
def timeMark (v : W64) (who : Nat) (c : Chip) : Chip := emit 0x0D pTIME v (BitVec.ofNat 64 who) c

/-- A write of TIME_STAT. -/
def timeStatClear (c : Chip) : Chip := { c with time.missed := 0, time.discarded := 0 }

/-! ## Trace rings (R478, R479) -/

def traceOf (c : Chip) (r : Nat) : Trace := SMap.get Trace.reset c.time.traces r
def updTrace (r : Nat) (f : Trace → Trace) (c : Chip) : Chip := { c with time.traces := SMap.upd .reset c.time.traces r f }

def Trace.en (t : Trace) : Bool := bitAt t.cfg 0
def Trace.log2 (t : Trace) : Nat := let l := fld t.cfg 1 5; if 6 ≤ l ∧ l ≤ 20 then l else 6
def Trace.size (t : Trace) : Nat := 2 ^ t.log2
/-- Records from HEAD to TAIL. -/
def Trace.held (t : Trace) : Nat := sub32 t.tail t.head
/-- The ring selects an event. -/
def Trace.wants (t : Trace) (e : Event) : Bool :=
  t.en && bitAt t.cfg (8 + e.page) && (e.kind == 0x0E || bitAt t.cfg (32 + e.kind)) && (!e.onlyAll || bitAt t.cfg 6)

/-- The 32 bytes of a record (Table 20.2). -/
def recordBytes (e : Event) (seq : Nat) : List Byte :=
  leBytes 8 e.stamp ++ leBytes 1 e.kind ++ leBytes 1 e.page ++ leBytes 2 0 ++ leBytes 4 seq
    ++ leBytes 8 e.d0.toNat ++ leBytes 8 e.d1.toNat

/-- The address of record number i of a ring. -/
def Trace.addr (t : Trace) (i : Nat) : Nat := byteAddr t.base (32 * (i % t.size))

/-- LMEM can be written: in P0 (R459, R471). -/
def memUp (c : Chip) : Bool := decide (c.core.phase = .running) && c.pwr.state == 0

/-- Writes one record at the next index; TAIL passes it once it is acknowledged. A record for LMEM waits while LMEM cannot be
written. -/
def putRecord (r : Nat) (e : Event) (c : Chip) : Chip :=
  let t := traceOf c r
  let a := t.addr (add32 t.tail t.unacked)
  let bs := recordBytes e t.seq
  let c := updTrace r (fun t => { t with seq := add32 t.seq 1, unacked := t.unacked + 1 }) c
  match localLmem c a 32 with
  | some off => if memUp c then lmemWrite off bs c else { c with time.waiting := c.time.waiting ++ [(r, a, bs)] }
  | none => if isHost c a 32 then ask (.trace r) .wr a 32 bs vcData c else c

/-- Offers an event to one ring: a full ring drops and counts it; after drops a LOST record goes first. -/
def offerTo (e : Event) (r : Nat) (c : Chip) : Chip :=
  let t := traceOf c r
  if !t.wants e then c
  else
    let room := t.size - 1 - (t.held + t.unacked)
    if t.lostNow = 0 ∧ 1 ≤ room then putRecord r e c
    else if 2 ≤ room then
      let lost : Event := ⟨now c, 0x0E, pTIME, BitVec.ofNat 64 t.lostNow, 0#64, false⟩
      putRecord r e (updTrace r (fun t => { t with lostNow := 0 }) (putRecord r lost c))
    else updTrace r (fun t => { t with lost := satAdd 32 t.lost 1, lostNow := t.lostNow + 1, ovf := true }) c

/-- Records that have waited for LMEM are written in P0. -/
def flushWaiting (c : Chip) : Chip :=
  if memUp c then
    c.time.waiting.foldl (fun c w => match localLmem c w.2.1 32 with
      | some off => lmemWrite off w.2.2 c
      | none => c) { c with time.waiting := [] }
  else c

/-- Offers the events that have been produced to the trace rings. -/
def flushEvents (c : Chip) : Chip :=
  let es := c.events
  es.foldl (fun c e => (rangeFrom 0 8).foldl (fun c r => offerTo e r c) c) { flushWaiting c with events := [], firsts := [] }

/-- TRACE_RECORD_ACK: TAIL advances past the oldest record whose write has been answered. -/
def traceAck (r : Nat) (c : Chip) : Chip :=
  let t := traceOf c r
  let a := t.addr t.tail
  let waits := ((c.outbox ++ c.tlk.waitReqs ++ c.hport.out).any fun q => q.who == .trace r && q.addr == a)
    || c.time.waiting.any fun w => w.1 == r && w.2.1 == a
  if t.unacked = 0 ∨ waits then c
  else updTrace r (fun t => { t with tail := add32 t.tail 1, unacked := t.unacked - 1 }) c

/-- A write of TIME_TRACE_CFG: LOG2 only while the ring is disabled; setting EN empties it. -/
def traceCfgWrite (v : W64) (c : Chip) : Chip :=
  updTrace c.time.sel (fun t =>
    let fields : List (Nat × Nat) := if t.en then [(0, 1), (6, 1), (8, 20), (32, 16)] else [(0, 7), (8, 20), (32, 16)]
    let w := maskWrite (maskOf fields) t.cfg v
    if bitAt w 0 && !t.en then { t with cfg := w, head := 0, tail := 0, unacked := 0 } else { t with cfg := w }) c

/-- A write of TIME_TRACE_HEAD. -/
def traceHeadWrite (v : W64) (c : Chip) : Chip :=
  updTrace c.time.sel (fun t =>
    let h := fld v 0 32
    if sub32 t.tail h ≤ t.size then { t with head := h } else t) c

/-- A write of TIME_TRACE_STAT clears LOST; a 1 in OVF clears it. -/
def traceStatWrite (v : W64) (c : Chip) : Chip :=
  updTrace c.time.sel (fun t => { t with lost := 0, ovf := t.ovf && !bitAt v 32 }) c

/-! ## Registers (R486) -/

/-- Reads of the TIME page. -/
def timeRead (c : Chip) (off : Nat) : W64 :=
  let t := traceOf c c.time.sel
  match off with
  | 0x100 => BitVec.ofNat 64 (now c)
  | 0x108 => c.time.cfg
  | 0x110 => pack [(0, 63, c.time.next), (63, 1, b2n c.time.nextV)]
  | 0x118 => pack [(0, 40, c.time.rate)]
  | 0x120 => pack [(0, 1, b2n c.time.lock), (8, 16, c.time.missed), (24, 16, c.time.discarded)
                  , (40, 24, modInt 24 c.time.lastE)]
  | 0x130 => pack [(0, 3, c.time.sel)]
  | 0x138 => BitVec.ofNat 64 t.base
  | 0x140 => t.cfg
  | 0x148 => pack [(0, 32, t.head)]
  | 0x150 => pack [(0, 32, t.tail)]
  | 0x158 => pack [(0, 32, t.lost), (32, 1, b2n t.ovf)]
  | _ => 0#64

/-- Writes of the TIME page by an agent: a context number, or 0xFFFF. -/
def timeWrite (who off : Nat) (v : W64) (c : Chip) : Chip :=
  match off with
  | 0x108 => { c with time.cfg := maskWrite (maskOf [(0, 2), (8, 48)]) 0#64 v }
  | 0x110 => tpulseArm v c
  | 0x120 => timeStatClear c
  | 0x128 => timeMark v who c
  | 0x130 => { c with time.sel := fld v 0 3 }
  | 0x138 => updTrace c.time.sel (fun t => if t.en then t else { t with base := (v &&& ~~~(63#64)).toNat }) c
  | 0x140 => traceCfgWrite v c
  | 0x148 => traceHeadWrite v c
  | 0x158 => traceStatWrite v c
  | _ => c

end Sys2Proof.Machine
end

