-- ==== Sys2Proof/Machine/Ports.lean ====
section
/-! DEFINITION. Tether ports and the route table (Tether Ports, Ohmuf Link and the Host Port): training and retraining,
acknowledgement and replay of flits, negotiation, time messages, SWAP, timeouts, and the registers of the TLK page. -/

namespace Sys2Proof.Machine

/-! ## Training (R405 to R408) -/

/-- The training MARK (Table 17.2). -/
def trainMark : Nat := 0x7E810F5A

/-- Credits that each side starts with: the buffers of R410. -/
def freshCredits : SMap Nat := [(0, 2048), (1, 64), (2, 64), (3, 512)]

/-- What a training attempt begins with. -/
def Port.attempt (t : Nat) (p : Port) : Port :=
  { p with trainFrom := t, marks := [], good := 0, txTrain := 0, sentGood := 0, peerCfg := false, peerGood := 0, peerEnd := false }

/-- The 128-bit word that a lane sends again and again while its port trains (Table 17.2). -/
def Port.trainWord (p : Port) (lane : Nat) : Nat :=
  packNat [(0, 32, trainMark), (32, 3, lane), (35, 8, if p.txTrain = 0 then p.good else p.sentGood), (43, 2, p.txTrain)]

/-- A port begins to train from DOWN: a new link, nothing sent or received on it. Packets that wait for the port stay. -/
def Port.fresh (t : Nat) (p : Port) : Port :=
  { p.attempt t with
    width := 0, ver := 0, peer := 0xFFFFF, attempts := 0, retraining := false, badRun := 0, txSeq := 0, rxSeq := 4095
    lastAck := 4095, ackSent := 4095, resync := false, rxLost := false, replay := [], txbuf := []
    txq := p.txq.filter fun q => decide (q.pkt.ty < 0xC1), credits := freshCredits, owed := [], rx := []
    flying := [], turn := 0, turns := 0, exch := none, syncAt := none, closing := false }

/-- A port that carries the stream retrains and keeps its link state (R405). -/
def portRetrain (n : Nat) (c : Chip) : Chip :=
  let p := portOf c n
  if p.st = .up ∨ p.st = .negotiate then
    updPort n (fun p => { p.attempt (now c) with
      retraining := true, attempts := 0, badRun := 0, replay := p.replay.map fun f => { f with count := 0 } }) (portState n .train c)
  else c

/-- An attempt fails; the third in a row makes the port FAILED (R406). -/
def trainFail (n : Nat) (c : Chip) : Chip :=
  let p := portOf c n
  if p.st ≠ .train then c
  else if 3 ≤ p.attempts + 1 then portDown n .failed .linkDown (updPort n (fun p => { p with attempts := 0 }) c)
  else updPort n (fun p => { p.attempt (now c) with attempts := p.attempts + 1 }) c

/-- The width that two GOOD masks allow (R406). -/
def chooseWidth (a b : Nat) : Nat :=
  let m := a &&& b
  if m % 256 = 255 then 8 else if m % 16 = 15 ∨ m / 16 % 16 = 15 then 4 else 0

/-- The NEGOTIATE packet of a port (R417): the spec gives its payload and its form; the destination it names is open. -/
def negotiatePacket (c : Chip) (n dst : Nat) : Packet :=
  let v12 := (portOf c n).v12
  { ty := tyNEGOTIATE, vc := vcCtrl, hops := maxHops c, dst := dst % 2 ^ 20, src := srcLcn c, tag := 0, status := 0
    rEpoch := 0, lEpoch := 0, addr := 0, len := 16
    payload := leBytes 1 (if v12 then 1 else 2) ++ leBytes 1 (if v12 then 2 else 0) ++ leBytes 3 (srcLcn c)
      ++ List.replicate 11 0#8
    v12 := true, res0 := false, rsh := false }

/-- Training completes with a width, and the codeword stream starts. A retrained port goes on where it was: it sends an IDLE flit
with its ACK and waits for its peer's, from which it replays (R405); another negotiates (R417). -/
def trainDone (n w : Nat) (c : Chip) : Chip :=
  let p := portOf c n
  let c := updPort n (fun p => { p with
    width := w, base := if w = 4 ∧ (p.sentGood &&& p.peerGood) % 16 ≠ 15 then 4 else 0, attempts := 0, retraining := false
    wire := [] }) c
  if p.retraining then
    updPort n (fun p => { p.sendIdle (gives c) with resync := true, rxLost := false }) (portState n (if p.ver = 0 then .negotiate else .up) c)
  else
    let (x, c) := takeFree c
    let c := portState n .negotiate c
    pump n (updPort n (fun p => { p with txq := p.txq ++ [⟨negotiatePacket c n x, none⟩] }) c)

/-- A word on a lane: MARK in 4 consecutive words locks it, and a locked lane brings the peer's GOOD and STATE (R406). -/
def Port.hear (lane mark good st : Nat) (p : Port) : Port :=
  let k := if mark = trainMark then min 4 (SMap.get 0 p.marks lane + 1) else 0
  let locked := decide (k = 4)
  let first := locked && decide (1 ≤ st ∧ st ≤ 2) && !p.peerCfg
  { p with
    marks := SMap.set 0 p.marks lane k
    good := if locked then p.good ||| 2 ^ lane else p.good &&& (255 - 2 ^ lane)
    peerCfg := p.peerCfg || first
    peerGood := if first then good % 256 else p.peerGood
    peerEnd := p.peerEnd || (locked && st == 2) }

/-- Step 2 of training: CONFIG goes out with the lanes locked so far, at once when all are. How long a side waits for lanes that do
not lock, the spec does not say (log 89). -/
def trainConfig (n : Nat) (c : Chip) : Chip :=
  let p := portOf c n
  if p.txTrain ≠ 0 ∨ p.good = 0 then c
  else if p.good = 255 then updPort n (fun p => { p with txTrain := 1, sentGood := p.good }) c
  else
    let (x, c) := takeFree c
    if x % 2 = 0 then c else updPort n (fun p => { p with txTrain := 1, sentGood := p.good }) c

/-- Steps 3 and 4: the width from the two GOOD masks, END, and the end of training once both sides have sent and received it. -/
def trainChoose (n : Nat) (c : Chip) : Chip :=
  let p := portOf c n
  if p.txTrain = 0 ∨ !p.peerCfg then c
  else
    let w := chooseWidth p.sentGood p.peerGood
    if w = 0 then trainFail n c
    else
      let c := updPort n (fun p => { p with txTrain := 2 }) c
      if p.peerEnd then trainDone n w c else c

/-- TRAINING_WORD: the MARK, GOOD and STATE fields of a word received on a lane (Table 17.2). -/
def trainingWord (n lane mark good st : Nat) (c : Chip) : Chip :=
  if Config.ports ≤ n ∨ 8 ≤ lane ∨ (portOf c n).st ≠ .train then c
  else trainChoose n (trainConfig n (updPort n (Port.hear lane mark good st) c))

/-- TRAINING_TIMEOUT: the attempt has not finished in 20 µs. -/
def trainingTimeout (n : Nat) (c : Chip) : Chip :=
  if Config.ports ≤ n ∨ now c < (portOf c n).trainFrom + 20000 then c else trainFail n c

/-- A lane carries codewords (R403). -/
def Port.active (p : Port) (lane : Nat) : Bool := decide (p.base ≤ lane ∧ lane < p.base + p.width)

/-- LANE_LOCK_LOSS. -/
def laneLockLoss (n lane : Nat) (c : Chip) : Chip :=
  if Config.ports ≤ n ∨ 8 ≤ lane then c
  else
    let p := portOf c n
    if p.st = .train then
      updPort n (fun p => { p with marks := SMap.set 0 p.marks lane 0, good := p.good &&& (255 - 2 ^ lane) }) c
    else if p.active lane then portRetrain n c
    else c

/-- ACK_TIMEOUT: flits are unacknowledged, and ACK has not advanced for 10 µs. -/
def ackTimeout (n : Nat) (c : Chip) : Chip :=
  if Config.ports ≤ n ∨ (portOf c n).replay.isEmpty ∨ now c < (portOf c n).ackFrom + 10000 then c else portRetrain n c

/-! ## Opening and closing (Table 17.12, R433 step 5) -/

/-- The CLOSE packet of a port. -/
def closePacket (c : Chip) (n : Nat) : Packet :=
  { ty := tyCLOSE, vc := vcCtrl, hops := maxHops c, dst := (portOf c n).peer, src := srcLcn c, tag := 0, status := 0
    rEpoch := c.tlk.routeEpoch, lEpoch := 0, addr := 0, len := 0, payload := [], v12 := false, res0 := false, rsh := false }

/-- A port that has closed gracefully: its routes switch, nothing is recorded or discarded (R433 step 5). -/
def portClosed (n : Nat) (c : Chip) : Chip :=
  switchRoutes n (updPort n (fun p => { p with width := 0, exch := none, closing := false }) (portState n .closed c))

/-- Setting EN. A FAILED port needs EN cleared first. -/
def portEnable (n : Nat) (c : Chip) : Chip :=
  if Config.ports ≤ n then c
  else
    let p := portOf c n
    if p.en then c
    else
      let c := updPort n (fun p => { p with en := true }) c
      if p.st = .down ∨ p.st = .closed then portState n .train (updPort n (Port.fresh (now c)) c) else c

/-- Stopping a port: one that is UP on 2.0 sends CLOSE and waits for its peer's, one on 1.2 stops without it. -/
def portStop (n : Nat) (c : Chip) : Chip :=
  let p := portOf c n
  match p.st with
  | .up =>
    if p.ver = 2 then (if p.closing then c else updPort n (fun p => { p with closing := true }) (transmit n (closePacket c n) c))
    else portDown n .closed .linkDown c
  | .train => if p.retraining then portDown n .down .linkDown c else portState n .down (updPort n (Port.fresh (now c)) c)
  | .negotiate => portState n .down (updPort n (Port.fresh (now c)) c)
  | .failed => portState n .down c
  | _ => c

/-- Clearing EN. -/
def portDisable (n : Nat) (c : Chip) : Chip :=
  if Config.ports ≤ n ∨ !(portOf c n).en then c
  else portStop n (updPort n (fun p => { p with en := false }) c)

/-- A write of TLK_PORT_CTRLn. -/
def portCtrlWrite (n : Nat) (v : W64) (c : Chip) : Chip :=
  let c := updPort n (fun p => { p with v12 := bitAt v 1, role := fld v 2 2 }) c
  let c := if bitAt v 0 then portEnable n c else portDisable n c
  if bitAt v 4 then portRetrain n c else c

/-- RETRAIN by a register write (R407). -/
def retrain (n : Nat) (c : Chip) : Chip := if Config.ports ≤ n then c else portRetrain n c

/-! ## Acknowledgement and replay (R404) -/

/-- Flits up to a sequence number are acknowledged at a TIME, if it names one that is not yet. -/
def Port.acked (t : Nat) (p : Port) (s : Nat) : Port :=
  if p.replay.any fun f => f.seq == s then
    let rest := (p.replay.dropWhile fun f => f.seq != s).drop 1
    let gone := (p.replay.takeWhile fun f => f.seq != s).map BufFlit.seq ++ [s]
    { p with replay := rest, lastAck := s, ackFrom := t, flying := p.flying.filter fun f => !(gone.contains f.1) }
  else p

/-- The flit of a codeword with the symbols that have been corrected in it; `none` where it is uncorrectable (R401, R402). -/
def flitOf (f : FlitIn) : Option (List Byte × Nat) := (rsDecode (lanesSymbols f.lanes)).map fun x => (symbolBytes (x.1.take 272), x.2)

/-- The ACK and the credits of an intact flit; the first one after a retrain is that from which this side replays (R405). -/
def flitAck (n : Nat) (bs : List Byte) (c : Chip) : Chip :=
  let h := leNat (bs.take 5)
  let vc := bits h 2 2
  pump n (updPort n (fun p =>
    let p := p.acked (now c) (bits h 16 12)
    let p := { p with credits := SMap.set 0 p.credits vc (SMap.get 0 p.credits vc + bits h 28 10) }
    if p.resync then { p.resend (gives c) with resync := false } else p) c)

/-- A flit is intact: its CRC and its type (R402). -/
def flitIntact (bs : List Byte) (ft : Nat) : Bool :=
  leNat ((bs.drop 336).take 4) == crc32c (bs.take 336) && leNat (bs.take 1) % 4 == ft

/-- A flit is damaged or is not the one expected: it is discarded, and so is every later flit until that one; one REPLAY flit goes out
(R404). -/
def flitLost (n : Nat) (c : Chip) : Chip :=
  updPort n (fun p => if p.rxLost then p else { p.send (gives c) 2 p.txSeq [] with rxLost := true }) c

/-- What every received codeword does before the type of its flit matters: counts, damage, and the answer, the bytes of an intact
flit of the type. The ACK and credits of a flit count when it is accepted (R401, R404, R405). -/
def flitArrives (n ft : Nat) (f : FlitIn) (c : Chip) : Option (List Byte) × Chip :=
  match flitOf f with
  | none =>
    let c := flitLost n (updPort n (fun p => { p with uncorr := satAdd 16 p.uncorr 1, badRun := p.badRun + 1 }) c)
    (none, if 4 ≤ (portOf c n).badRun then portRetrain n c else c)
  | some (bs, k) =>
    let c := updPort n (fun p => { p with corr := satAdd 32 p.corr k, badRun := 0 }) c
    if flitIntact bs ft then (some bs, c) else (none, flitLost n c)

/-- An intact IDLE or REPLAY flit is taken: nothing is missing, or its SEQ, the number that comes next, says that nothing is (R402,
R404). -/
def Port.takes (bs : List Byte) (p : Port) : Bool := !p.rxLost || bits (leNat (bs.take 5)) 4 12 == (p.rxSeq + 1) % 4096

/-- The port carries the codeword stream. -/
def Port.streaming (p : Port) : Bool := decide (p.st = .up) || decide (p.st = .negotiate)

/-- A codeword of the port's width can arrive on it. -/
def flitFits (c : Chip) (n : Nat) (f : FlitIn) : Bool :=
  decide (n < Config.ports) && (portOf c n).streaming && f.lanes.length == (portOf c n).width

/-- FLIT_IDLE. -/
def flitIdle (n : Nat) (f : FlitIn) (c : Chip) : Chip :=
  if !flitFits c n f then c
  else
    match flitArrives n 0 f c with
    | (none, c) => c
    | (some bs, c) => if (portOf c n).takes bs then flitAck n bs (updPort n (fun p => { p with rxLost := false }) c) else c

/-- FLIT_REPLAY: every flit after its ACK is sent again; the eighth time for one flit makes the port retrain. -/
def flitReplay (n : Nat) (f : FlitIn) (c : Chip) : Chip :=
  if !flitFits c n f then c
  else
    match flitArrives n 2 f c with
    | (none, c) => c
    | (some bs, c) =>
      if !(portOf c n).takes bs then c
      else
      let c := updPort n (fun p => { p with rxLost := false }) c
      let again := !(portOf c n).resync
      let c := flitAck n bs c
      let c := updPort n (fun p => { (if again then p.resend (gives c) else p) with replays := satAdd 16 p.replays 1 }) c
      if (portOf c n).replay.any fun f => decide (8 ≤ f.count) then portRetrain n c else c

/-! ## Negotiation (R417) -/

/-- The version that two offers agree on: 2 for 2.0, 1 for 1.2, nothing for no agreement. -/
def agreeVersion (v12 : Bool) (major minor : Nat) : Option Nat :=
  if major = 2 then some (if v12 then 1 else 2)
  else if major = 1 ∧ 2 ≤ minor then some 1
  else none

/-- NEGOTIATE: packets that have waited for the version take its form; requests made here have not entered the transmitter yet. -/
def portNegotiate (n : Nat) (p : Packet) (c : Chip) : Chip :=
  let b (i k : Nat) : Nat := leNat ((p.payload.drop i).take k)
  if Config.ports ≤ n ∨ (portOf c n).st ≠ .negotiate then c
  else
    match agreeVersion (portOf c n).v12 (b 0 1) (b 1 1) with
    | some v => pump n (portState n .up (updPort n (fun q => { q with
        ver := v, peer := b 2 3 % 2 ^ 20
        txq := q.txq.map fun x => if x.pkt.ty = tyNEGOTIATE then x else { x with pkt := formFor c v x.pkt } }) c))
    | none => portDown n .failed .versionMismatch c

/-! ## Time messages (R422) -/

/-- A time message to a port's peer. -/
def timePacket (c : Chip) (n ty : Nat) (bs : List Byte) : Packet :=
  { ty := ty, vc := vcCtrl, hops := maxHops c, dst := (portOf c n).peer, src := srcLcn c, tag := 0, status := 0
    rEpoch := c.tlk.routeEpoch, lEpoch := 0, addr := 0, len := bs.length, payload := bs, v12 := false, res0 := false
    rsh := false }

/-- A port in a time role: UP on 2.0. -/
def timeRole (c : Chip) (n role : Nat) : Bool :=
  let p := portOf c n
  decide (n < Config.ports ∧ p.st = .up ∧ p.ver = 2 ∧ p.role = role)

/-- INTERVAL_US as taken (Table 17.16). -/
def syncInterval (c : Chip) : Nat := 1000 * max 1 c.tlk.timeCfg

/-- TIME_SYNC_SEND: the interval has passed since the last TIME_SYNC of the link. -/
def timeSyncSend (n : Nat) (c : Chip) : Chip :=
  if timeRole c n 1 && (portOf c n).syncAt.all fun t => decide (t + syncInterval c ≤ now c) then
    transmit n (timePacket c n tyTIMESYNC (leBytes 8 0)) (updPort n (fun p => { p with syncAt := some (now c) }) c)
  else c

/-- TIME_SYNC at a LEAD port. -/
def timeSync (n : Nat) (p : Packet) (c : Chip) : Chip :=
  if timeRole c n 2 then
    transmit n (timePacket c n tyTIMEREPLY (p.payload.take 8 ++ leBytes 8 (now c) ++ leBytes 8 0)) c
  else c

/-- TIME_REPLY: offset and delay, halves of nanoseconds, of which the spec does not say how they are rounded. -/
def timeReply (n : Nat) (p : Packet) (c : Chip) : Chip :=
  let t (i : Nat) : Int := (leNat ((p.payload.drop (8 * i)).take 8) : Nat)
  if timeRole c n 1 && (portOf c n).exch.any (fun x => (x : Int) == t 0) then
    let t4 : Int := now c
    let (x, c) := takeFree (updPort n (fun p => { p with exch := none }) c)
    let half (i : Int) : Int := (i + ((x % 2 : Nat) : Int)) / 2
    linkMeasure (half ((t 1 - t 0) - (t4 - t 2))) (half ((t4 - t 0) - (t 2 - t 1))) c
  else c

/-- TIME_EXCHANGE_TIMEOUT. -/
def timeExchangeTimeout (c : Chip) : Chip :=
  (rangeFrom 0 Config.ports).foldl (fun c n =>
    match (portOf c n).exch with
    | some t => if 100000 ≤ now c - t then updPort n (fun p => { p with exch := none }) c else c
    | none => c) c

/-- CLOSE: the peer closes; the answer is CLOSE, unless this side sent first (R433 step 5). -/
def portClose (n : Nat) (c : Chip) : Chip :=
  if Config.ports ≤ n ∨ (portOf c n).st ≠ .up then c
  else portClosed n (if (portOf c n).closing then c else transmit n (closePacket c n) c)

/-! ## The route table (R419 to R421) -/

/-- Every entry that a table lists. -/
def tableEntries (t : SMap Nat) : List Nat := t.map Prod.snd

/-- A code of an entry is reserved. -/
def entReserved (e : Nat) : Bool :=
  entEgress e == 5 || entEgress e == 6 || entAlt e == 5 || entAlt e == 7

/-- No two valid entries have the same LCN. -/
def lcnsDistinct : List Nat → Bool
  | [] => true
  | e :: es => !(es.any fun x => entLcn x == entLcn e) && lcnsDistinct es

/-- A SWAP is allowed (R420). -/
def swapOk (c : Chip) (epoch : Nat) : Bool :=
  let es := tableEntries c.tlk.staged
  let vs := es.filter entValid
  lcnsDistinct vs && ((vs.filter fun e => entEgress e == 7).length == 1)
    && !(es.any entReserved) && (c.hport.peer || !(es.any fun e => entEgress e == 4 || entAlt e == 4))
    && epochOlder c.tlk.routeEpoch epoch

/-- A table has an entry for an LCN, valid or not. -/
def hasLcn (t : SMap Nat) (lcn : Nat) : Bool := (tableEntries t).any fun e => entLcn e == lcn

/-- SWAP (R420): held requests take their egress anew, held signals of removed LCNs are discarded (R174). -/
def routeSwap (epoch : Nat) (c : Chip) : Chip :=
  if !swapOk c epoch then { c with tlk.cfgErr := true }
  else
    let old := c.tlk.active
    let c := { c with tlk.active := c.tlk.staged, tlk.staged := old, tlk.routeEpoch := epoch }
    let c := emit 0x07 pTLK 1#64 (BitVec.ofNat 64 epoch) c
    let dead (x : RSig) : Bool := x.sent.isNone && hasLcn old x.lcn && decide (routeOf c x.lcn = .missing)
    let k := (c.sync.held.filter dead).length
    sendHeld (countRefused k { c with sync.held := c.sync.held.filter fun x => !dead x })

/-- COPY. -/
def routeCopy (c : Chip) : Chip := { c with tlk.staged := c.tlk.active }

/-- CLEAR. -/
def routeClear (c : Chip) : Chip :=
  { c with tlk.staged := SMap.mapVal routeReset (fun _ e => if entValid e then e - 2 ^ 26 else e) c.tlk.staged }

/-- A write of TLK_ROUTE_ENTRY reaches STAGED only. -/
def routeEntryWrite (v : W64) (c : Chip) : Chip :=
  if c.tlk.routeTable then c else { c with tlk.staged := SMap.set routeReset c.tlk.staged c.tlk.routeSel (fld v 0 27) }

/-- A write of TLK_ROUTE_CMD. -/
def routeCmd (v : W64) (c : Chip) : Chip :=
  match fld v 0 2 with
  | 1 => routeSwap (fld v 32 32) c
  | 2 => routeCopy c
  | 3 => routeClear c
  | _ => c

/-! ## Timeouts (R414, R416) -/

/-- RESP_TIMEOUT: no response within the limit after the first transmission. -/
def respTimeout (tag : Nat) (c : Chip) : Chip :=
  match c.tlk.out.find? fun r => r.tag == tag with
  | none => c
  | some r =>
    if !r.sent ∨ now c - r.since < 1000 * max 1 (fld c.tlk.cfg 0 20) then c
    else
      let c := { c with tlk.out := c.tlk.out.filter fun q => q.tag != tag
                        sync.held := c.sync.held.filter fun x => x.sent != some tag }
      deliver r (faultCode pTLK .linkDown) [] (pageFault pTLK .linkDown c)

/-- ROUTE_HOLD_TIMEOUT: a request held for a route. -/
def routeHoldTimeout (k : Nat) (c : Chip) : Chip :=
  match c.tlk.heldReqs[k]? with
  | none => c
  | some r =>
    if now c - r.since < 1000 * fld c.tlk.cfg 20 20 then c
    else deliver r (faultCode pTLK .linkDown) [] (pageFault pTLK .linkDown { c with tlk.heldReqs := c.tlk.heldReqs.eraseIdx k })

/-! ## Registers (R435) -/

/-- TLK_PORT_STATn. -/
def portStatWord (p : Port) : W64 :=
  pack [(0, 3, p.st.code), (3, 4, p.width), (7, 2, p.ver), (16, 20, p.peer), (36, 8, p.good)]

/-- Clears the counts of TLK_PORT_ERRn or TLK_ROUTE_STAT. -/
def tlkClear (off : Nat) (c : Chip) : Chip :=
  if 0x148 ≤ off ∧ off < 0x168 then updPort ((off - 0x148) / 8) (fun p => { p with corr := 0, uncorr := 0, replays := 0 }) c
  else if off = 0x188 then { c with tlk.noroute := 0, tlk.loop := 0 }
  else c

/-- Reads of the TLK page. -/
def tlkRead (c : Chip) (off : Nat) : W64 :=
  match off with
  | 0x100 => c.tlk.cfg
  | 0x168 => pack [(0, 32, c.tlk.routeEpoch)]
  | 0x170 => pack [(0, 14, c.tlk.routeSel), (16, 1, b2n c.tlk.routeTable)]
  | 0x178 => pack [(0, 27, SMap.get routeReset (if c.tlk.routeTable then c.tlk.active else c.tlk.staged) c.tlk.routeSel)]
  | 0x188 => pack [(0, 13, c.tlk.heldReqs.length), (16, 1, b2n c.tlk.cfgErr), (32, 16, c.tlk.noroute), (48, 16, c.tlk.loop)]
  | 0x190 => pack [(0, 16, c.tlk.timeCfg)]
  | _ =>
    if 0x108 ≤ off ∧ off < 0x128 then
      let p := portOf c ((off - 0x108) / 8)
      pack [(0, 1, b2n p.en), (1, 1, b2n p.v12), (2, 2, p.role)]
    else if 0x128 ≤ off ∧ off < 0x148 then portStatWord (portOf c ((off - 0x128) / 8))
    else if 0x148 ≤ off ∧ off < 0x168 then
      let p := portOf c ((off - 0x148) / 8)
      pack [(0, 32, p.corr), (32, 16, p.uncorr), (48, 16, p.replays)]
    else rshRead c off

/-- Writes of the TLK page. -/
def tlkWrite (off : Nat) (v : W64) (c : Chip) : Chip :=
  match off with
  | 0x100 => { c with tlk.cfg := maskWrite (maskOf [(0, 48)]) 0#64 v }
  | 0x170 => { c with tlk.routeSel := fld v 0 14, tlk.routeTable := bitAt v 16 }
  | 0x178 => routeEntryWrite v c
  | 0x180 => routeCmd v c
  | 0x188 => tlkClear off (if bitAt v 16 then { c with tlk.cfgErr := false } else c)
  | 0x190 => { c with tlk.timeCfg := fld v 0 16 }
  | _ =>
    if 0x108 ≤ off ∧ off < 0x128 then portCtrlWrite ((off - 0x108) / 8) v c
    else if 0x148 ≤ off ∧ off < 0x168 then tlkClear off c
    else rshWrite off v c

end Sys2Proof.Machine
end

