-- ==== Sys2Proof/Machine/Power.lean ====
section
/-! DEFINITION. PWR (Power, Clocks, Wake and Start, sections 19.1 to 19.5): power states and wakes, operating points, the
drogue's admissions, the envelope, and the registers of the PWR page (R455 to R467, R472). -/

namespace Sys2Proof.Machine

/-! ## What a loss of power leaves -/

/-- The core as PORST_N leaves it. What belongs to the test wrapper, the levels that pins and the supply have, defects, and the records of the flits and
the sideband messages that have been sent are not reset, nor is the model's own count of free values. -/
def freshChip (c : Chip) : Chip :=
  { Chip.reset with
    free := c.free, wrap := { c.wrap with instr := 0 }
    pwr := { PwrSt.reset with plAck := c.pwr.plAck, uvNow := c.pwr.uvNow, cur := if c.pwr.uvNow then 0 else 3 }
    vec := { VecSt.reset with stuck := c.vec.stuck }
    tlk.ports := SMap.mapVal .reset (fun _ p => { Port.reset with wire := p.wire }) c.tlk.ports
    hport := { HportSt.reset with sideband := c.hport.sideband } }

/-- The start record, which lies in the WAKE_N detector (R459, R468, R472). -/
def keepRecord (old c : Chip) : Chip :=
  { c with core := { c.core with
      kind := old.core.kind, retainV := old.core.retainV, fails := old.core.fails, cause := old.core.cause
      p3Cause := old.core.p3Cause, durUs := old.core.durUs, attempts := old.core.attempts } }

/-- A POWER event (Table 20.1). -/
def powerEvent (old new row : Nat) (c : Chip) : Chip := emit 0x06 pPWR (pack [(0, 2, old), (2, 2, new), (8, 8, row)]) 0#64 c

/-- P3: its event is offered to the trace rings, and then nothing but the start record is kept, and RETAIN_V is cleared (R459, R470,
R478). -/
def enterP3 (after3 : Bool) (c : Chip) : Chip :=
  let c := flushEvents (powerEvent c.pwr.state 3 0 c)
  let f := keepRecord c (freshChip c)
  { f with core := { f.core with phase := .p3, retainV := false, p3Cause := after3 } }

/-- The core has been started and has not been taken by the wrapper: P0, P1 or P2. -/
def isUp (c : Chip) : Bool := decide (c.core.phase = .running)

/-- The core is in P0. -/
def isAwake (c : Chip) : Bool := isUp c && c.pwr.state == 0

/-! ## The envelope (R467, R497) -/

/-- The offer in amperes. -/
def offerAmps (c : Chip) : Nat := min 255 ((budgetOf c - idleLoad c - reserveOf c) / 8)

/-- LEND_OFFER: PL_AMT is driven, and once it has stood for a REFCLK cycle PL_REQ rises (R497). -/
def lendOffer (c : Chip) : Chip :=
  match c.sync.quietSince with
  | none => c
  | some q =>
    if isUp c && c.pwr.lend == 0 && !c.pwr.plAck && bitAt c.pwr.cfg 52
        && decide (1000 * fld c.pwr.cfg 32 12 ≤ now c - max q c.pwr.offerFrom) then
      if c.pwr.amtStable && c.pwr.plAmt == offerAmps c then { c with pwr.lend := 1, pwr.plReq := true }
      else { c with pwr.plAmt := offerAmps c, pwr.amtStable := false }
    else c

/-- A REFCLK cycle of an offer: the PL_AMT driven in the cycle before has stood, and PL_REQ rises if the offer still holds (R497). -/
def lendTick (c : Chip) : Chip := if c.pwr.amtStable then c else lendOffer { c with pwr.amtStable := true }

/-- The envelope's signals are seen: from step 6 of a cold start on, a warm start included, until the wrapper or P3 (R487, R505). -/
def envelopeUp (c : Chip) : Bool := isUp c || inWarm c

/-- PL_ACK_RISE: ignored while PL_REQ is low. -/
def plAckRise (c : Chip) : Chip :=
  let c := { c with pwr.plAck := true }
  if envelopeUp c && c.pwr.plReq && c.pwr.lend == 1 then { c with pwr.lend := 2, pwr.lent := 8 * c.pwr.plAmt } else c

/-- PL_ACK_FALL: the end of a reclaim, or the host's own return. -/
def plAckFall (c : Chip) : Chip :=
  let c := { c with pwr.plAck := false }
  if !envelopeUp c then c
  else if c.pwr.lend = 3 then { c with pwr.lend := 0, pwr.lent := 0, pwr.reclaimFrom := none }
  else if c.pwr.lend = 2 then
    { c with pwr.lend := 0, pwr.lent := 0, pwr.plReq := false, pwr.offerFrom := now c }
  else c

/-- RECLAIM_LATE. -/
def reclaimLate (c : Chip) : Chip :=
  match c.pwr.reclaimFrom with
  | some t =>
    if c.pwr.plAck ∧ 1000 * fld c.pwr.cfg 44 8 ≤ now c - t then { c with pwr.reclaimLate := true } else c
  | none => c

/-! ## The drogue (R464 to R466) -/

/-- D where R464 states it outright: IDLE − BASE in P1, in P2 and in a start, and IDLE once BASE has been admitted; IDLE in P0 with
every block gated and nothing ramping. -/
def settleDecl (c : Chip) : Chip :=
  if !isAwake c then { c with pwr.decl := if baseRamps c then idleLoad c else idleLoad c - baseStep c }
  else if c.pwr.ungated.isEmpty && c.pwr.ramp.isNone then { c with pwr.decl := idleLoad c }
  else c

/-- The request for BASE: the one that waits, or one made now (R463). -/
def baseRequest (c : Chip) : PwrReq := (c.pwr.queue.find? fun q => q.unit == 0).getD (newRequest 0 c)

/-- BASE waits for its admission. -/
def baseWaits (c : Chip) : Bool := c.pwr.queue.any fun q => q.unit == 0

/-- BASE can be admitted: no undervoltage lasts, and its step fits (R456, R464). -/
def baseFits (c : Chip) : Bool := !c.pwr.uvNow && stepFits c (baseRequest c)

/-- BASE waits: a deferred request like any other, which reclaims lent budget if it is that it does not fit (R465). -/
def deferBase (c : Chip) : Chip :=
  let q := baseRequest c
  let d := if c.pwr.uvNow then c else reclaim c
  if baseWaits c then d else noteDeferred 0 { d with pwr.queue := d.pwr.queue ++ [q] }

/-- BASE is admitted and ramps, or waits for its admission (R464, R465). -/
def admitBase (c : Chip) : Chip :=
  if baseRamps c then c else if baseFits c then grantRamp (baseRequest c) c else deferBase c

/-- A ramp has run its time (R464): its unit runs, on half its step if half was asked for. The ramp of an upward step that an
undervoltage has ended leaves nothing. -/
def endRamp (c : Chip) : Chip :=
  match c.pwr.ramp with
  | none => c
  | some q =>
    if now c < c.pwr.rampEnd then c
    else
      let u := unitOf q.unit
      let had := (SMap.get none c.pwr.ungated u).getD 0
      let c := if 17 ≤ q.unit then updArr (u - 1) (fun a => { a with gates := [] }) c else c
      let c := { c with pwr.ramp := none, pwr.rampEnd := 0 }
      if u = 12 ∧ !c.pwr.busy then settleDecl { c with pwr.decl := c.pwr.decl - q.step }
      else
        { c with
          pwr.ungated := SMap.set none c.pwr.ungated u (some (had + q.step))
          pwr.half := if 13 ≤ q.unit then SMap.set false c.pwr.half u (decide (17 ≤ q.unit)) else c.pwr.half }

/-- The engine classes whose work a unit does, and which of their descriptors. -/
def unitIdle (c : Chip) (u : Nat) : Bool :=
  let none' (cls : Nat) (p : Desc → Bool) : Bool := (classDescs c cls fun d => d.started && p d).isEmpty
  match requesterOf u with
  | 1 => none' 1 fun d => d.arrays.contains (u - 1)
  | 2 => none' 3 fun d => d.chs.contains (u - 5)
  | 3 => none' 2 fun _ => true
  | 4 => none' 4 fun _ => true
  | 5 => [0, 5, 6, 7, 8].all fun k => none' k fun _ => true
  | _ => false

/-- BLOCK_GATE: a block that is idle gates, and its step leaves D; with the last of them D is IDLE. -/
def blockGate (u : Nat) (c : Chip) : Chip :=
  if u < 1 ∨ 11 < u ∨ !unitIdle c u then c
  else
    match SMap.get none c.pwr.ungated u with
    | none => c
    | some s =>
      settleDecl { c with
        pwr.ungated := SMap.set none c.pwr.ungated u none, pwr.half := SMap.set false c.pwr.half u false
        pwr.decl := c.pwr.decl - s }

/-- ZGATE_HALF_REQUEST: an array on half its step whose work turns dense asks for the other half (R466). -/
def zgateHalfRequest (a : Nat) (c : Chip) : Chip := if arrayDense c a then addRequest (13 + a) c else c

/-! ## Operating points (R456 to R458) -/

/-- Takes up the way from the point in force to the target: an upward step asks the drogue first, a downward one begins. -/
def dvfsGo (c : Chip) : Chip :=
  if c.pwr.uvNow ∨ !isAwake c then c
  else if c.pwr.cur = c.pwr.point then { c with pwr.busy := false }
  else if c.pwr.cur < c.pwr.point then requestUnit 12 { c with pwr.busy := true }
  else { c with pwr.busy := true, pwr.down := true }

/-- DVFS_POINT_WRITE. -/
def dvfsPointWrite (v : W64) (c : Chip) : Chip :=
  let p := fld v 0 3
  if 5 ≤ p then { c with pwr.cfgErr := true }
  else
    let c := { c with pwr.point := p }
    if c.pwr.busy then c else dvfsGo c

/-- DVFS_STEP_DONE: the downward step or the admitted upward step in progress ends, and the next begins. -/
def dvfsStepDone (c : Chip) : Chip :=
  if !c.pwr.busy ∨ c.pwr.uvNow ∨ !isAwake c then c
  else if c.pwr.down then dvfsGo { c with pwr.cur := c.pwr.cur - 1, pwr.down := false }
  else if unitOn c 12 then
    dvfsGo (settleDecl { c with pwr.cur := min 4 (c.pwr.cur + 1), pwr.ungated := SMap.set none c.pwr.ungated 12 none })
  else c

/-- PWR runs: in every start and once the core is up. -/
def pwrRuns (c : Chip) : Bool :=
  match c.core.phase with
  | .running => true
  | .cold _ => true
  | .warm _ => true
  | _ => false

/-- UNDERVOLTAGE (R456): no admissions, point 0; a change of point ends. -/
def undervoltage (c : Chip) : Chip :=
  if !pwrRuns c then c
  else settleDecl { c with
    pwr.uv := true, pwr.uvNow := true, pwr.cur := 0, pwr.busy := false, pwr.down := false
    pwr.ungated := SMap.set none c.pwr.ungated 12 none }

/-- UV_RECOVER: admissions go on, and the core goes back to PWR_DVFS.POINT, after a start or an exit if one runs. -/
def uvRecover (c : Chip) : Chip := if c.pwr.uvNow then dvfsGo { c with pwr.uvNow := false } else c

/-! ## Power states (R459 to R462) -/

/-- ns of an exit beside its BASE ramp: P1, P2, and P3 (Table 19.3). -/
def exitFixed (st : Nat) : Nat := if st = 1 then 20 else if st = 2 then 59820 else 12000000

/-- The exit latency of a state lasts at most `ns` (Table 19.3). -/
def exitWithin (c : Chip) (st ns : Nat) : Bool :=
  decide (exitFixed st ≤ ns) && (st == 3 || decide (1000 * baseStep c ≤ (ns - exitFixed st) * slewOf c))

/-- Some SLEEPT deadline falls before now plus the P2 exit latency (R460). -/
def sleepSoon (c : Chip) : Bool :=
  c.seq.ctxs.any fun p =>
    match p.2.st, p.2.wait with
    | .waiting, .time d => !exitWithin c 2 (d - now c)
    | _, _ => false

/-- The deepest state that meets every condition of R460 at the present length of the quiet. -/
def deepest (c : Chip) : Nat :=
  match c.sync.quietSince with
  | none => 0
  | some q =>
    if c.pwr.held then 0
    else if bitAt c.pwr.cfg 53 && exitWithin c 3 c.pwr.latTol then 3
    else if decide (1000 * fld c.pwr.cfg 16 16 ≤ now c - q) && exitWithin c 2 c.pwr.latTol && !sleepSoon c then 2
    else if exitWithin c 1 c.pwr.latTol then 1
    else 0

/-- Enters a deeper state: every fast clock gates, and D is IDLE − BASE (R464). -/
def enterState (st : Nat) (c : Chip) : Chip :=
  if st ≤ c.pwr.state then c
  else if st = 3 then enterP3 false c
  else
    powerEvent c.pwr.state st 0 { c with
      pwr.state := st, pwr.ungated := [], pwr.half := [], pwr.ramp := none, pwr.rampEnd := 0, pwr.down := false
      pwr.decl := idleLoad c - baseStep c }

/-- The conditions of R460 are evaluated. -/
def evalState (c : Chip) : Chip := if isUp c ∧ c.pwr.waking = none then enterState (deepest c) c else c

/-- P1_ENTRY: quiet has lasted P1_AFTER. -/
def p1Entry (c : Chip) : Chip :=
  match c.sync.quietSince with
  | some q => if fld c.pwr.cfg 0 16 ≤ now c - q then evalState c else c
  | none => c

/-- P2_ENTRY: quiet has lasted P2_AFTER, and P1_AFTER before it. -/
def p2Entry (c : Chip) : Chip :=
  match c.sync.quietSince with
  | some q =>
    if fld c.pwr.cfg 0 16 ≤ now c - q ∧ 1000 * fld c.pwr.cfg 16 16 ≤ now c - q then evalState c else c
  | none => c

/-- A wake event in P1 or P2, by its row of Table 19.4 (R461). A release ends the quiet at that moment: what has been offered or lent
is reclaimed while the core leaves the state (R184, R467). -/
def beginWake (row : Nat) (c : Chip) : Chip :=
  if isUp c ∧ c.pwr.state ≠ 0 then
    let c := if 1 ≤ row ∧ row ≤ 3 then reclaim c else c
    if c.pwr.waking = none then { c with pwr.waking := some row } else c
  else c

/-- A wake event with what it does once the core is in P0. -/
def holdWake (row : Nat) (i : Instr) (c : Chip) : Chip := beginWake row { c with pwr.wakeCmds := c.pwr.wakeCmds ++ [i] }

/-- The exit from P1 or P2 is over: the core is in P0. -/
def leftState (row : Nat) (c : Chip) : Chip :=
  dvfsGo (powerEvent c.pwr.state 0 row (settleDecl { c with pwr.state := 0, pwr.waking := none }))

/-- The exit latency has passed, and with it the ramp of a BASE that was admitted in time (Table 19.3): the core is in P0. If BASE cannot
be admitted the exit waits for it, and then for its ramp (R456, R464, R465). -/
def leaveState (row : Nat) (c : Chip) : Chip :=
  if c.pwr.state = 0 ∨ baseWaits c ∨ baseRamps c then c
  else if !baseFits c then deferBase c
  else leftState row (grantStep (baseRequest c) c)

/-- PWR_HOLD. -/
def pwrHold (c : Chip) : Chip := beginWake 7 { c with pwr.held := true }

/-- PWR_RELEASE. -/
def pwrRelease (c : Chip) : Chip := { c with pwr.held := false }

/-- The pages whose EN is writable: those of the engines (R510). -/
def enginePages : List Nat := [pDMA, pXPB, pMXA, pMVP, pVEC, pRDU, pWVM, pTLK, pSNAP]

/-- PWR_OFF: P3 if every engine page reports PG_QUIESCED. -/
def pwrOff (c : Chip) : Chip :=
  if enginePages.all (quiesced c) then enterP3 false c else { c with pwr.cfgErr := true }

/-- A write of PWR_CTRL. -/
def pwrCtrlWrite (v : W64) (c : Chip) : Chip :=
  match fld v 0 2 with
  | 1 => pwrHold c
  | 2 => pwrRelease c
  | 3 => pwrOff c
  | _ => c

/-- LAT_TOL_WRITE: a present state that is now too deep is left. -/
def latTolWrite (v : W64) (c : Chip) : Chip :=
  let c := { c with pwr.latTol := fld v 0 32 }
  if exitWithin c c.pwr.state c.pwr.latTol then c else beginWake 8 c

/-! ## Registers (R472) -/

/-- PWR_STAT (Table 19.15). -/
def pwrStatWord (c : Chip) : W64 :=
  pack [(0, 2, c.pwr.state), (2, 1, b2n c.pwr.wakeDeferred), (3, 1, b2n c.pwr.uv), (4, 1, b2n c.pwr.reclaimLate)
       , (5, 1, b2n c.pwr.cfgErr), (6, 2, c.pwr.lend), (8, 4, c.pwr.queue.length), (16, 8, c.pwr.lent / 8)
       , (32, 12, c.pwr.decl)]

/-- Reads of the PWR page. -/
def pwrRead (c : Chip) (off : Nat) : W64 :=
  match off with
  | 0x100 => pack [(0, 32, c.pwr.latTol)]
  | 0x108 => c.pwr.cfg
  | 0x110 => pack [(2, 1, b2n c.pwr.held)]
  | 0x118 => pack [(0, 3, c.pwr.point), (4, 3, c.pwr.cur), (7, 1, b2n c.pwr.busy)]
  | 0x120 => pack [(0, 10, c.pwr.slew)]
  | 0x128 => c.pwr.step
  | 0x130 => pack [(0, 18, c.pwr.prio)]
  | 0x138 => c.pwr.budget
  | 0x140 => pwrStatWord c
  | 0x148 => pack [(0, 48, c.pwr.deferNs)]
  | _ => 0#64

/-- A write of PWR_STAT clears the flags in which it has a 1. -/
def pwrStatWrite (v : W64) (c : Chip) : Chip :=
  { c with
    pwr.wakeDeferred := c.pwr.wakeDeferred && !bitAt v 2
    pwr.uv := c.pwr.uv && !bitAt v 3
    pwr.reclaimLate := c.pwr.reclaimLate && !bitAt v 4
    pwr.cfgErr := c.pwr.cfgErr && !bitAt v 5 }

/-- Writes of the PWR page. -/
def pwrWrite (off : Nat) (v : W64) (c : Chip) : Chip :=
  match off with
  | 0x100 => latTolWrite v c
  | 0x108 => { c with pwr.cfg := maskWrite (maskOf [(0, 54)]) 0#64 v }
  | 0x110 => pwrCtrlWrite v c
  | 0x118 => dvfsPointWrite v c
  | 0x120 => { c with pwr.slew := fld v 0 10 }
  | 0x128 => settleDecl { c with pwr.step := maskWrite (maskOf [(0, 56)]) 0#64 v }
  | 0x130 => { c with pwr.prio := fld v 0 18 }
  | 0x138 => settleDecl { c with pwr.budget := maskWrite (maskOf [(0, 36)]) 0#64 v }
  | 0x140 => pwrStatWrite v c
  | _ => c

end Sys2Proof.Machine
end

