-- ==== Sys2Proof/Machine/Start.lean ====
section
/-! DEFINITION. CORE: cold start, its image and repairs, warm start and escalation, loss of power, resets and wakes, and the
registers of the CORE page (R5 to R7, R23, R196, R197, R430, R432, R456, R468 to R472, R488 to R495, R502, R503, R518). -/

namespace Sys2Proof.Machine

/-! ## The sideband, core to host (Table 17.10) -/

/-- A sideband message: header and words. -/
def sbMsg (msg arg : Nat) (ws : List W32) : List W32 :=
  BitVec.ofNat 32 (msg % 256 + 256 * (ws.length % 256) + 65536 * (arg % 65536)) :: ws

/-- Sends a sideband message. -/
def sbSend (msg arg : Nat) (ws : List W32) (c : Chip) : Chip :=
  { c with hport.sideband := c.hport.sideband ++ [sbMsg msg arg ws] }

/-- STATE messages: 1 STARTING, 2 RUNNING, 3 DETACHING, 4 DETACHED, 5 START_FAIL. -/
def sbState (s : Nat) (c : Chip) : Chip := sbSend 0x05 s [] c

/-- The word of the core's HELLO: HPP 3.0, its channels, 64 request credits and 512 beat credits (R429, R432). -/
def helloWord : W32 := BitVec.ofNat 32 (3 + Config.channels * 2 ^ 8 + 64 * 2 ^ 13 + 64 * 2 ^ 21)

/-! ## Cold start (R468, R469, Table 19.6) -/

/-- CORE_START_STAT (Table 19.17). -/
def startStat (c : Chip) : W64 :=
  pack [(0, 2, c.core.kind), (2, 1, b2n c.core.retainV), (3, 2, c.core.fails), (5, 3, c.core.cause)
       , (8, 1, b2n c.core.p3Cause)]

/-- Step 1 begins: everything but the start record goes, and TIME counts from zero. A first attempt begins a series with
FAILS at 0; a later one keeps what the series has and the CORE page's faults. CORE_ARRAY_PRESENT reads 0 again until the image
has been loaded, whatever began the start: for a start that PORST_N did not begin R7 leaves this open (DESIGN CHOICE, log 56). -/
def coldBegin (kind : Nat) (first : Bool) (c : Chip) : Chip :=
  let f := keepRecord c (freshChip c)
  let f := { f with pwr.decl := idleLoad f - baseStep f }
  { f with
    pages := if first then [] else SMap.set .reset [] pCORE (pageOf c pCORE)
    core := { f.core with
      phase := .cold 1
      kind := if first then kind else c.core.kind
      fails := if first then 0 else c.core.fails
      durBefore := if first then 0 else c.core.durBefore } }

/-- Records an attempt, latest first (Table 20.5). -/
def noteAttempt (c : Chip) : Chip := { c with core.attempts := ((startStat c).toNat, now c) :: c.core.attempts.take 2 }

/-- A START event with the number of the attempt in its series (Table 20.1). -/
def startEvent (cause attempt dur : Nat) (c : Chip) : Chip :=
  emit 0x09 pCORE (pack [(0, 2, c.core.kind), (2, 3, cause), (5, 2, attempt)]) (BitVec.ofNat 64 dur) c

/-- A step fails: the cause and START_FAIL are recorded, and the series goes on after 1 ms or, after its third failure, ends
in P3 (R469). `ret`: VDD_RET is the rail that failed. -/
def startFails (cause : Nat) (ret : Bool) (c : Chip) : Chip :=
  let c := { c with core.cause := cause, core.fails := c.core.fails + 1, core.retainV := false
                    core.durBefore := c.core.durBefore + now c + 1000000 }
  let c := noteAttempt (startEvent cause c.core.fails 0 (pageFault pCORE .startFail c))
  if 3 ≤ c.core.fails then enterP3 true (if ret then c else sbState 5 c)
  else { c with core.phase := .retry }

/-- COLD_START_RETRY: rails have been down for 1 ms. -/
def coldStartRetry (c : Chip) : Chip := if c.core.phase = .retry then coldBegin c.core.kind false c else c

/-- RAIL_POWER_GOOD: step 1 of a cold start is done and step 2 begins with STATE STARTING, HELLO and IMG_REQ; or step 2 of
a warm start is done. -/
def railPowerGood (c : Chip) : Chip :=
  match c.core.phase with
  | .cold 1 =>
    sbSend 0x02 0 [] (sbSend 0x01 0 [helloWord] (sbState 1
      { c with core.phase := .cold 2, core.stepFrom := now c, hport.st := .negotiate }))
  | .warm 2 => { c with core.phase := .warm 3 }
  | _ => c

/-- REGULATOR_TIMEOUT of a rail: 0 VDD_CORE, 1 VDD_SRAM, 2 VDD_RET. The regulators report it after 4 ms, or at once where the trim
is out of range, which has no row of its own (log 106). -/
def regulatorTimeout (rail : Nat) (c : Chip) : Chip := if c.core.phase = .cold 1 then startFails 1 (rail == 2) c else c

/-! ## The image (R196, R430, R502, R503) -/

/-- A 32-bit image word. -/
def imgWord (ws : List W32) (i : Nat) : Nat := (nth 0#32 ws i).toNat

/-- The repair entries of an image. -/
def imgRepairs (ws : List W32) : List Nat :=
  (rangeFrom 0 (imgWord ws 2 % 65536)).map fun k => imgWord ws (16 + 2 * k) + 2 ^ 32 * imgWord ws (17 + 2 * k)

/-- Fields of a repair entry (Table 7.2). -/
def repBank (e : Nat) : Nat := bits e 0 8
def repKind (e : Nat) : Nat := bits e 8 2
def repSpare (e : Nat) : Nat := bits e 10 4
def repTarget (e : Nat) : Nat := bits e 16 16

/-- An entry's fields lie in their ranges (R196); one of KIND 0 is ignored, but its reserved bits count. -/
def repOk (e : Nat) : Bool :=
  decide (bits e 14 2 = 0 ∧ bits e 32 32 = 0 ∧ repKind e ≠ 3)
    && (match repKind e with
      | 1 => decide (repBank e < Config.banks ∧ repTarget e < Config.bankRows)
      | 2 => decide (repBank e < Config.banks ∧ repSpare e < 4 ∧ repTarget e < 576)
      | _ => true)

/-- Two entries clash: the same spare, or the same target, of one bank. -/
def repClash (a b : Nat) : Bool :=
  repBank a == repBank b && repKind a == repKind b && (repSpare a == repSpare b || repTarget a == repTarget b)

/-- No two entries clash. -/
def repDistinct : List Nat → Bool
  | [] => true
  | e :: es => !(es.any (repClash e)) && repDistinct es

/-- The boot record: the PC at which context 0 starts. -/
def imgBoot (ws : List W32) : W64 := BitVec.ofNat 64 (imgWord ws 8 + 2 ^ 32 * imgWord ws 9)

/-- The bytes of image words. -/
def imgBytes (ws : List W32) : List Byte := ws.flatMap fun w => leBytes 4 w.toNat

/-- PRESENT names arrays that a Herend can have (section 0.3). -/
def presentOk (p : Nat) : Bool := p == 0xF || p == 0x3 || p == 0xC

/-- The image load succeeds (R503). -/
def imgOk (ws : List W32) : Bool :=
  let n := imgWord ws 2 % 65536
  let p := imgWord ws 3 % 16
  let reps := (imgRepairs ws).filter fun e => repKind e != 0
  decide (imgWord ws 0 = 0xAC2E1400 ∧ imgWord ws 1 = 0x0104 ∧ imgWord ws 2 / 65536 = 0 ∧ imgWord ws 3 / 16 = 0)
    && ((rangeFrom 12 4).all fun i => imgWord ws i == 0)
    && decide (n ≤ Config.banks * 20) && presentOk p
    && ((rangeFrom 0 4).all fun a => p.testBit a || imgWord ws (4 + a) == 0)
    && imgBoot ws != 0#64 && (pcFault (imgBoot ws)).isNone
    && (imgRepairs ws).all repOk && repDistinct reps
    && ws.length == 17 + 2 * n
    && imgWord ws (16 + 2 * n) == crc32c (imgBytes (ws.take (16 + 2 * n)))

/-- IMG_DATA: words of the image, in step 2 only. -/
def imgData (ws : List W32) (c : Chip) : Chip :=
  if c.core.phase = .cold 2 then { c with core.imgWords := c.core.imgWords ++ ws } else c

/-- What a good image sets (R503). -/
def imgApply (ws : List W32) (c : Chip) : Chip :=
  let reps := (imgRepairs ws).filter fun e => repKind e != 0
  let c := (rangeFrom 0 4).foldl (fun c a => updArr a (fun x => { x with spare := imgWord ws (4 + a) }) c) c
  { c with
    core := { c.core with
      phase := .cold 3, present := imgWord ws 3 % 16, image := ws, imgWords := []
      dieId := BitVec.ofNat 64 (imgWord ws 10 + 2 ^ 32 * imgWord ws 11) }
    seq.bootPc := imgBoot ws
    lmem.repairs := reps.map (BitVec.ofNat 64)
    lmem.hard := reps.length }

/-- IMG_END: a host that has not sent HELLO fails the step with cause VERSION, a bad image with cause IMAGE (R432, R503). -/
def imgEnd (c : Chip) : Chip :=
  if c.core.phase ≠ .cold 2 then c
  else if !c.core.helloSeen then startFails 3 false (pageFault pHPORT .versionMismatch c)
  else if imgOk c.core.imgWords then imgApply c.core.imgWords c
  else startFails 2 false c

/-- IMAGE_TIMEOUT: 100 ms since IMG_REQ, with which step 2 began. -/
def imageTimeout (c : Chip) : Chip :=
  if c.core.phase = .cold 2 ∧ 100000000 ≤ now c - c.core.stepFrom then startFails 2 false c else c

/-- The core's grants to the host: 64 requests and 512 beats of each channel (R429). -/
def hostGrant (ch : Nat) : SMap Nat :=
  (rangeFrom 0 ch).foldl (fun m k => SMap.set 0 (SMap.set 0 m (2 * k) 64) (2 * k + 1) 512) []

/-- HELLO (R429, R432): the agreed version is the lower of 3.0 and the host's; a major below 2 or above 3 fails the start. -/
def hello (w : Nat) (c : Chip) : Chip :=
  let major := bits w 0 4
  let minor := bits w 4 4
  if c.core.phase ≠ .cold 2 then c
  else if major < 2 ∨ 3 < major then startFails 3 false (pageFault pHPORT .versionMismatch c)
  else
    let three := decide (major = 3)
    let ch := min Config.channels (bits w 8 5)
    { c with
      core.helloSeen := true
      hport := { c.hport with
        st := .up, major := major, minor := if three then 0 else minor, channels := ch
        grant := hostGrant ch
        tags := if three then 1024 else 256, maxLines := if three then 64 else 4, peer := three
        credits := (rangeFrom 0 ch).foldl (fun m k =>
          SMap.set 0 (SMap.set 0 m (2 * k) (bits w 13 8)) (2 * k + 1) (8 * bits w 21 7)) [] } }

/-! ## Repairs (R197, R198) -/

/-- Adds a soft repair for a failing row or column that nothing replaces yet; `none` when the bank's spares are used up. -/
def softRepair (reps : List Nat) (e : Nat) : Option (List Nat) :=
  let k := repKind e
  if repBank e < Config.banks ∧ (k = 1 ∨ k = 2) then
    let mine := reps.filter fun r => repBank r == repBank e && repKind r == k
    if mine.any fun r => repTarget r == repTarget e then some reps
    else
      match firstFrom (fun s => !(mine.any fun r => repSpare r == s)) 0 (if k = 1 then 16 else 4) with
      | some s => some (reps ++ [repBank e + 2 ^ 8 * k + 2 ^ 10 * s + 2 ^ 16 * repTarget e])
      | none => none
  else some reps

/-- Soft repairs for all that fails, in turn. -/
def softRepairs : List Nat → List Nat → Option (List Nat)
  | reps, [] => some reps
  | reps, e :: es =>
    match softRepair reps e with
    | some r => softRepairs r es
    | none => none

/-- What the repairs make of the banks. -/
def bankTable (reps : List Nat) (hard : Nat) : SMap Bank :=
  let soft := reps.drop hard
  (rangeFrom 0 Config.banks).foldl (fun m b =>
    let n (k : Nat) : Nat := (reps.filter fun r => repBank r == b && repKind r == k).length
    SMap.set .reset m b { Bank.reset with rowsUsed := n 1, colsUsed := n 2, soft := soft.any fun r => repBank r == b }) []

/-- MARCH_TEST_DONE with what still fails, in the form of Table 7.2: soft repairs, then all of LMEM zero. -/
def marchTestDone (failing : List W64) (c : Chip) : Chip :=
  if c.core.phase ≠ .cold 3 then c
  else
    match softRepairs (c.lmem.repairs.map BitVec.toNat) (failing.map BitVec.toNat) with
    | none => startFails 4 false c
    | some reps =>
      { c with
        core.phase := .cold 4, core.stepFrom := now c
        lmem.repairs := reps.map (BitVec.ofNat 64)
        lmem.softCount := reps.length - c.lmem.hard
        lmem.banks := bankTable reps c.lmem.hard
        lmem.mem := [], lmem.ecc := [], lmem.wbQueue := [] }

/-! ## Ends of starts -/

/-- Context 0 becomes READY at SEQ_BOOT_PC and every other context is FREE (R94). -/
def releaseSeq (c : Chip) : Chip := { c with seq.ctxs := SMap.set .idle [] 0 { Ctx.idle with pc := c.seq.bootPc, st := .ready } }

/-- A start succeeds: its duration, its record, its event. -/
def startDone (c : Chip) : Chip :=
  let us := (c.core.durBefore + (now c - c.core.startedAt)) / 1000
  let c := startEvent 0 (c.core.fails + 1) us { c with core.phase := .running, core.durUs := us }
  noteAttempt { c with core.fails := 0, core.durBefore := 0 }

/-- Step 5 of a cold start: every register that steps 2 and 3 did not set takes its reset value, weight sets and drain entries
hold zero. LMEM, the agreed host port, TIME's count and requests from the host that wait stay. -/
def coldReset (c : Chip) : Chip :=
  let f := freshChip c
  { f with
    core := { c.core with irqRoute := 0 }
    seq.bootPc := c.seq.bootPc
    time := { f.time with count := c.time.count, frac := c.time.frac, sub := c.time.sub }
    lmem := { f.lmem with
      mem := c.lmem.mem, ecc := c.lmem.ecc, banks := c.lmem.banks, repairs := c.lmem.repairs, hard := c.lmem.hard
      softCount := c.lmem.softCount }
    vec := { f.vec with stuck := c.vec.stuck }
    hport := { c.hport with
      timeoutUs := f.hport.timeoutUs, detachMs := f.hport.detachMs, timeouts := 0, errRsp := 0, inbRefused := 0 }
    tlk.proxies := c.tlk.proxies, tlk.nextProxy := c.tlk.nextProxy, tlk.waitReqs := c.tlk.waitReqs
    mxa.arrays := SMap.mapVal .reset (fun _ a => { MxaArr.reset with spare := a.spare }) c.mxa.arrays
    pwr := { f.pwr with wakeCmds := c.pwr.wakeCmds, decl := idleLoad f - baseStep f }
    events := c.events, outbox := c.outbox }

/-- The OR over the tile registers, cleared, of every chain (R322): cells that a clear leaves set show in it. -/
def tileOr (c : Chip) : Nat := c.vec.tiles.foldl (fun m p => m ||| p.2.toNat) c.vec.stuck

/-- What the release of context 0 lets go on: the way to PWR_DVFS.POINT. -/
def startOver (c : Chip) : Chip := dvfsGo (startDone (releaseSeq c))

/-- Step 6 of a cold start. -/
def coldOver (c : Chip) : Chip := sbState 2 (startOver { c with core.retainV := true })

/-- The last step of a start admits BASE, and the start goes on when BASE has ramped; while it cannot be admitted, the start waits in
that step (Tables 19.6 and 19.7, R455, R456, R464). -/
def startBase (c : Chip) : Chip :=
  admitBase { c with core.phase := match c.core.phase with
    | .warm _ => .warm 4
    | _ => .cold 5 }

/-- What follows the last step of a start. -/
def startGoes (c : Chip) : Chip :=
  match c.core.phase with
  | .warm _ => startOver c
  | _ => coldOver c

/-- Steps 5 and 6 of a cold start: page reset, latencies, the check of the tile registers, BASE, and the release of context 0. -/
def finishCold (c : Chip) : Chip :=
  let c := deriveLat (coldReset c)
  if tileOr c ≠ 0 then startFails 6 false c else startBase c

/-! ## Warm start (R156, R471, Table 19.7) -/

/-- A ring at a warm start: disabled, ABANDONED where a descriptor had issued and not completed (R156); one that is ABANDONED already
stays so, for a warm start that begins again has the same rings before it (R471, R491). -/
def Ring.warm (r : Ring) : Ring :=
  let lost := r.descs.find? Desc.inFlight
  { r with
    en := false, halted := false, abandoned := lost.isSome || r.abandoned, cfgErr := false, dbErr := false, fault := 0
    fidx := match lost with
      | some d => d.idx
      | none => if r.abandoned then r.fidx else 0
    descs := [], rbuf := [], era := r.era + 1 }

/-- A region at a warm start: a PEND slot becomes EMPTY (R383). -/
def Rgn.warm (r : Rgn) : Rgn := r.skip

/-- Step 1: every engine and context stops; requests that have not left die with their makers, and a tee block that one of them
belongs to has failed (R441). -/
def stopEngines (c : Chip) : Chip :=
  let gone := c.outbox ++ c.tlk.heldReqs ++ c.tlk.waitReqs
  { c with
    snap.tees := c.snap.tees.map fun t => if gone.any fun r => r.who == .tee t.id then { t with failed := true } else t
    seq.ctxs := []
    ring.rings := SMap.mapVal .reset (fun _ r => r.warm) c.ring.rings
    tlk.heldReqs := [], outbox := []
    tlk.waitReqs := c.tlk.waitReqs.filter fun r => match r.who with
      | .serve _ => true
      | _ => false
    wvm.wants := none, wvm.hold := none, wvm.handles := []
    wvm.rgns := SMap.mapVal .reset (fun _ r => r.warm) c.wvm.rgns
    vec.fwd := [], sct.held := [] }

/-- The fields of a page header that are not RWS are reset. -/
def PageHdr.warm (h : PageHdr) : PageHdr := { PageHdr.reset with mask := h.mask, intEn := h.intEn }

def SyncSt.warm (s : SyncSt) : SyncSt :=
  { SyncSt.reset with
    ctrs := s.ctrs, compat := s.compat, wdog := s.wdog
    maps := SMap.mapVal .reset (fun _ m => { m with cfgErr := false }) s.maps
    jobs := s.jobs, epochMin := s.epochMin, tcache := s.tcache, held := s.held, compatHeld := s.compatHeld
    lines := SMap.mapVal .reset (fun _ l => { Line.reset with localCount := l.localCount, hold := l.hold, input := l.input }) s.lines }

def TimeSt.warm (t : TimeSt) : TimeSt :=
  { TimeSt.reset with
    count := t.count, frac := t.frac, sub := t.sub, cfg := t.cfg
    traces := SMap.mapVal .reset (fun _ x => { x with lost := 0, ovf := false, lostNow := 0 }) t.traces }

def LmemSt.warm (l : LmemSt) : LmemSt :=
  { l with
    ceCount := 0, ueCount := 0, logWord := 0, logClass := 0, logV := false, injWord := 0, injBits := 0, injArm := false
    arbErr := false, passes := 0, scrubLate := false, bankSel := 0, stalls := [] }

def TlkSt.warm (t : TlkSt) : TlkSt :=
  { t with
    ports := SMap.mapVal .reset (fun _ p => { p with corr := 0, uncorr := 0, replays := 0 }) t.ports
    routeSel := 0, routeTable := false, cfgErr := false, noroute := 0, loop := 0, rshBytes := 0, guardSel := 0
    guardDropped := 0, guardLcn := 0, guardV := false }

def HportSt.warm (h : HportSt) : HportSt := { h with timeouts := 0, errRsp := 0, inbRefused := 0, last := 0 }

def PwrSt.warm (p : PwrSt) : PwrSt :=
  { p with
    held := false, state := 0, waking := none, wakeDeferred := false, uv := false, reclaimLate := false, cfgErr := false
    busy := false, down := false, queue := [], ramp := none, rampEnd := 0, ungated := [], half := [], deferNs := 0 }

def WvmSt.warm (w : WvmSt) : WvmSt :=
  { WvmSt.reset with opt := w.opt, batch := w.batch, rgns := w.rgns, snapOpt := w.snapOpt, snapGen := w.snapGen, snapV := w.snapV }

def MxaSt.warm (m : MxaSt) : MxaSt :=
  { m with
    arrays := SMap.mapVal .reset (fun _ a => { a with act := .zero, shd := .zero, steps := 0, elems := 0, nonfin := 0, stalled := false, lstall := 0, gates := [], bankLat := [] }) m.arrays
    gated := 0, alts := [] }

def SnapSt.warm (s : SnapSt) : SnapSt :=
  { s with
    sel := 0, teefail := 0, teeIdle := 0, xfreeze := 0, cfgErr := false, rsState := 0, skew := false, mismatch := false
    rsStream := 0, batchSaved := 0, costNs := 0, lastUs := 0 }

/-- Step 4: page reset of every field that is not RWS and is not kept by its own chapter; tile registers, carry slots and
weight sets zero. -/
def warmReset (c : Chip) : Chip :=
  { c with
    pages := SMap.mapVal .reset (fun _ h => h.warm) c.pages
    seq := { SeqSt.reset with bootPc := c.seq.bootPc }
    ring := { RingSt.reset with rings := c.ring.rings }
    sync := c.sync.warm
    time := c.time.warm
    lmem := c.lmem.warm
    tlk := c.tlk.warm
    hport := c.hport.warm
    rdu := { RduSt.reset with epoch := c.rdu.epoch, taps := c.rdu.taps }
    pwr := { c.pwr.warm with decl := idleLoad c - baseStep c }
    dma := { DmaSt.reset with cfg := c.dma.cfg, stage := c.dma.stage }
    xpb := ⟨0, []⟩
    wvm := c.wvm.warm
    mxa := c.mxa.warm
    mvp := ⟨0, 0, 0⟩
    sct := { SctSt.reset with gen := c.sct.gen, slots := c.sct.slots }
    vec := { VecSt.reset with anyMask := c.vec.anyMask, stuck := c.vec.stuck }
    snap := c.snap.warm }

/-- A warm start begins, in P0 or again during a warm start; without valid retained state a cold start runs instead (R471). -/
def warmBegin (c : Chip) : Chip :=
  let c := { c with core.warmWaits := false }
  if !c.core.retainV then coldBegin 3 true c
  else
    let c := stopEngines c
    { c with
      core.phase := .warm 2, core.kind := 2, core.startedAt := now c, core.durBefore := 0
      pwr := { c.pwr with
        decl := idleLoad c - baseStep c, cur := if c.pwr.uvNow then 0 else c.pwr.point, busy := false, down := false
        queue := [], ramp := none, rampEnd := 0, ungated := [], half := [] } }

/-- A request for a warm start: it waits for a COMMIT or SKIP hold to end, and in P1 and P2 for the core to leave them, which no row
of Table 19.4 names (R383, R471, log 104). -/
def warmRequest (c : Chip) : Chip :=
  match c.core.phase with
  | .running =>
    if c.wvm.hold.isSome || c.pwr.state != 0 then beginWake 0 { c with core.warmWaits := true } else warmBegin c
  | .warm _ => warmBegin c
  | _ => c

/-- A warm start that waited for a hold or for P0 begins. -/
def warmWaiting (c : Chip) : Chip := if c.core.warmWaits ∧ c.wvm.hold = none ∧ isAwake c then warmBegin c else c

/-- The check of the tile registers fails a warm start: a cold start follows, the first attempt of a new series (R471). -/
def warmFails (c : Chip) : Chip :=
  let c := { c with core.cause := 6, core.retainV := false }
  let c := noteAttempt (startEvent 6 1 0 (pageFault pCORE .startFail c))
  { coldBegin 3 true c with pages := SMap.set .reset [] pCORE (pageOf c pCORE) }

/-- Steps 4 and 5 of a warm start. -/
def finishWarm (c : Chip) : Chip :=
  let c := warmReset c
  if tileOr c ≠ 0 then warmFails c else startBase c

/-- PLL_LOCK. -/
def pllLock (c : Chip) : Chip :=
  match c.core.phase with
  | .cold 4 => finishCold c
  | .warm 3 => finishWarm c
  | _ => c

/-- PLL_LOCK_TIMEOUT: no lock within 0.5 ms. -/
def pllLockTimeout (c : Chip) : Chip :=
  if c.core.phase = .cold 4 ∧ 500000 ≤ now c - c.core.stepFrom then startFails 5 false c else c

/-! ## Supply, resets and wakes (R456, R468, R470, R488 to R493) -/

/-- PORST_N falls: power-on reset, outside P3 and only while powered; it clears the start record. -/
def porstAssert (c : Chip) : Chip :=
  if c.core.phase = .p3 ∨ c.core.phase = .unpowered then c else freshChip c

/-- PORST_N is released. -/
def porstRelease (c : Chip) : Chip := if c.core.phase = .powerOn then coldBegin 1 true c else c

/-- VIN_1V8 falls below 1.60 V: every state is lost, the start record too. -/
def powerLoss (c : Chip) : Chip := { freshChip { c with pwr.uvNow := false } with core.phase := .unpowered }

/-- VIN_1V8 rises through 1.60 V. -/
def powerOnEdge (c : Chip) : Chip := if c.core.phase = .unpowered then freshChip c else c

/-- VIN_1V8 exceeds 1.98 V for 1 µs (R489); in P3 the regulators are down already. A core that the wrapper has taken answers to nothing but
the wrapper until PORST_N (R505), so that no WAKE_N leads out of it. DESIGN CHOICE (log 60). -/
def overvoltage (c : Chip) : Chip :=
  match c.core.phase with
  | .unpowered => c
  | .p3 => c
  | .wrapper => c
  | _ => enterP3 false c

/-- A qualified low on WAKE_N (R492): P3_CAUSE and CAUSE are kept in the series that it begins (R469). -/
def wakeN (c : Chip) : Chip := if c.core.phase = .p3 then powerEvent 3 0 7 (coldBegin 1 true c) else beginWake 7 c

/-- RAIL_OUT_OF_BAND of VDD_SRAM (1) or VDD_RET (2). -/
def railOutOfBand (rail : Nat) (c : Chip) : Chip := if rail = 1 ∨ rail = 2 then { c with core.retainV := false } else c

/-- REFCLK stops: harmless in P3, else the state becomes undefined until PORST_N. -/
def refclkStop (c : Chip) : Chip :=
  if c.core.phase = .p3 ∨ c.core.phase = .unpowered then c else { c with core.phase := .undefined }

/-- CORE_START_CMD = COLD. -/
def startCmdCold (c : Chip) : Chip :=
  match c.core.phase with
  | .running => coldBegin 1 true c
  | .warm _ => coldBegin 1 true c
  | .cold _ => coldBegin 1 true c
  | _ => c

/-- A write of CORE_START_CMD. -/
def startCmd (v : W64) (c : Chip) : Chip :=
  match fld v 0 2 with
  | 1 => warmRequest c
  | 2 => startCmdCold c
  | _ => c

/-! ## Registers (Tables 0.3 to 0.6, 1.2, 19.16 to 19.18, 21.4) -/

/-- CORE_FAULT_SUMMARY (R23). -/
def faultSummary (c : Chip) : W64 :=
  pack ((rangeFrom 0 20).map fun p => (p, 1, b2n ((pageOf c p).fault &&& ~~~(pageOf c p).mask != 0#20)))

/-- The number of arrays present. -/
def presentCount (c : Chip) : Nat := ((rangeFrom 0 4).filter fun i => c.core.present.testBit i).length

/-- Reads of the CORE page. -/
def coreRead (c : Chip) (off : Nat) : W64 :=
  match off with
  | 0x100 => 0x0100104200204404#64
  | 0x108 => 0x2000800100040300#64
  | 0x110 => 0x0000041080000400#64
  | 0x118 => pack [(0, 4, c.core.present), (4, 4, presentCount c)]
  | 0x120 => faultSummary c
  | 0x130 => startStat c
  | 0x138 => pack [(0, 32, c.core.durUs)]
  | 0x140 => c.core.irqRoute
  | _ => 0#64

/-- Writes of the CORE page. -/
def coreWrite (off : Nat) (v : W64) (c : Chip) : Chip :=
  match off with
  | 0x128 => startCmd v c
  | 0x140 => { c with core.irqRoute := maskWrite (maskOf [(0, 43)]) 0#64 v }
  | _ => c

end Sys2Proof.Machine
end

