-- ==== Sys2Proof/Machine/Hport.lean ====
section
/-! DEFINITION. HPORT (Tether Ports, Ohmuf Link and the Host Port, sections 17.9 and 17.10): responses to outbound host-port
requests, their timeouts and credits, live detach, and the registers of the HPORT page (R425 to R429, R433, R435). -/

namespace Sys2Proof.Machine

/-! ## Outbound requests (R428, R429) -/

/-- The outbound request of a channel that has a tag. -/
def hportReq (c : Chip) (ch tag : Nat) : Option Req :=
  if tag < 1024 then c.hport.out.find? fun r => r.tag == 1024 * ch + tag else none

/-- An outbound request is no longer outstanding. -/
def hportDone (r : Req) (c : Chip) : Chip := { c with hport.out := c.hport.out.filter fun q => q.tag != r.tag }

/-- The outbound PEER request of a channel that has a tag. -/
def peerReq (c : Chip) (ch tag : Nat) : Option PeerReq :=
  if tag < 1024 then c.hport.peerOut.find? fun r => r.tag == 1024 * ch + tag else none

/-- An outbound PEER request is no longer outstanding. -/
def peerDone (r : PeerReq) (c : Chip) : Chip := { c with hport.peerOut := c.hport.peerOut.filter fun q => q.tag != r.tag }

/-- The host answers or a deadline passes only while the core is powered and the port has been agreed. -/
def hportLive (c : Chip) : Bool := decide (c.hport.st = .up) || decide (c.hport.st = .detaching)

/-- The response of a PEER request: a status other than 0 fails the request that its packet carries (R428). -/
def peerResponse (ch tag status : Nat) (c : Chip) : Chip :=
  match peerReq c ch tag with
  | none => c
  | some r =>
    if status = 0 then peerDone r c
    else failPacket status r.pkt (peerDone r { c with hport.errRsp := satAdd 16 c.hport.errRsp 1 })

/-- HPP_RESPONSE: a successful RD brings the lines that its range touches, of which the requester takes its bytes. -/
def hppResponse (ch tag status : Nat) (data : List Byte) (c : Chip) : Chip :=
  match hportReq c ch tag with
  | none => peerResponse ch tag status c
  | some r =>
    if status ≠ 0 then
      deliver r status [] (hportDone r { c with hport.errRsp := satAdd 16 c.hport.errRsp 1 })
    else if r.kind = .rd then
      if data.length ≠ 64 * linesOf r.addr r.len then c
      else deliver r 0 ((data.drop (r.addr % 64)).take r.len) (hportDone r c)
    else deliver r 0 [] (hportDone r c)

/-- TIMEOUT_US has passed since a TIME. -/
def hportLate (c : Chip) (since : Nat) : Bool := decide (1000 * max 1 c.hport.timeoutUs ≤ now c - since)

/-- What a timeout of an outbound request counts and records. -/
def noteTimeout (c : Chip) : Chip := pageFault pHPORT .linkDown { c with hport.timeouts := satAdd 16 c.hport.timeouts 1 }

/-- HPORT_TIMEOUT: no response within TIMEOUT_US. -/
def hportTimeout (ch tag : Nat) (c : Chip) : Chip :=
  match hportReq c ch tag, peerReq c ch tag with
  | some r, _ => if hportLate c r.since then deliver r (faultCode pHPORT .linkDown) [] (noteTimeout (hportDone r c)) else c
  | none, some r =>
    if hportLate c r.since then failPacket (faultCode pHPORT .linkDown) r.pkt (noteTimeout (peerDone r c)) else c
  | none, none => c

/-- One request or beat credit of a channel comes back: a beat that waits for it takes it at once. -/
def addCredit (ch : Nat) (beat : Bool) (c : Chip) : Chip :=
  let k := 2 * ch + b2n beat
  let due := SMap.get 0 c.hport.due ch
  if beat && decide (0 < due) then { c with hport.due := SMap.set 0 c.hport.due ch (due - 1) }
  else { c with hport.credits := SMap.set 0 c.hport.credits k (SMap.get 0 c.hport.credits k + 1) }

/-- HPP_CREDIT: one credit of a channel comes back. -/
def hppCredit (ch : Nat) (beat : Bool) (c : Chip) : Chip :=
  if ch < c.hport.channels then pumpPeers (addCredit ch beat c) else c

/-- An inbound item takes a credit of the host. -/
def takeGrant (k n : Nat) (c : Chip) : Chip := { c with hport.grant := SMap.set 0 c.hport.grant k (SMap.get 0 c.hport.grant k - n) }

/-- The space of an inbound request and its beats is free; its credits are owed to the host. -/
def freeGrant (ch beats : Nat) (c : Chip) : Chip :=
  let o := SMap.set 0 c.hport.owed (2 * ch) (SMap.get 0 c.hport.owed (2 * ch) + 1)
  { c with hport.owed := SMap.set 0 o (2 * ch + 1) (SMap.get 0 o (2 * ch + 1) + beats) }

/-- Credits that are owed go back, and responses that have waited leave, on their lanes while these run (R471, R499). -/
def returnGrant (c : Chip) : Chip :=
  if hpAwake c then
    { c with
      hport.responses := c.hport.responses ++ c.hport.rspWait
      hport.rspWait := []
      hport.grant := c.hport.owed.foldl (fun m x => SMap.set 0 m x.1 (SMap.get 0 m x.1 + x.2)) c.hport.grant
      hport.owed := [] }
  else c

/-! ## Live detach (R433) -/

/-- Sets the quiesce request of a page. -/
def setQreq (p : Nat) (c : Chip) : Chip := updPage p (fun h => { h with qreq := true }) c

/-- DETACH and DETACH_REQ: steps 1 and 2. -/
def detach (c : Chip) : Chip :=
  if isUp c ∧ c.hport.st = .up then
    setQreq pSEQ (sbState 3 { c with hport.st := .detaching, hport.detachFrom := some (now c) })
  else c

/-- The pages that a detach quiesces, stage by stage (steps 2 and 3). -/
def detachStages : List (List Nat) :=
  [[pSEQ], [pMXA, pFEED, pDRN], [pMVP], [pVEC], [pRDU], [pWVM], [pDMA], [pXPB], [pSNAP], [pTLK], [pRING]]

/-- Requests the quiesce of stage after stage, each when the one before it is complete; answers whether all are. -/
def quiesceStages : List (List Nat) → Chip → Bool × Chip
  | [], c => (true, c)
  | ps :: rest, c =>
    let c := ps.foldl (fun c p => setQreq p c) c
    if ps.all (quiesced c) then quiesceStages rest c else (false, c)

/-- Every outbound request has a response or has failed (step 4). -/
def noneOutstanding (c : Chip) : Bool :=
  c.tlk.out.isEmpty && c.tlk.heldReqs.isEmpty && c.tlk.waitReqs.isEmpty && c.hport.out.isEmpty && c.outbox.isEmpty
    && c.hport.peerWait.isEmpty && c.hport.peerOut.isEmpty

/-- Held signals whose LCN has no valid route are discarded (step 4, R174). -/
def discardHeld (c : Chip) : Chip :=
  let lost (x : RSig) : Bool := x.sent.isNone && (match routeOf c x.lcn with
    | .egress _ => false
    | _ => true)
  countRefused (c.sync.held.filter lost).length { c with sync.held := c.sync.held.filter fun x => !lost x }

/-- Step 5: CLOSE on every port that is UP. -/
def closePorts (c : Chip) : Chip :=
  (rangeFrom 0 Config.ports).foldl (fun c n => if (portOf c n).st = .up then portStop n c else c) c

/-- Step 5 is done: no port is UP. -/
def portsClosed (c : Chip) : Bool := (rangeFrom 0 Config.ports).all fun n => decide ((portOf c n).st ≠ .up)

/-- A detach goes through its steps as far as it can; from step 6 on it refuses inbound requests. -/
def detachAdvance (c : Chip) : Chip :=
  if c.hport.detachFrom.isNone then c
  else
    match quiesceStages detachStages c with
    | (false, c) => c
    | (true, c) =>
      let c := discardHeld c
      if noneOutstanding c && c.sync.held.isEmpty then
        let c := closePorts c
        { c with hport.refusing := c.hport.refusing || portsClosed c }
      else c

/-- Steps 2 to 5 of a detach are done. -/
def detachReady (c : Chip) : Bool :=
  c.hport.detachFrom.isSome && (detachStages.all fun ps => ps.all (quiesced c)) && noneOutstanding c
    && c.sync.held.isEmpty && portsClosed c

/-- Steps 6 to 8: outputs at their held levels, DETACH_DONE, P3; LAST records the outcome. -/
def detachEnds (forced : Bool) (c : Chip) : Chip :=
  let c := enterP3 false (sbSend 0x07 (b2n forced) [] c)
  { c with hport.st := .detached, hport.last := 1 + b2n forced }

/-- DETACH_COMPLETE. -/
def detachComplete (c : Chip) : Chip := if isUp c && detachReady c then detachEnds false c else c

/-- DETACH_TIMEOUT: running descriptors are abandoned without signals, of which P3 leaves nothing, and every port that is UP closes
as in step 5 without waiting. -/
def detachTimeout (c : Chip) : Chip :=
  match c.hport.detachFrom with
  | some t => if isUp c ∧ 1000000 * max 1 c.hport.detachMs ≤ now c - t then detachEnds true (closePorts c) else c
  | none => c

/-! ## Registers (Tables 17.17 to 17.19) -/

/-- HPORT states as HPORT_STAT codes them. -/
def HpState.code : HpState → Nat
  | .down => 0 | .negotiate => 1 | .up => 2 | .detaching => 3 | .detached => 4

/-- Clears the counts of HPORT_ERR. -/
def hportErrClear (c : Chip) : Chip := { c with hport.timeouts := 0, hport.errRsp := 0, hport.inbRefused := 0 }

/-- Reads of the HPORT page. -/
def hportRead (c : Chip) (off : Nat) : W64 :=
  let h := c.hport
  match off with
  | 0x100 => pack [(0, 20, h.timeoutUs)]
  | 0x108 => pack [(0, 4, h.major), (4, 4, h.minor), (8, 5, h.channels), (13, 11, h.tags), (24, 7, h.maxLines), (31, 1, b2n h.peer)]
  | 0x110 => pack [(0, 3, h.st.code), (16, 16, h.out.length + h.peerOut.length)]
  | 0x118 => pack [(0, 16, h.timeouts), (16, 16, h.errRsp), (32, 16, h.inbRefused)]
  | 0x120 => pack [(8, 8, h.detachMs), (16, 2, h.last)]
  | _ => 0#64

/-- A write of HPORT_LIVE. -/
def hportLiveWrite (v : W64) (c : Chip) : Chip :=
  let c := { c with hport.detachMs := fld v 8 8 }
  if fld v 0 2 = 1 then detach c else c

/-- Writes of the HPORT page. -/
def hportWrite (off : Nat) (v : W64) (c : Chip) : Chip :=
  match off with
  | 0x100 => { c with hport.timeoutUs := fld v 0 20 }
  | 0x118 => hportErrClear c
  | 0x120 => hportLiveWrite v c
  | _ => c

end Sys2Proof.Machine
end

