-- ==== Sys2Proof/Machine/Mvp.lean ====
section
/-! DEFINITION. The Matrix-Vector Path: PRODUCT, its issue checks and start, the passes over K blocks, the running value,
the epilogue and the write-out, and the registers of the MVP page (R281 to R290). -/

namespace Sys2Proof.Machine

/-! ## Payload (Tables 11.2 and 11.3) -/

def Desc.pMode (d : Desc) : Nat := bits (d.bytes 16 1) 0 4
def Desc.pWt (d : Desc) : Bool := (d.bytes 17 1).testBit 0
def Desc.pOp (d : Desc) : Nat := bits (d.bytes 17 1) 1 2
def Desc.pScaleEn (d : Desc) : Bool := (d.bytes 17 1).testBit 3
def Desc.pAmax (d : Desc) : Bool := (d.bytes 17 1).testBit 4
def Desc.pOscale (d : Desc) : Bool := (d.bytes 17 1).testBit 5
def Desc.pX (d : Desc) : Nat := d.bytes 20 3
def Desc.pW (d : Desc) : Nat := d.bytes 24 3
def Desc.pDst (d : Desc) : Nat := d.bytes 28 3
def Desc.pRows (d : Desc) : Nat := d.bytes 32 4
def Desc.pXrow (d : Desc) : Nat := d.bytes 36 4
def Desc.pBias (d : Desc) : Nat := d.bytes 40 3
def Desc.pAct (d : Desc) : Nat := bits (d.bytes 43 1) 0 5
def Desc.pScale (d : Desc) : Nat := d.bytes 44 4
def Desc.pParam (d : Desc) : Nat := d.bytes 48 4
def Desc.pSlot (d : Desc) : Nat := d.bytes 54 2
def Desc.pNstart (d : Desc) : Nat := d.bytes 80 4
def Desc.pNcount (d : Desc) : Nat := d.bytes 84 4
def Desc.pKstart (d : Desc) : Nat := d.bytes 88 4
def Desc.pKcount (d : Desc) : Nat := d.bytes 92 4
def Desc.pDrow (d : Desc) : Nat := d.bytes 96 4

/-- The conversion settings. -/
def Desc.pConv (d : Desc) : Conv :=
  ⟨bits (d.bytes 52 1) 0 3, (d.bytes 52 1).testBit 3, d.bytes 64 8, d.bytes 72 2, d.bytes 76 4, d.bytes 74 2⟩

/-- Every stage that WRITE may use is off. -/
def mvpPlain (d : Desc) : Bool :=
  !d.pScaleEn && !d.pAmax && !d.pOscale && decide (d.pBias = 0 ∧ d.pAct = 0)

/-! ## Issue checks (R283, R284) -/

/-- The fields of Tables 11.2 and 11.3; ACCUM converts nothing, so RND and SAT are unused with it. -/
def mvpFields (d : Desc) : Bool :=
  decide (d.pMode ≤ 1 ∧ d.pOp ≤ 1 ∧ d.pConv.rnd ≤ 4 ∧ d.pAct ≤ 0x0B ∧ d.pSlot < sctSlots)
    && decide (bits (d.bytes 16 1) 4 4 = 0 ∧ bits (d.bytes 17 1) 6 2 = 0 ∧ bits (d.bytes 43 1) 5 3 = 0)
    && decide (bits (d.bytes 52 1) 4 4 = 0 ∧ d.bytes 53 1 = 0 ∧ d.bytes 56 8 = 0 ∧ d.bytes 100 92 = 0)
    && decide (d.bytes 19 1 = 0 ∧ d.bytes 23 1 = 0 ∧ d.bytes 27 1 = 0 ∧ d.bytes 31 1 = 0)
    && (decide (d.bytes 18 1 = 0) || decide (128 ≤ d.bytes 18 1))
    && (d.pScaleEn || d.pScale == 0) && (actHasParam d.pAct || d.pParam == 0)
    && (d.pAmax || d.pOscale || d.pSlot == 0) && (d.pConv.rnd == 4 || decide (d.bytes 64 16 = 0))
    && (d.pOp == 0 || (mvpPlain d && d.pConv.rnd == 0 && !d.pConv.sat)) && aligned 128 d.pNstart

/-- The tensors of a descriptor. -/
def mvpTens (d : Desc) : List TenRef :=
  [srcRef d.pX, srcRef d.pW, dstRef d.pDst] ++ (if d.pBias = 0 then [] else [srcRef d.pBias])

/-- The operands form the 4-bit group. -/
def mvpFour (d : Desc) : Bool := groupOf (d.ten d.pX).t.ty (d.ten d.pW).t.ty == some .f4

/-- Ku of R281. -/
def mvpKu (d : Desc) : Nat := if mvpFour d then 256 else 128

/-- The integer group. -/
def mvpInt (d : Desc) : Bool := (d.ten d.pX).t.ty == .int8

/-- Reduction length and output length of the weight. -/
def Desc.pKlen (d : Desc) : Nat := (d.ten d.pW).t.dim (if d.pWt then 0 else 1)
def Desc.pNlen (d : Desc) : Nat := (d.ten d.pW).t.dim (if d.pWt then 1 else 0)

/-- Step 4 on the structures. -/
def mvpShape (c : Chip) (d : Desc) : Bool :=
  let x := (d.ten d.pX).t
  let w := (d.ten d.pW).t
  let y := (d.ten d.pDst).t
  (mvpTens d).all (fun r => (d.ten r.off).localHere c)
    && (match groupOf x.ty w.ty with
        | none => false
        | some .f32 => d.pMode == 1
        | some _ => d.pMode == 0)
    && decide (x.rank = 2 ∧ x.tiling = 0 ∧ w.rank = 2)
    && (if d.pWt then decide (w.tiling = 0 ∨ w.tiling = 4) else decide (w.tiling ≤ 1)) && (d.pWt || !w.ty.isMx)
    && decide (x.dim 0 = d.pKlen) && aligned (mvpKu d) d.pKstart
    && decide (y.rank = 2) && y.ty.drnOut
    && (d.pBias == 0 ||
        (let t := (d.ten d.pBias).t
         decide (t.rank = 1 ∧ t.tiling = 0) && (t.ty == .fp32 || t.ty == .bf16 || t.ty == .fp16)))
    && (d.pOp == 0 || y.ty == if mvpInt d then .int32 else .fp32)

/-- Step 7. -/
def mvpWindows (_ : Chip) (d : Desc) : Bool :=
  let n := d.pNstart + d.pNcount
  decide (d.pXrow + d.pRows ≤ (d.ten d.pX).t.dim 1 ∧ d.pDrow + d.pRows ≤ (d.ten d.pDst).t.dim 1)
    && decide (d.pKstart + d.pKcount ≤ d.pKlen ∧ n ≤ d.pNlen ∧ n ≤ (d.ten d.pDst).t.dim 0)
    && (d.pBias == 0 || decide (n ≤ (d.ten d.pBias).t.dim 0))

/-- Index of a weight element. -/
def pwIdx (d : Desc) (k n : Nat) : List Nat := if d.pWt then [k, n] else [n, k]

/-- Elements of the windows: activation, weight, bias and destination. -/
def mvpX (d : Desc) : List (List Nat) := windowIdx [(d.pKstart, d.pKcount), (d.pXrow, d.pRows)]
def mvpW (d : Desc) : List (List Nat) :=
  windowIdx (if d.pWt then [(d.pKstart, d.pKcount), (d.pNstart, d.pNcount)]
    else [(d.pNstart, d.pNcount), (d.pKstart, d.pKcount)])
def mvpB (d : Desc) : List (List Nat) := if d.pBias = 0 then [] else windowIdx [(d.pNstart, d.pNcount)]
def mvpY (d : Desc) : List (List Nat) := windowIdx [(d.pNstart, d.pNcount), (d.pDrow, d.pRows)]

/-- Step 8: the destination window's byte interval meets that of an operand. -/
def mvpOwn (c : Chip) (d : Desc) : Option Cause :=
  let ins := partIntervals c d.rmap (d.ten d.pX) (mvpX d) ++ partIntervals c d.rmap (d.ten d.pW) (mvpW d)
    ++ partIntervals c d.rmap (d.ten d.pBias) (mvpB d)
  if overlapOf ins (partIntervals c d.wmap (d.ten d.pDst) (mvpY d)) ≠ 0 then some .descMalformed else none

/-- MVP is free for a start (R287): the PRODUCT before has done its reads. -/
def mvpFree (c : Chip) : Bool := (classDescs c 2 fun d => decide (d.phase = .running) && d.opc == 1).isEmpty

/-- The MVP class. -/
def mvpClass : EngineClass :=
  { opcOk := fun d => decide (d.opc = 1) && d.chain && decide (d.engf = 0)
    present := fun _ _ => true
    noop := fun d => decide (d.pRows = 0 ∨ d.pNcount = 0 ∨ d.pKcount = 0)
    fields := mvpFields
    tens := mvpTens
    raws := fun _ _ => []
    shape := mvpShape
    ranges := fun _ _ => []
    windows := mvpWindows
    own := mvpOwn
    wvsel := fun d => d.bytes 18 1
    units := fun _ _ => [9]
    canStart := fun c _ _ => mvpFree c
    onStart := fun n d c => putDesc n { d with samp := if d.pOscale then [(1, (slotOf c d.pSlot).exp)] else [] } c }

/-! ## Arithmetic (R285) -/

/-- The K blocks of the window as their reduction positions. -/
def mvpBlocks (d : Desc) : List (List Nat) :=
  let u := mvpKu d
  (rangeFrom 0 (ceilDiv d.pKcount u)).map fun b => rangeFrom (d.pKstart + b * u) (min u (d.pKcount - b * u))

/-- The tree outputs of one K block for one output: one, or three in the term order of R241. -/
def mvpTerms (c : Chip) (d : Desc) (r n : Nat) (ks : List Nat) : List XNum :=
  let x := d.ten d.pX
  let w := d.ten d.pW
  let a (k : Nat) : XNum := readElem (rdByte c d) x.o x.t [k, d.pXrow + r]
  let b (k : Nat) : XNum := readElem (rdByte c d) w.o w.t (pwIdx d k n)
  let sum (f : Nat → XNum) : XNum := treeSum (ks.map f)
  if d.pMode = 1 then
    [sum fun k => (splitHi (a k)).mul (splitHi (b k)), sum fun k => (splitLo (a k)).mul (splitHi (b k)),
     sum fun k => (splitHi (a k)).mul (splitLo (b k))]
  else [sum fun k => (a k).mul (b k)]

/-- The exact integer tree output of one K block. -/
def mvpTermInt (c : Chip) (d : Desc) (r n : Nat) (ks : List Nat) : Int :=
  let x := d.ten d.pX
  let w := d.ten d.pW
  (ks.map fun k => sext 8 (readRaw (rdByte c d) x.o x.t [k, d.pXrow + r])
    * sext 8 (readRaw (rdByte c d) w.o w.t (pwIdx d k n))).foldl (· + ·) 0

/-- The destination element that ACCUM starts from. -/
def mvpOld (c : Chip) (d : Desc) (r n : Nat) : Nat :=
  let y := d.ten d.pDst
  readRaw (oldByte c d) y.o y.t [n, d.pDrow + r]

/-- A float running value: tree outputs added in order with RNE to FP32. -/
def foldFp (start : Option XNum) (ts : List XNum) : XNum :=
  match start, ts with
  | some s, ts => ts.foldl (fun s t => fp32.rnd (s.add t)) s
  | none, t :: ts => ts.foldl (fun s t => fp32.rnd (s.add t)) t
  | none, [] => .zero

/-- The value of an output before stage E5: float or integer, and the epilogue for WRITE. -/
def mvpValue (c : Chip) (d : Desc) (r n : Nat) : XNum :=
  let blocks := mvpBlocks d
  let y := d.ten d.pDst
  if mvpInt d then
    let s : Int := (blocks.map (mvpTermInt c d r n)).foldl (· + ·) (if d.pOp = 1 then sext 32 (mvpOld c d r n) else 0)
    let v := XNum.ofInt (sext 32 (modInt 32 s))
    if d.pOp = 1 ∨ (y.t.ty = .int32 ∧ mvpPlain d) then v else stages (fp32.rnd v)
  else
    let v := foldFp (if d.pOp = 1 then some (f32 (mvpOld c d r n)) else none) (blocks.flatMap (mvpTerms c d r n))
    if d.pOp = 1 then v else stages v
where
  /-- Stages E2 and E3 (R261, R263). -/
  stages (v : XNum) : XNum :=
    let b := if d.pBias = 0 then none else some (readElem (rdByte c d) (d.ten d.pBias).o (d.ten d.pBias).t [n])
    let v := stageE2 (if d.pScaleEn then some (f32 d.pScale) else none) b v
    if d.pAct = 0 then v else stageE3 d.pAct (f32 d.pParam) none v

/-- Every output: destination element and value before stage E5, in the order of R282. -/
def mvpOuts (c : Chip) (d : Desc) : List (List Nat × XNum) :=
  (rangeFrom 0 (ceilDiv d.pRows 8)).flatMap fun g =>
    (rangeFrom 0 (ceilDiv d.pNcount 128)).flatMap fun nb =>
      (rangeFrom (8 * g) (min 8 (d.pRows - 8 * g))).flatMap fun r =>
        (rangeFrom (d.pNstart + 128 * nb) (min 128 (d.pNcount - 128 * nb))).map fun n =>
          ([n, d.pDrow + r], mvpValue c d r n)

/-- Passes of a descriptor (R282). -/
def mvpPasses (d : Desc) : Nat := ceilDiv d.pRows 8 * ceilDiv d.pNcount 128 * ceilDiv d.pKcount (mvpKu d)

/-- Names of the bytes that a descriptor reads. -/
def mvpNames (d : Desc) : List Nat :=
  let at_ (off : Nat) (ixs : List (List Nat)) : List Nat :=
    let x := d.ten off
    ixs.flatMap fun ix => elemAddrs x.o x.t ix
  at_ d.pX (mvpX d) ++ at_ d.pW (mvpW d) ++ at_ d.pBias (mvpB d)

/-- Names of the destination bytes that ACCUM reads. -/
def mvpOldNames (d : Desc) : List Nat :=
  let y := d.ten d.pDst
  if d.pOp = 1 then (mvpY d).flatMap fun ix => elemAddrs y.o y.t ix else []

/-- The passes read the activations once for each N block and the weights once for each group of 8 rows (R282): the single errors
that those reads meet again are corrected and counted again (R191). -/
def mvpReread (d : Desc) (c : Chip) : Chip :=
  let at_ (off : Nat) (ixs : List (List Nat)) : List Nat :=
    let x := d.ten off
    (addrSet ((ixs.flatMap fun ix => elemAddrs x.o x.t ix).map (mapAddr c d.rmap))).map offOf
  let again (k : Nat) (offs : List Nat) (c : Chip) : Chip := (rangeFrom 1 (k - 1)).foldl (fun c _ => (eccRead 3 offs c).2) c
  if c.lmem.ecc.isEmpty then c
  else again (ceilDiv d.pRows 8) (at_ d.pW (mvpW d)) (again (ceilDiv d.pNcount 128) (at_ d.pX (mvpX d)) c)

/-- The work of a PRODUCT once its operands are readable (R285, R286). -/
def mvpWork (q : DescRef) (d : Desc) (c : Chip) : Chip :=
  let outs := mvpOuts c d
  let vals := outs.map Prod.snd
  let y := d.ten d.pDst
  let nf := if d.pOp = 1 then 0 else nonfinite vals
  let (w, c) := growCount c.mvp.wstall (mvpReread d c)
  let c := { c with mvp.passes := (c.mvp.passes + mvpPasses d) % 2 ^ 48, mvp.nonfin := (c.mvp.nonfin + nf) % 2 ^ 48, mvp.wstall := w }
  let c := if d.pAmax then addTap q d.pSlot vals c else c
  let osc := if d.pOscale then some (SMap.get 0 d.samp 1) else none
  writeBits 3 vcData q d (outWrites y d.pConv (outs.map fun o => (o.1, stageE5 osc o.2))) c

/-- PRODUCT (R285): a running descriptor computes its window. -/
def mvpProduct (q : DescRef) (c : Chip) : Chip :=
  onRunning q 2 1 (fun d c =>
    withBytes 3 vcData q d (mvpNames d) (fun d c =>
      andThen q (engineFetch 3 vcData q.ring q.idx ((mvpOldNames d).map (mapAddr c d.wmap)) c) fun c =>
        match descOf c q with
        | some d => mvpWork q d c
        | none => c) c) c

/-! ## Registers (R290) -/

/-- The PRODUCT that MVP runs: one that still computes before one whose last writes are on their way. -/
def mvpNow (c : Chip) : Option (Nat × Desc) :=
  let product (p : Desc → Bool) : List (Nat × Desc) := classDescs c 2 fun d => d.opc == 1 && p d
  (product (fun d => d.phase == .running) ++ product Desc.started).head?

/-- MVP_STAT (Table 11.4): while a PRODUCT's passes go on, whether the present one waits for an LMEM grant is a free value (log 47). -/
def mvpStat (c : Chip) : W64 × Chip :=
  match mvpNow c with
  | none => (0#64, c)
  | some (r, d) =>
    let word (st : Nat) : W64 := pack [(0, 2, st), (16, 15, r), (32, 32, if d.phase = .running then d.pRows else 0)]
    if d.phase = .running then
      let (k, c) := takeFree c
      (word (1 + k % 2), c)
    else (word 1, c)

/-- Reads of the MVP page. -/
def mvpRead (c : Chip) (off : Nat) : W64 × Chip :=
  match off with
  | 0x100 => mvpStat c
  | 0x108 => (pack [(0, 48, c.mvp.passes)], c)
  | 0x110 => (pack [(0, 48, c.mvp.wstall)], c)
  | 0x118 => (pack [(0, 48, c.mvp.nonfin)], c)
  | _ => (0#64, c)

end Sys2Proof.Machine
end

