-- ==== Sys2Proof/Machine/VecProg.lean ====
section
/-! DEFINITION. Element programs (R326 to R340): micro-op words, their checks and placement, and what each operation
computes on one element of a lane mode. -/

namespace Sys2Proof.Machine

/-! ## Lane modes (Table 12.1): 0 W32, 1 PBF16, 2 PFP16, 3 D64 -/

/-- Bits of an element. -/
def laneW (lm : Nat) : Nat := if lm = 0 then 32 else if lm = 3 then 64 else 16
/-- The float format of the mode. -/
def laneF (lm : Nat) : FFmt := if lm = 0 then fp32 else if lm = 1 then bf16 else if lm = 2 then fp16 else fp64
/-- Elements per chain row: E of R293. -/
def laneE (lm : Nat) : Nat := if lm = 0 then Config.lanes else if lm = 3 then Config.lanes / 2 else 2 * Config.lanes

/-! ## Micro-ops (Table 13.1) -/

/-- A micro-op. -/
structure Uop where
  cls : Nat
  op : Nat
  dst : Nat
  sa : Nat
  sb : Nat
  sc : Nat
  par : Nat
  brk : Bool
deriving DecidableEq, Repr

def uALU : Nat := 0
def uSFU : Nat := 1
def uPERM : Nat := 2
def uSCAN : Nat := 3
def uRNG : Nat := 4
def uPRED : Nat := 5

/-- A micro-op from its word (R326). -/
def uopOf (w : Nat) : Uop :=
  { cls := bits w 28 4, op := bits w 22 6, dst := bits w 18 4, sa := bits w 13 5, sb := bits w 8 5, sc := bits w 3 5
    par := bits w 1 2, brk := w.testBit 0 }

/-- The BERN function of RNG: it narrows the mask and writes nothing. -/
def Uop.isBern (u : Uop) : Bool := u.cls == uRNG && decide (u.op / 4 = 2)

/-- Sources of an ALU operation (Table 13.3). -/
def aluSources (op : Nat) : Nat :=
  if op = 0x03 ∨ op = 0x04 ∨ op = 0x15 ∨ op = 0x1D then 3
  else if op = 0x07 ∨ op = 0x08 ∨ (0x0C ≤ op ∧ op ≤ 0x10) ∨ (0x27 ≤ op ∧ op ≤ 0x29) then 1
  else 2

/-- How many of SA, SB and SC a micro-op uses (R332). -/
def Uop.sources (u : Uop) : Nat :=
  if u.cls = uALU then aluSources u.op
  else if u.cls = uSFU then (if u.op = 1 then 2 else 1)
  else if u.cls = uPERM then 2
  else if u.cls = uSCAN then 1
  else if u.cls = uPRED then (if u.op = 3 then 2 else 1)
  else if u.isBern ∨ u.par ≠ 0 then 1 else 0

/-- The source codes that a micro-op reads. -/
def Uop.srcs (u : Uop) : List Nat := [u.sa, u.sb, u.sc].take u.sources

/-- The destination that a micro-op writes. -/
def Uop.writes (u : Uop) : Option Nat := if u.cls = uPRED ∨ u.isBern then none else some u.dst

/-- Destination code of a source that reads an earlier write. -/
def srcDst (code : Nat) : Option Nat :=
  if 0x08 ≤ code ∧ code ≤ 0x0F then some (code - 8) else if code = 3 ∨ code = 4 then some (code + 5) else none

/-- What an operation reads its sources as. -/
inductive Reads where
  | float | int | raw
deriving DecidableEq, Repr

/-- What a micro-op reads its sources as (Table 13.3, R327). -/
def Uop.reads (u : Uop) (stype : Nat) : Reads :=
  if u.cls = uALU then
    (if u.op ≤ 0x0D ∨ u.op = 0x2A ∨ u.op = 0x2B then .float
     else if 0x10 ≤ u.op ∧ u.op ≤ 0x15 then .raw else .int)
  else if u.cls = uSFU ∨ u.isBern then .float
  else if u.cls = uPRED then (if 2 ≤ u.op then .float else .raw)
  else if u.cls = uSCAN then (if stype = 0 then .float else .int)
  else .raw

/-- The operation is defined in the lane mode (R330, R331, R334 rule 2). -/
def Uop.inMode (u : Uop) (lm : Nat) : Bool :=
  if u.cls = uALU then
    (if u.op ≤ 0x0C ∨ (0x10 ≤ u.op ∧ u.op ≤ 0x15) then true
     else if 0x28 ≤ u.op then lm == 0 else lm == 0 || lm == 3)
  else if u.cls = uSFU then lm != 3 || decide (u.op ≤ 5) || u.op == 7 || u.op == 8
  else if u.cls = uSCAN then lm == 0
  else if u.cls = uRNG then lm == 0 || (lm != 3 && decide (u.op / 4 ≠ 0))
  else true

/-- First reserved OP of each class. -/
def opLimit (cls : Nat) : Nat :=
  match cls with
  | 0 => 0x2C | 1 => 0x14 | 2 => 1 | 3 => 1 | 4 => 0x0C | 5 => 4
  | _ => 0

/-- Rule 1 of R334 on one micro-op, with rule 2. -/
def Uop.ok (u : Uop) (lm : Nat) : Bool :=
  decide (u.op < opLimit u.cls) && decide (u.par ≤ 2)
    && (!(u.cls == uPERM || u.cls == uSCAN) || u.par == 0) && (lm != 3 || u.par == 0)
    && u.srcs.all (fun s => decide (s < 0x18))
    && ([u.sa, u.sb, u.sc].drop u.sources).all (fun s => s == 0)
    && (match u.writes with
        | some d => decide (d ≤ 9)
        | none => u.dst == 0)
    && u.inMode lm

/-! ## Placement (R333) -/

/-- A slot accepts a class (Table 12.5). -/
def slotTakes (cls s : Nat) : Bool :=
  match cls with
  | 1 => s == 5
  | 2 => s == 6
  | 3 => s == 6
  | 4 => s == 7
  | _ => true

/-- The passes of micro-ops after the first placed ones: `pass` and the slot last used, 8 before any. -/
def placeFrom : Nat → Option Nat → List Uop → List (Uop × Nat)
  | _, _, [] => []
  | pass, last, u :: us =>
    let lo := match last with
      | some s => s + 1
      | none => 0
    let slot := (rangeFrom lo (8 - lo)).find? (slotTakes u.cls)
    let first := ((rangeFrom 0 8).find? (slotTakes u.cls)).getD 0
    match slot with
    | some s =>
      if last.isSome && u.brk then (u, pass + 1) :: placeFrom (pass + 1) (some first) us
      else (u, pass) :: placeFrom pass (some s) us
    | none => (u, pass + 1) :: placeFrom (pass + 1) (some first) us

/-- A program with the pass of each micro-op. -/
def placed (us : List Uop) : List (Uop × Nat) := placeFrom 1 none us

/-- The pass in which a destination is last written. -/
def lastPass (ps : List (Uop × Nat)) (dst : Nat) : Nat :=
  ((ps.filter fun p => p.1.writes == some dst).map Prod.snd).getLastD 0

/-- The last pass that reads a source code. -/
def lastRead (ps : List (Uop × Nat)) (code : Nat) : Nat :=
  ((ps.filter fun p => p.1.srcs.contains code).map Prod.snd).getLastD 0

/-- Carried values (R335): pass in which it is last written before a later pass reads it, and destination code. -/
def carriedFrom : List (Nat × Nat) → List (Uop × Nat) → List (Nat × Nat)
  | _, [] => []
  | wrote, p :: ps =>
    let here := p.1.srcs.filterMap fun s =>
      match srcDst s with
      | some d =>
        (match wrote.find? fun w => w.1 == d with
         | some w => if w.2 < p.2 then some (w.2, d) else none
         | none => none)
      | none => none
    let wrote := match p.1.writes with
      | some d => (d, p.2) :: wrote
      | none => wrote
    here ++ carriedFrom wrote ps

/-- The carried values in the order of their scratch registers. -/
def carriedVals (ps : List (Uop × Nat)) : List (Nat × Nat) :=
  let cs := (carriedFrom [] ps).eraseDups
  (rangeFrom 1 8).flatMap fun w => (rangeFrom 0 10).filterMap fun d => if cs.contains (w, d) then some (w, d) else none

/-- Rule 3 of R334: nothing is read before it is written. -/
def readsOk : List Nat → List Uop → Bool
  | _, [] => true
  | wrote, u :: us =>
    u.srcs.all (fun s => match srcDst s with
      | some d => wrote.contains d
      | none => true) && readsOk (match u.writes with
        | some d => d :: wrote
        | none => wrote) us

/-- Set bits of a number below 2^n. -/
def setBits (n x : Nat) : List Nat := (rangeFrom 0 n).filter fun i => x.testBit i

/-- The rules of R334 on a program: SRC of the outputs, SCAN_OP, CIN and SCRATCH of its descriptor. -/
def programOk (us : List Uop) (lm : Nat) (out : Nat → Bool) (scanOp cin scratch : Nat) : Bool :=
  let ps := placed us
  let passes := (ps.map Prod.snd).getLastD 0
  let writes := us.filterMap Uop.writes
  let scans := (us.filter fun u => u.cls == uSCAN).length
  let readsCin := us.any fun u => u.srcs.contains 5
  us.all (fun u => u.ok lm) && readsOk [] us
    && [8, 9].all (fun d => out (d - 8) == writes.contains d)
    && decide (passes ≤ 8) && decide (scans ≤ 1) && (decide (scans = 1) == decide (scanOp ≠ 0))
    && (!readsCin || lm == 0) && (scans == 1 || readsCin == decide (cin ≠ 0))
    && (if passes ≤ 1 then scratch == 0 else decide ((carriedVals ps).length ≤ (setBits 16 scratch).length))

/-- A program draws random numbers: an RNG micro-op or PACKSR. -/
def programDraws (us : List Uop) : Bool := us.any fun u => u.cls == uRNG || (u.cls == uALU && u.op == 0x2B)

/-! ## Operations -/

/-- All ones or zero at the element width. -/
def boolMask (w : Nat) (b : Bool) : Nat := if b then 2 ^ w - 1 else 0

/-- A float read of an element. -/
def fIn (lm : Nat) (ftz : Bool) (x : Nat) : XNum := (laneF lm).decode ((laneF lm).flush ftz x)
/-- A float result as an element, rounded once. -/
def fOut (lm : Nat) (ftz : Bool) (v : XNum) : Nat := (laneF lm).flush ftz ((laneF lm).encode .rne false 0 v)

/-- A number rounded to an integral value under RNE, keeping its sign. -/
def XNum.integral : XNum → XNum
  | .fin n m e => .fin n (roundTo .rne 0 n m e 0) 0
  | x => x

/-- A value held to the range of signed integers of a width. -/
def satInt (w : Nat) (i : Int) : Nat :=
  let (lo, hi) := intRange true w
  modInt w (max lo (min hi i))

/-- A half of PACK and PACKSR. -/
def packHalf (ftz : Bool) (md : Round) (r x : Nat) : Nat :=
  bf16.flush ftz (bf16.encode md false r (fIn 0 ftz x))

/-- The float operations 0x00 to 0x08 and 0x0C. -/
def aluFloat (op : Nat) (a b c : XNum) : XNum :=
  match op with
  | 0x00 => a.add b
  | 0x01 => a.sub b
  | 0x02 => a.mul b
  | 0x03 => (a.mul b).add c
  | 0x04 => c.add (a.mul b).neg
  | 0x05 => XNum.min a b
  | 0x06 => XNum.max a b
  | 0x07 => a.abs
  | 0x08 => a.neg
  | _ => a.integral

/-- The raw and integer operations 0x10 to 0x27, before they are cut to the width. -/
def aluInt (w op a b c : Nat) : Nat :=
  let sa := sext w a
  let sb := sext w b
  let k := b % w
  let wrap (i : Int) : Nat := modInt w i
  match op with
  | 0x10 => a
  | 0x11 => a &&& b
  | 0x12 => a ||| b
  | 0x13 => a ^^^ b
  | 0x14 => a &&& (2 ^ w - 1 - b)
  | 0x15 => if c = 0 then b else a
  | 0x16 => a <<< k
  | 0x17 => a >>> k
  | 0x18 => wrap (sa.fdiv ((2 ^ k : Nat) : Int))
  | 0x19 => (a <<< k) ||| (a >>> (w - k))
  | 0x1A => a + b
  | 0x1B => wrap (sa - sb)
  | 0x1C => a * b
  | 0x1D => a * b + c
  | 0x1E => satInt w (sa + sb)
  | 0x1F => satInt w (sa - sb)
  | 0x20 => if sa ≤ sb then a else b
  | 0x21 => if sb ≤ sa then a else b
  | 0x22 => min a b
  | 0x23 => max a b
  | 0x24 => boolMask w (decide (sa < sb))
  | 0x25 => boolMask w (decide (a < b))
  | 0x26 => boolMask w (decide (a = b))
  | _ => (setBits w a).length

/-- An ALU operation on one element (Table 13.3); `w1` and `w2` are generator words 1 and 2. -/
def aluOp (lm : Nat) (ftz : Bool) (op a b c w1 w2 : Nat) : Nat :=
  let w := laneW lm
  let x := fIn lm ftz a
  let y := fIn lm ftz b
  if op = 0x09 then boolMask w (XNum.lt x y)
  else if op = 0x0A then boolMask w (XNum.le x y)
  else if op = 0x0B then boolMask w (XNum.eq x y)
  else if op ≤ 0x0C then fOut lm ftz (aluFloat op x y (fIn lm ftz c))
  else if op = 0x0D then encodeInt true w .rne 0 x
  else if op = 0x0E then fOut lm ftz (XNum.ofInt (sext w a))
  else if op = 0x0F then fOut lm ftz (XNum.ofInt ((a % 2 ^ w : Nat) : Int))
  else if op ≤ 0x27 then aluInt w op a b c % 2 ^ w
  else if op = 0x28 then fOut 0 ftz (bf16.decode (a % 65536))
  else if op = 0x29 then fOut 0 ftz (bf16.decode (a / 65536 % 65536))
  else if op = 0x2A then packHalf ftz .rne 0 a + packHalf ftz .rne 0 b * 65536
  else packHalf ftz .sr (w1 % 2 ^ 24) a + packHalf ftz .sr (w2 % 2 ^ 24) b * 65536

/-- Whether an active element stays active under a PRED operation (Table 13.4). -/
def predKeeps (lm : Nat) (ftz : Bool) (op a b : Nat) : Bool :=
  match op with
  | 0 => a % 2 ^ laneW lm != 0
  | 1 => a % 2 ^ laneW lm == 0
  | 2 => (fIn lm ftz a).isFinite
  | _ => XNum.lt (fIn lm ftz a) (fIn lm ftz b)

/-! ## Special functions (R317, R318) -/

/-- The drain function that an SFU code shares. -/
def sharedFun (sf : Nat) : Option Nat :=
  match sf with
  | 0x04 => some 0x0B | 0x0C => some 0x06 | 0x0D => some 0x05 | 0x0F => some 0x02 | 0x10 => some 0x03
  | 0x11 => some 0x04 | 0x12 => some 0x09
  | _ => none

/-- A special function whose value at an argument the spec gives: at NaN, outside the domain, at poles and at infinities;
`none` elsewhere. -/
def sfuGiven (sf : Nat) (x : XNum) : Option XNum :=
  match x with
  | .nan => some .nan
  | .inf n =>
    match sf with
    | 0x03 => some (if n then .nan else .zero)
    | 0x04 => some (if n then .zero else .inf false)
    | 0x05 => some (if n then .zero else .inf false)
    | 0x06 => some (if n then XNum.one.neg else .inf false)
    | 0x07 => some (if n then .nan else .inf false)
    | 0x08 => some (if n then .nan else .inf false)
    | 0x09 => some (if n then .nan else .inf false)
    | 0x0A => some .nan
    | 0x0B => some .nan
    | 0x0E => some (if n then XNum.one.neg else .one)
    | 0x13 =>
      let y := fxNum fxPi (-1)
      some (f32 (fp32.anyWithin (elemErr 0x13) (if n then y.neg else y) (Config.transc 0x13 (f32Code x))))
    | _ => none
  | .fin n m _ =>
    if sf = 0x03 ∨ sf = 0x07 ∨ sf = 0x08 then
      (if m = 0 then some (.inf (if sf = 0x03 then n else true)) else if n then some .nan else none)
    else if sf = 0x09 then
      (if XNum.eq x XNum.one.neg then some (.inf true) else if XNum.lt x XNum.one.neg then some .nan else none)
    else none

/-- A special function evaluated in FP32, or in FP64 for D64 (codes 0x300 on): the rounded value of the exactly rounded
ones, and a value the spec only bounds of the others. -/
def sfuValue (wide : Bool) (sf : Nat) (x y : XNum) : XNum :=
  let f := if wide then fp64 else fp32
  match sf with
  | 0x00 => f.rnd (XNum.one.div x)
  | 0x01 => f.rnd (x.div y)
  | 0x02 => f.rnd x.sqrt
  | _ =>
    if wide then
      match sfuGiven sf x with
      | some v => v
      | none =>
        let code := 0x300 + sf
        fp64.decode (fp64.anyWithin (elemErr code) (elemNum code x) (Config.transc code (fp64.encode .rne false 0 x)))
    else
      match sharedFun sf with
      | some act => drnFun act .zero x
      | none =>
        match sfuGiven sf x with
        | some v => v
        | none => bounded sf x

/-- An SFU micro-op on one element. -/
def sfuOp (lm : Nat) (ftz : Bool) (sf a b : Nat) : Nat :=
  fOut lm ftz (sfuValue (lm == 3) sf (fIn lm ftz a) (fIn lm ftz b))

/-! ## Random draws (R340) -/

/-- (w >> 8) × 2^−24. -/
def unitDraw (w : Nat) : XNum := .fin false (w / 256) (-24)

/-- BITS or UNIF on one element. -/
def rngValue (lm : Nat) (ftz : Bool) (op w : Nat) : Nat :=
  if op / 4 = 0 then w else (laneF lm).flush ftz ((laneF lm).encode .rtz false 0 (unitDraw w))

/-! ## Scans (R311) -/

/-- A scan's settings. -/
structure ScanCfg where
  op : Nat
  stype : Nat
  ftz : Bool
deriving DecidableEq, Repr

/-- A scan operand as read. -/
def ScanCfg.read (s : ScanCfg) (x : Nat) : Nat := if s.stype = 0 then fp32.flush s.ftz x else x

/-- The identity of Table 12.7, as a lane word; for REC that of h. -/
def ScanCfg.ident (s : ScanCfg) : Nat :=
  match s.op, s.stype with
  | 1, 0 => 0x80000000 | 2, 0 => 0xFF800000 | 3, 0 => 0x7F800000 | 4, 0 => 0x3F800000
  | 5, _ => 0x80000000
  | 2, 1 => 0x80000000 | 3, 1 => 0x7FFFFFFF | 2, 2 => 0 | 3, 2 => 0xFFFFFFFF
  | 4, _ => 1
  | _, _ => 0

/-- combine(u, v) on lane words. -/
def ScanCfg.comb (s : ScanCfg) (u v : Nat) : Nat :=
  if s.stype = 0 then
    let x := f32 u
    let y := f32 v
    fOut 0 s.ftz (match s.op with
      | 1 => x.add y
      | 2 => XNum.max x y
      | 3 => XNum.min x y
      | _ => x.mul y)
  else
    let op := match s.op, s.stype with
      | 1, _ => 0x1A | 2, 1 => 0x21 | 3, 1 => 0x20 | 2, _ => 0x23 | 3, _ => 0x22
      | _, _ => 0x1C
    aluInt 32 op u v 0 % 2 ^ 32

/-- combine on REC pairs (a, b): one multiplication and one FMA. -/
def ScanCfg.combRec (s : ScanCfg) (u v : Nat × Nat) : Nat × Nat :=
  (fOut 0 s.ftz ((f32 u.1).mul (f32 v.1)), fOut 0 s.ftz (((f32 v.1).mul (f32 u.2)).add (f32 v.2)))

/-- One doubling step of the fixed order of a LANES scan. -/
def scanStep {α : Type} (comb : α → α → α) (d : Nat) (p : List α) : List α :=
  p.take d ++ (p.zip (p.drop d)).map fun q => comb q.1 q.2

/-- The doubling steps of R313. -/
def scanSteps {α : Type} (comb : α → α → α) : Nat → Nat → List α → List α
  | 0, _, p => p
  | fuel + 1, d, p => if d < p.length then scanSteps comb fuel (2 * d) (scanStep comb d p) else p

/-- A row of a LANES scan: outputs and the carry after it. -/
def scanLanes {α : Type} (comb : α → α → α) (c : α) (p : List α) : List α × α :=
  let y := (scanSteps comb 64 1 p).map (comb c)
  (y, y.getLastD c)

/-- A row of a ROWS scan: the carry of every position after it, which is also its output. -/
def scanRows {α : Type} (comb : α → α → α) (cs : List α) (xs : List (Bool × α)) : List α :=
  (cs.zip xs).map fun q => if q.2.1 then comb q.1 q.2.2 else q.1

/-- Lanes as pairs. -/
def pairUp : List Nat → List (Nat × Nat)
  | a :: b :: rest => (a, b) :: pairUp rest
  | _ => []

/-- Pairs as lanes. -/
def unpair (ps : List (Nat × Nat)) : List Nat := ps.flatMap fun p => [p.1, p.2]

/-- Pairs of activity flags: both lanes active. -/
def pairOn : List Bool → List Bool
  | a :: b :: rest => (a && b) :: pairOn rest
  | _ => []

/-- A SCAN micro-op on one row: outputs and the carry record after it. The record of a LANES scan is value (h for REC) and
running product; that of a ROWS scan is one word per position. -/
def scanRow (s : ScanCfg) (rowsAxis : Bool) (rec' : List Nat) (xs : List Nat) (on : List Bool) : List Nat × List Nat :=
  let xs := xs.map s.read
  if s.op = 5 then
    if rowsAxis then
      let cs := scanRows s.combRec (pairUp (rec'.map s.read)) ((pairOn on).zip (pairUp xs))
      (unpair cs, unpair cs)
    else
      let p := ((pairOn on).zip (pairUp xs)).map fun q => if q.1 then q.2 else (0x3F800000, s.ident)
      let (y, c) := scanLanes s.combRec (s.read (nth 0 rec' 1), s.read (nth 0 rec' 0)) p
      (unpair y, [c.2, c.1])
  else if rowsAxis then
    let cs := scanRows s.comb (rec'.map s.read) (on.zip xs)
    (cs, cs)
  else
    let p := (on.zip xs).map fun q => if q.1 then q.2 else s.ident
    let (y, c) := scanLanes s.comb (s.read (nth 0 rec' 0)) p
    (y, [c, 0])

end Sys2Proof.Machine
end

