-- ==== Sys2Proof/Machine/Vec.lean ====
section
/-! DEFINITION. The Vector Engine and Its Stage Chains: RUN and TREDUCE, their issue checks and starts, the rows of a RUN
through its program, forwarded rows, carries, summaries and taps, and the registers of the VEC page (R291 to R325, R519). -/

namespace Sys2Proof.Machine

/-! ## Payload (Tables 12.2 to 12.4 and 12.11) -/

def Desc.vChsel (d : Desc) : Nat := bits (d.bytes 16 1) 0 3
def Desc.vGang (d : Desc) : Nat := bits (d.bytes 16 1) 3 2
def Desc.vMode (d : Desc) : Nat := bits (d.bytes 17 1) 0 2
def Desc.vOor (d : Desc) : Nat := bits (d.bytes 17 1) 2 2
def Desc.vMaskSrc (d : Desc) : Bool := (d.bytes 17 1).testBit 4
def Desc.vAmax (d : Desc) : Bool := (d.bytes 17 1).testBit 5
def Desc.vOscale (d : Desc) : Bool := (d.bytes 17 1).testBit 6
def Desc.vSat (d : Desc) : Bool := (d.bytes 17 1).testBit 7
def Desc.vProg (d : Desc) : Nat := 64 * d.bytes 18 3
def Desc.vPlen (d : Desc) : Nat := bits (d.bytes 21 1) 0 7
def Desc.vRnd (d : Desc) : Nat := bits (d.bytes 22 1) 0 3
def Desc.vKind (d : Desc) : Nat := bits (d.bytes 22 1) 3 4
/-- Operand word k: X, Y, Z, O0, O1. -/
def Desc.vOp (d : Desc) (k : Nat) : Nat := d.bytes (24 + 4 * k) 4
def Desc.vRef (d : Desc) (k : Nat) : Nat := bits (d.vOp k) 0 24
def Desc.vSrc (d : Desc) (k : Nat) : Nat := bits (d.vOp k) 24 2
def Desc.vMask (d : Desc) : Nat := d.bytes 44 3
def Desc.vRows (d : Desc) : Nat := d.bytes 48 4
def Desc.vLanes (d : Desc) : Nat := d.bytes 52 4
def Desc.vTag (d : Desc) : Nat := d.bytes 56 2
def Desc.vSlot (d : Desc) : Nat := d.bytes 58 2
def Desc.vFwdTag (d : Desc) : Nat := d.bytes 60 2
def Desc.vScratch (d : Desc) : Nat := d.bytes 62 2
def Desc.vEbase (d : Desc) : Nat := d.bytes 80 8
/-- First row and first element of window k: X, Y, Z, O0, O1, mask. -/
def Desc.vRow (d : Desc) (k : Nat) : Nat := d.bytes (88 + 8 * k) 4
def Desc.vEl (d : Desc) (k : Nat) : Nat := d.bytes (92 + 8 * k) 4
def Desc.vScan (d : Desc) : Nat := bits (d.bytes 136 1) 0 3
def Desc.vRowsAxis (d : Desc) : Bool := (d.bytes 136 1).testBit 3
def Desc.vCin (d : Desc) : Nat := bits (d.bytes 136 1) 4 2
def Desc.vCout (d : Desc) : Nat := bits (d.bytes 136 1) 6 2
def Desc.vSlotIn (d : Desc) : Nat := bits (d.bytes 137 1) 0 2
def Desc.vSlotOut (d : Desc) : Nat := bits (d.bytes 137 1) 2 2
def Desc.vStype (d : Desc) : Nat := bits (d.bytes 137 1) 4 2
def Desc.vCinAddr (d : Desc) : Nat := d.bytes 144 8
def Desc.vCoutAddr (d : Desc) : Nat := d.bytes 152 8
def Desc.vConst (d : Desc) (k : Nat) : Nat := d.bytes (168 + 4 * k) 4
def Desc.ftz (d : Desc) : Bool := d.engf.testBit 0

def Desc.vConv (d : Desc) : Conv := ⟨d.vRnd, d.vSat, d.bytes 64 8, d.bytes 72 2, d.bytes 76 4, d.bytes 74 2⟩
def Desc.scanCfg (d : Desc) : ScanCfg := ⟨d.vScan, d.vStype, d.ftz⟩

/-- Chains of a gang. -/
def gangSize (g : Nat) : Nat := if g = 0 then 1 else if g = 1 then 2 else 4
/-- Elements that the gang holds: GANG_WIDTH. -/
def Desc.vWidth (d : Desc) : Nat := laneE d.vMode * gangSize d.vGang

def Desc.tChain (d : Desc) : Nat := bits (d.bytes 16 1) 0 2
def Desc.tOp (d : Desc) : Nat := bits (d.bytes 16 1) 2 3
def Desc.tRows (d : Desc) : Bool := (d.bytes 16 1).testBit 5
def Desc.tSum (d : Desc) : Bool := (d.bytes 17 1).testBit 0
def Desc.tMask (d : Desc) : Nat := d.bytes 18 2
def Desc.tRef (d : Desc) : Nat := d.bytes 20 4
def Desc.tDst (d : Desc) : Nat := d.bytes 24 8
def Desc.tTag (d : Desc) : Nat := d.bytes 32 2

/-- The key under which a descriptor keeps its program's bytes. -/
def progKey : Nat := 2 ^ 40

/-- The program of a descriptor as read at issue. -/
def Desc.program (d : Desc) : List Uop :=
  (rangeFrom 0 d.vPlen).map fun i => uopOf (Mem.readNat d.cap (progKey + 4 * i) 4)

/-- The chains of a gang from its first. -/
def gangOf (first g : Nat) : List Nat := rangeFrom first (gangSize g)

def tapEn (c : Chip) (n : Nat) : Bool := (SMap.get 0 c.rdu.taps n).testBit 16
def tapTag (c : Chip) (n : Nat) : Nat := bits (SMap.get 0 c.rdu.taps n) 0 16
def tapOut (c : Chip) (n : Nat) : Nat := bits (SMap.get 0 c.rdu.taps n) 17 1

/-! ## Issue checks (R323) -/

/-- An operand's window fields are zero unless it is used. -/
def vecOperand (d : Desc) (k : Nat) : Bool :=
  let s := d.vSrc k
  decide (bits (d.vOp k) 26 6 = 0) && (k < 3 || s != 3)
    && (if s = 0 then decide (d.vRef k = 0 ∧ d.vRow k = 0 ∧ d.vEl k = 0)
        else if s = 2 then decide (d.vRef k < 16 ∧ d.vEl k = 0)
        else if s = 3 then decide (d.vRef k = 0 ∧ d.vRow k = 0 ∧ d.vEl k = 0)
        else true)

/-- Forwarded operands. -/
def Desc.vFwd (d : Desc) : List Nat := [0, 1, 2].filter fun k => d.vSrc k == 3
/-- Some output is a tensor in LMEM. -/
def Desc.vStores (d : Desc) : Bool := d.vSrc 3 == 1 || d.vSrc 4 == 1

/-- Bytes of a carry record in memory (Table 12.8). -/
def Desc.vRecord (d : Desc) : Nat := if d.vRowsAxis then 4 * d.vWidth else 8

/-- The carry fields (R311, R314, R334 rule 7). -/
def vecCarry (d : Desc) : Bool :=
  let scan := d.vScan != 0
  let al := if d.vRowsAxis then 64 else 8
  decide (d.vScan ≤ 5 ∧ d.vStype ≤ 2 ∧ d.vCin ≤ 2 ∧ d.vCout ≤ 2)
    && (d.vScan != 5 || (d.vStype == 0 && aligned 2 d.vLanes))
    && (scan || (d.vCout == 0 && d.vStype == 0 && (d.vCin != 0 || !d.vRowsAxis)))
    && (d.vCin == 1 || d.vSlotIn == 0) && (d.vCout == 1 || d.vSlotOut == 0)
    && (if d.vCin = 2 then aligned al d.vCinAddr else d.vCinAddr == 0)
    && (if d.vCout = 2 then aligned al d.vCoutAddr else d.vCoutAddr == 0)
    && decide (bits (d.bytes 137 1) 6 2 = 0 ∧ d.bytes 138 6 = 0)

/-- The fields of a RUN that do not depend on its program. -/
def runFields (d : Desc) : Bool :=
  let w := d.word 20
  decide (d.vChsel < 4 ∨ d.vChsel = 7) && decide (d.vGang ≤ 2 ∧ d.vOor ≤ 2 ∧ d.vRnd ≤ 4 ∧ d.vKind ≤ 5)
    && (d.vChsel == 7 || aligned (gangSize d.vGang) d.vChsel)
    && decide (1 ≤ d.vPlen ∧ d.vPlen ≤ 64)
    && [0, 1, 2, 3, 4].all (vecOperand d) && (d.vSrc 4 == 0 || d.vSrc 3 != 0)
    && (d.vFwd.isEmpty || (decide (d.vFwd.length = 1) && d.vGang == 0 && d.vMode == 0))
    && (!d.vFwd.isEmpty || d.vFwdTag == 0)
    && (d.vMaskSrc || decide (d.vMask = 0 ∧ d.vRow 5 = 0 ∧ d.vEl 5 = 0))
    && vecCarry d && (d.vScan == 0 || d.vMode == 0) && (d.vKind != 1 || (d.vScan != 0 && !d.vRowsAxis))
    && (d.vAmax || d.vOscale || d.vSlot == 0) && decide (d.vSlot < sctSlots)
    && (d.vStores || (d.vRnd == 0 && !d.vSat))
    && (decide (fld w 48 16 ≠ 0) || w == 0#64)
    && decide (bits (d.bytes 16 1) 5 3 = 0 ∧ bits (d.bytes 21 1) 7 1 = 0 ∧ bits (d.bytes 22 1) 7 1 = 0)
    && decide (d.bytes 23 1 = 0 ∧ d.bytes 47 1 = 0)

/-- The fields of a TREDUCE. -/
def treduceFields (d : Desc) : Bool :=
  decide (d.tOp ≤ 5) && decide (d.tMask ≠ 0) && (!d.tRows || (d.tOp != 3 && d.tOp != 5 && !d.tSum))
    && aligned (if d.tRows then 64 else 8) d.tDst && (d.tOp == 5 || d.tRef == 0) && (d.tSum || d.tTag == 0)
    && decide (bits (d.bytes 16 1) 6 2 = 0 ∧ bits (d.bytes 17 1) 1 7 = 0 ∧ d.bytes 34 30 = 0)

/-- The tensors of a descriptor: operands, then the mask. -/
def vecTens (d : Desc) : List TenRef :=
  if d.opc = 2 then []
  else
    ([0, 1, 2, 3, 4].filter fun k => d.vSrc k == 1).map (fun k => ⟨d.vRef k, decide (3 ≤ k), Tld.extent⟩)
      ++ (if d.vMaskSrc then [srcRef d.vMask] else [])

/-- The address from which a program is read: that of the CUR slot when its window lies in a region (R517). -/
def progAt (c : Chip) (d : Desc) : Nat :=
  let a := selfLcn * 2 ^ 44 + d.vProg
  match nameOf c d.vProg (4 * d.vPlen) with
  | .region g => mapAddr c (slotMap (rgnOf c g) (rgnOf c g).cur) a
  | _ => a

def vecRaws (c : Chip) (d : Desc) : List (Nat × Nat × Nat) :=
  if d.opc = 2 then []
  else [(progKey, if inLmem d.vProg (4 * d.vPlen) then progAt c d else selfLcn * 2 ^ 44 + d.vProg, 4 * d.vPlen)]

/-- A type converts to and from the lane format (R300, R519, Table 2.2). -/
def vecTy (lm : Nat) (t : Ty) : Bool := t != .slice8 && (lm == 0 || lm == 3 || t.asInt.isNone && t != .bool1)

/-- An operand tensor (R300, R301). -/
def vecTensor (c : Chip) (d : Desc) (k : Nat) : Bool :=
  let x := d.ten (d.vRef k)
  let t := x.t
  x.localHere c && decide (t.rank = 2) && decide (t.tiling = 0 ∨ t.tiling = 3) && vecTy d.vMode t.ty
    && (k < 3 || !t.ty.isMx || (aligned 32 (d.vEl k)
          && (aligned 32 (d.vEl k + d.vLanes) || d.vEl k + d.vLanes == t.dim 0) && d.maskZero))

/-- The windows of an output and an input are exactly the same (R305). -/
def sameWindow (d : Desc) (j k : Nat) : Bool :=
  let a := (d.ten (d.vRef j)).t
  let b := (d.ten (d.vRef k)).t
  d.vSrc j == d.vSrc k && d.vRow j == d.vRow k && d.vEl j == d.vEl k
    && (if d.vSrc j = 1 then decide (a.base = b.base ∧ a.tiling = b.tiling ∧ a.strides = b.strides ∧ a.tyCode = b.tyCode)
        else d.vSrc j == 2 && d.vRef j == d.vRef k)

/-- EBASE indexes the draws of an output that is no tensor of LMEM, and the elements of such an output that a tap of RDU takes (R300). -/
def usesEbase (c : Chip) (d : Desc) (draws : Bool) : Bool :=
  let firsts := if d.vChsel = 7 then rangeFrom 0 Config.chains else gangOf d.vChsel d.vGang
  (draws && d.vSrc 3 != 1) || firsts.any fun n => tapEn c n && tapTag c n == d.vTag && d.vSrc (3 + tapOut c n) != 1

/-- The rules on the program and the fields that it uses (R334, R323). -/
def runProgram (c : Chip) (d : Desc) : Bool :=
  let us := d.program
  let ps := placed us
  let used := us.flatMap Uop.srcs
  let draws := programDraws us
  programOk us d.vMode (fun j => d.vSrc (3 + j) != 0) d.vScan d.vCin d.vScratch
    && [0, 1, 2].all (fun k => !used.contains k || d.vSrc k != 0)
    && (rangeFrom 0 6).all (fun k => used.contains (16 + k) || d.vConst k == 0)
    && ((us.any fun u => u.cls == uPERM) || d.vOor == 0)
    && (draws || (d.vRnd == 4 && d.vStores) || decide (d.bytes 64 16 = 0))
    && (usesEbase c d draws || d.vEbase == 0)
    && [0, 1, 2, 3, 4].all (fun k => d.vSrc k != 2 || !d.vScratch.testBit (d.vRef k))
    && [3, 4].all (fun j => [0, 1, 2].all fun k =>
        d.vSrc j == 0 || !sameWindow d j k || decide (lastRead ps k ≤ lastPass ps (j + 5)))

def vecShape (c : Chip) (d : Desc) : Bool :=
  d.opc == 2 ||
    ([0, 1, 2, 3, 4].all (fun k => d.vSrc k != 1 || vecTensor c d k)
      && (!d.vMaskSrc ||
          (let x := d.ten d.vMask
           x.localHere c && decide (x.t.rank = 2 ∧ x.t.tiling = 0) && decide (x.t.ty = .bool1)))
      && runProgram c d)

/-- Byte ranges on this core: carry records, the program window and the result of TREDUCE. -/
def vecRanges (c : Chip) (d : Desc) : List Span :=
  if d.opc = 2 then
    (if d.tDst ≠ 0 ∧ isSelf c d.tDst then [⟨offOf d.tDst, if d.tRows then 2048 else 8, true⟩] else [])
  else
    (if d.vCin = 2 then [⟨offOf d.vCinAddr, d.vRecord, false⟩] else [])
      ++ [⟨d.vProg, 4 * d.vPlen, false⟩]
      ++ (if d.vCout = 2 ∧ isSelf c d.vCoutAddr then [⟨offOf d.vCoutAddr, d.vRecord, true⟩] else [])

def vecWindows (_ : Chip) (d : Desc) : Bool :=
  d.opc == 2 ||
    (decide (d.vLanes ≤ d.vWidth)
      && [0, 1, 2, 3, 4].all (fun k =>
          let t := (d.ten (d.vRef k)).t
          if d.vSrc k = 1 then decide (d.vRow k + d.vRows ≤ t.dim 1) && decide (d.vEl k + d.vLanes ≤ t.dim 0)
          else d.vSrc k != 2 || decide (d.vRow k + d.vRows ≤ 32))
      && (!d.vMaskSrc ||
          (let t := (d.ten d.vMask).t
           decide (d.vRow 5 + d.vRows ≤ t.dim 1) && decide (d.vEl 5 + d.vLanes ≤ t.dim 0))))

/-- Two sorted lists share an element. -/
def meets : Nat → List Nat → List Nat → Bool
  | 0, _, _ => false
  | _ + 1, [], _ => false
  | _ + 1, _, [] => false
  | fuel + 1, a :: as, b :: bs =>
    if a = b then true else if a < b then meets fuel as (b :: bs) else meets fuel (a :: as) bs

/-- The bytes of a window of a tensor, resolved. -/
def windowBytes (c : Chip) (m : List (Nat × Nat × Nat)) (x : Ten) (el row n rows : Nat) : List Nat :=
  addrSet ((windowIdx [(el, n), (row, rows)]).flatMap fun ix => (elemAddrs x.o x.t ix).map fun a => offOf (mapAddr c m a))

/-- What operand k (5: the mask) occupies: bytes of LMEM, or rows of tile registers past all of LMEM. -/
def vecWindow (c : Chip) (d : Desc) (k : Nat) : List Nat :=
  let bytes (off : Nat) : List Nat :=
    windowBytes c (if 3 ≤ k ∧ k < 5 then d.wmap else d.rmap) (d.ten off) (d.vEl k) (d.vRow k) d.vLanes d.vRows
  if k = 5 then (if d.vMaskSrc then bytes d.vMask else [])
  else if d.vSrc k = 1 then bytes (d.vRef k)
  else if d.vSrc k = 2 then (rangeFrom (d.vRow k) d.vRows).map fun r => 2 ^ 44 + 32 * d.vRef k + r
  else []

/-- Step 8: overlaps (R305). -/
def vecOwn (c : Chip) (d : Desc) : Option Cause :=
  if d.opc = 2 then none
  else
    let ws := (rangeFrom 0 6).map fun k => (k, vecWindow c d k)
    let clash := [3, 4].any fun j =>
      let wj := vecWindow c d j
      ws.any fun p => p.1 != j && meets (wj.length + p.2.length + 1) wj p.2 && !(decide (p.1 < 3) && sameWindow d j p.1)
    if clash then some .copyOverlap else none

/-! ## Chains (R293, R324, R349) -/

/-- A chain is free. -/
def chainFree (c : Chip) (n : Nat) : Bool := (classDescs c 3 fun d => d.chs.contains n).isEmpty

/-- The chains that a descriptor would take now; none while no choice of CHSEL = 7 is free. -/
def chooseChains (c : Chip) (d : Desc) : List Nat :=
  if d.opc = 2 then [d.tChain]
  else if d.vChsel ≠ 7 then gangOf d.vChsel d.vGang
  else
    let firsts := (rangeFrom 0 Config.chains).filter fun k => aligned (gangSize d.vGang) k
    match firsts.find? fun k => (gangOf k d.vGang).all fun n => c.vec.anyMask.testBit n && chainFree c n with
    | some k => gangOf k d.vGang
    | none => []

/-- The chain of a RUN that is tapped: its tag is reserved there (R349). -/
def tappedOn (c : Chip) (d : Desc) (chs : List Nat) : Option Nat :=
  if d.opc = 1 then chs.find? fun n => tapEn c n && tapTag c n == d.vTag else none

/-- The running LREDUCE that takes a chain's rows under a tag and has room. -/
def tapTaker (c : Chip) (n tag : Nat) : Option (Nat × Desc) :=
  (classDescs c 4 fun d => decide (d.phase = .running ∧ d.opc = 1 ∧ d.bytes 18 2 = tag) && decide (bits (d.bytes 16 1) 4 2 = 0)
    && (d.bytes 17 1).testBit n && decide (d.prog < d.bytes 24 4)).head?

/-- A descriptor may start on the chains: all free, and a tapped RUN has its LREDUCE. -/
def vecCanStart (c : Chip) (_ : Nat) (d : Desc) : Bool :=
  let chs := chooseChains c d
  !chs.isEmpty && chs.all (chainFree c) && (match tappedOn c d chs with
    | some n => (tapTaker c n d.vTag).isSome
    | none => true)

/-- The carry key of a lane of a slot. -/
def carryKey (chain slot lane : Nat) : Nat := 2048 * chain + 512 * slot + lane

/-- The carry record that a RUN starts with (R314, Table 12.8): value and product for LANES, a word per position for ROWS. -/
def carryIn (c : Chip) (d : Desc) (chs : List Nat) : List Nat :=
  let n := if d.vRowsAxis then d.vWidth else 2
  let slotWord (i : Nat) : Nat :=
    let ch := nth 0 chs (if d.vRowsAxis then i / Config.lanes else 0)
    SMap.get 0 c.vec.carry (carryKey ch d.vSlotIn (i % Config.lanes))
  if d.vCin = 1 then (rangeFrom 0 n).map slotWord
  else if d.vCin = 2 then
    (rangeFrom 0 n).map fun i => leNat ((rangeFrom 0 4).map fun k => rdByte c d (byteAddr d.vCinAddr (4 * i + k)))
  else if d.vScan = 0 then List.replicate n 0
  else if d.vScan = 5 then
    (if d.vRowsAxis then (rangeFrom 0 n).map fun i => if i % 2 = 0 then 0x3F800000 else d.scanCfg.ident
     else [d.scanCfg.ident, 0x3F800000])
  else if d.vRowsAxis then List.replicate n d.scanCfg.ident else [d.scanCfg.ident, 0]

/-- Addresses of the mask's elements in the window. -/
def runMaskNames (d : Desc) : List Nat :=
  if d.vMaskSrc then
    let x := d.ten d.vMask
    addrSet ((windowIdx [(d.vEl 5, d.vLanes), (d.vRow 5, d.vRows)]).flatMap fun ix => elemAddrs x.o x.t ix)
  else []

/-- The mask of the window, bit r × VL + e. -/
def runMask (c : Chip) (d : Desc) : Nat :=
  if d.vMaskSrc then
    let x := d.ten d.vMask
    let vs := (windowIdx [(d.vEl 5, d.vLanes), (d.vRow 5, d.vRows)]).map fun ix => readRaw (rdByte c d) x.o x.t ix
    (((rangeFrom 0 vs.length).zip vs).map fun p => p.2 <<< p.1).foldl (· + ·) 0
  else 0

/-- Sampled words of a start: key 1 the conversion scale, 2 the tapping LREDUCE, 3 the tapped output. -/
def vecSamples (c : Chip) (d : Desc) (chs : List Nat) : SMap Int :=
  let tap : SMap Int := match tappedOn c d chs with
    | some n =>
      match tapTaker c n d.vTag with
      | some (r, e) => [(2, ((r * 2 ^ 32 + e.idx : Nat) : Int)), (3, (tapOut c n : Int))]
      | none => []
    | none => []
  (if d.vOscale then [(1, (slotOf c d.vSlot).exp)] else []) ++ tap

/-- The carry record of a start as sampled words: key 1000 + i. -/
def carrySamples (c : Chip) (d : Desc) : SMap Int :=
  let rec' := carryIn c d d.chs
  ((rangeFrom 1000 rec'.length).zip rec').map fun p => (p.1, ((p.2 : Nat) : Int))

/-- Counts a RUN that an LREDUCE has absorbed. -/
def absorb (n idx : Nat) (c : Chip) : Chip :=
  updRing n (fun r => { r with descs := r.descs.map fun d => if d.idx = idx then { d with prog := d.prog + 1 } else d }) c

/-- A starting RUN reads its carry-in record and its mask (R324). -/
def vecSample (n idx : Nat) (c : Chip) : Chip :=
  let names (d : Desc) : List Nat :=
    (if d.vCin = 2 then (rangeFrom 0 d.vRecord).map (byteAddr d.vCinAddr) else []) ++ runMaskNames d
  sampleAt 4 vcData n idx names
    (fun d c => putDesc n { d with mask := runMask c d, samp := d.samp ++ carrySamples c d } c) c

/-- The start (R324): the chains are taken and a tapping LREDUCE counts the RUN. -/
def vecOnStart (n : Nat) (d : Desc) (c : Chip) : Chip :=
  let chs := chooseChains c d
  if d.opc = 2 then putDesc n { d with chs := chs } c
  else
    let taker := (tappedOn c d chs).bind fun k => tapTaker c k d.vTag
    let c := putDesc n { d with chs := chs, samp := vecSamples c d chs } c
    vecSample n d.idx (match taker with
      | some (r, e) => absorb r e.idx c
      | none => c)

/-- The VEC class. -/
def vecClass : EngineClass :=
  { opcOk := fun d =>
      if d.opc = 1 then d.chain && decide (d.engf ≤ 1) else decide (d.opc = 2) && !d.chain && decide (d.engf = 0)
    present := fun _ d =>
      d.opc == 2 || d.vChsel == 7 || (gangOf d.vChsel (min d.vGang 2)).all fun k => decide (k < Config.chains) || decide (4 ≤ d.vChsel)
        || !aligned (gangSize d.vGang) d.vChsel
    noop := fun d => d.opc == 1 && decide (d.vRows = 0 ∨ d.vLanes = 0)
    fields := fun d => if d.opc = 2 then treduceFields d else runFields d
    tens := vecTens
    raws := vecRaws
    shape := vecShape
    ranges := vecRanges
    windows := vecWindows
    own := vecOwn
    wvsel := fun _ => 0
    units := fun c d => (chooseChains c d).map fun n => 5 + n
    canStart := vecCanStart
    onStart := vecOnStart
    unmapped := fun _ d => if d.opc = 2 then pastEnd d.tDst (if d.tRows then 2048 else 8) else d.vCout == 2 && pastEnd d.vCoutAddr d.vRecord
    fieldsHere := fun c d => d.opc == 2 || d.vCin != 2 || (isSelf c d.vCinAddr && inLmem (offOf d.vCinAddr) d.vRecord) }

/-- FWD_ROW (R304): the oldest row that waits at a chain is accepted by the RUN that runs there with its tag. -/
def fwdRow (chain : Nat) (c : Chip) : Chip :=
  match c.vec.fwd.find? fun w => w.chain == chain with
  | none => c
  | some w =>
    match (classDescs c 3 fun d => decide (d.phase = .running) && d.chs == [chain] && d.opc == 1 && !d.vFwd.isEmpty
        && d.vFwdTag == w.tag && decide (d.took.length < d.vRows)).head? with
    | some (n, d) =>
      let rest := (c.vec.fwd.takeWhile fun x => x.chain != chain) ++ (c.vec.fwd.dropWhile fun x => x.chain != chain).drop 1
      countElems w.lanes.length w.array (putDesc n { d with took := d.took ++ [w.lanes] } { c with vec.fwd := rest })
    | none => c

/-! ## Elements of operands -/

/-- An input element as a lane element (R300): under FTZ what is a subnormal of the input's own format, and what converts to one of
the lane format, is zero (R309, log 87). -/
def toLane (lm : Nat) (ftz : Bool) (t : Ty) (v : XNum) : Nat :=
  let int := t.asInt.isSome || t == .bool1
  if int then
    (if lm = 3 then encodeInt true 64 .rne 0 v
     else match t.asInt with
      | some (true, _) => encodeInt true 32 .rne 0 v
      | _ => encodeInt false 32 .rne 0 v)
  else (laneF lm).flush ftz ((laneF lm).encode .rne false 0 v)

/-- Tile aperture offset of an element of a register row (Table 12.1, R71). -/
def tileAt (lm : Nat) (chs : List Nat) (t r e : Nat) : Nat :=
  nth 0 chs (e / laneE lm) * 0x100000 + t * 0x10000 + r * 2048 + e % laneE lm * (laneW lm / 8)

/-- The elements of one input row. -/
def inputRow (c : Chip) (d : Desc) (k r : Nat) : List Nat :=
  let lm := d.vMode
  let n := d.vLanes
  if d.vSrc k = 1 then
    let x := d.ten (d.vRef k)
    (rangeFrom 0 n).map fun e => toLane lm d.ftz x.t.ty (readElemFtz d.ftz (rdByte c d) x.o x.t [d.vEl k + e, d.vRow k + r])
  else if d.vSrc k = 2 then
    (rangeFrom 0 n).map fun e => Mem.readNat c.vec.tiles (tileAt lm d.chs (d.vRef k) (d.vRow k + r) e) (laneW lm / 8)
  else if d.vSrc k = 3 then
    let row := nth [] d.took r
    (rangeFrom 0 n).map fun e => fp32.flush d.ftz (SMap.get 0 row e)
  else []

/-- The mask of a row before its first slot (R306). -/
def rowMask (d : Desc) (r : Nat) : List Bool :=
  (rangeFrom 0 d.vLanes).map fun e =>
    (!d.vMaskSrc || d.mask.testBit (r * d.vLanes + e))
      && (d.vFwd.isEmpty || (nth [] d.took r).any fun p => p.1 == e)

/-- Element index of the generator and of ARGMAX for output j (R300). -/
def elemIdx (d : Desc) (j r e : Nat) : Nat :=
  if d.vSrc (3 + j) = 1 then linearIdx (d.ten (d.vRef (3 + j))).t.dims [d.vEl (3 + j) + e, d.vRow (3 + j) + r]
  else d.vEbase + r * d.vLanes + e

/-! ## One row through the program -/

/-- What a row sees beside the temporaries. -/
structure RowIn where
  r : Nat
  ins : List (List Nat)
  cin : List Nat
deriving DecidableEq, Repr

/-- The state of a row as it passes: written destinations, the mask, the scan's record, and whether an active element's
permute index was out of range. -/
structure RowSt where
  env : SMap (List Nat)
  mask : List Bool
  rec' : List Nat
  perm : Bool
deriving DecidableEq, Repr

/-- ONE as a source reads it (Table 13.2). -/
def oneOf (lm : Nat) (k : Reads) : Nat :=
  match k with
  | .float => (laneF lm).encode .rne false 0 .one
  | _ => 1

/-- A constant as a source reads it (R328). -/
def constOf (lm : Nat) (k : Reads) (w : Nat) : Nat :=
  if lm = 0 then w
  else if lm = 3 then
    (match k with
     | .float => fp64.encode .rne false 0 (fp32.decode w)
     | _ => modInt 64 (sext 32 w))
  else w % 65536

/-- The values of a source code. -/
def srcVals (d : Desc) (x : RowIn) (s : RowSt) (k : Reads) (code : Nat) : List Nat :=
  let n := d.vLanes
  let lm := d.vMode
  if code ≤ 2 then nth [] x.ins code
  else match srcDst code with
    | some q => SMap.get [] s.env q
    | none =>
      if code = 5 then x.cin
      else if code = 6 then (rangeFrom 0 n).map fun e => e % 2 ^ laneW lm
      else if code = 7 then List.replicate n (x.r % 2 ^ laneW lm)
      else if 0x10 ≤ code ∧ code ≤ 0x15 then List.replicate n (constOf lm k (d.vConst (code - 16)))
      else List.replicate n (if code = 0x16 then 0 else oneOf lm k)

/-- The lane of an element within its chain is one that PAR selects (R329). -/
def parTakes (lm par e : Nat) : Bool :=
  let lane := if lm = 1 ∨ lm = 2 then e / 2 else e
  par == 0 || lane % 2 == par - 1

/-- A generator word of an element (R338). -/
def drawWord (d : Desc) (r e w : Nat) : Nat :=
  let v := d.vConv
  genWord w v.key (genCounter v.stream v.batch v.micro (elemIdx d 0 r e))

/-- The permute (R310). -/
def permRow (d : Desc) (a ix : List Nat) (on : List Bool) : List Nat × Bool :=
  let n := d.vLanes
  let w := if d.vMode = 1 ∨ d.vMode = 2 then 16 else 32
  let cell (p : Nat × Nat × Bool) : Nat × Bool :=
    let i := p.2.1 % 2 ^ w
    if i < n then (nth 0 a i, false)
    else (if d.vOor = 0 then nth 0 a (n - 1) else if d.vOor = 1 then 0 else p.1, p.2.2)
  let out := (a.zip (ix.zip on)).map cell
  (out.map Prod.fst, out.any Prod.snd)

/-- One micro-op on a row. -/
def execUop (d : Desc) (x : RowIn) (s : RowSt) (u : Uop) : RowSt :=
  let lm := d.vMode
  let n := d.vLanes
  let k := u.reads d.vStype
  let vals := u.srcs.map (srcVals d x s k)
  let a := nth (List.replicate n 0) vals 0
  let b := nth (List.replicate n 0) vals 1
  let c := nth (List.replicate n 0) vals 2
  let es := rangeFrom 0 n
  let put (v : List Nat) : RowSt := { s with env := SMap.insert v s.env u.dst }
  let each (f : Nat → Nat → Nat → Nat → Nat) : List Nat :=
    (es.zip (a.zip (b.zip c))).map fun p => if parTakes lm u.par p.1 then f p.1 p.2.1 p.2.2.1 p.2.2.2 else p.2.1
  let narrow (f : Nat → Nat → Nat → Bool) : RowSt :=
    { s with mask := (es.zip (s.mask.zip (a.zip b))).map fun p =>
        p.2.1 && (!parTakes lm u.par p.1 || f p.1 p.2.2.1 p.2.2.2) }
  if u.cls = uALU then
    put (each fun e v w y =>
      if u.op = 0x2B then aluOp lm d.ftz u.op v w y (drawWord d x.r e 1) (drawWord d x.r e 2) else aluOp lm d.ftz u.op v w y 0 0)
  else if u.cls = uSFU then put (each fun _ v w _ => sfuOp lm d.ftz u.op v w)
  else if u.cls = uPERM then
    let (o, bad) := permRow d a b s.mask
    { put o with perm := s.perm || bad }
  else if u.cls = uSCAN then
    let keep := if d.vRowsAxis then d.vLanes else 2
    let (y, r) := scanRow d.scanCfg d.vRowsAxis (s.rec'.take keep) a s.mask
    { put y with rec' := r ++ s.rec'.drop keep }
  else if u.cls = uPRED then narrow fun _ v w => predKeeps lm d.ftz u.op v w
  else if u.isBern then
    narrow fun e v _ => XNum.lt (unitDraw (drawWord d x.r e (u.op % 4))) (fIn lm d.ftz v)
  else put (each fun e _ _ _ => rngValue lm d.ftz u.op (drawWord d x.r e (u.op % 4)))

/-- What a row stores: output, its elements and the mask at S7 of the pass that stores it (R336). -/
structure Stored where
  out : Nat
  r : Nat
  vals : List Nat
  mask : List Bool
  /-- the row's mask at S7 of its last pass -/
  last : List Bool
deriving DecidableEq, Repr

/-- A row through its program: the row's state and what it stores, pass by pass. -/
def runUops (d : Desc) (x : RowIn) (lastOf : Nat → Nat) : List (Uop × Nat) → RowSt → List Stored → RowSt × List Stored
  | [], s, out => (s, out)
  | p :: ps, s, out =>
    let s := execUop d x s p.1
    let ends := match ps with
      | [] => true
      | q :: _ => q.2 != p.2
    let here := if ends then
        [0, 1].filterMap fun j =>
          if d.vSrc (3 + j) ≠ 0 ∧ lastOf (8 + j) = p.2 then some (⟨j, x.r, SMap.get [] s.env (8 + j), s.mask, s.mask⟩ : Stored)
          else none
      else []
    runUops d x lastOf ps s (out ++ here)

/-- What a RUN has done so far. -/
structure RunAcc where
  stores : List Stored
  rec' : List Nat
  perm : Bool
  pcount : Nat
  first : Option Nat
  /-- the last row's temporaries that scratch registers hold are not kept -/
  rows : Nat
deriving DecidableEq, Repr

/-- One row of a RUN. -/
def runRow (c : Chip) (d : Desc) (ps : List (Uop × Nat)) (s : RunAcc) (r : Nat) : RunAcc :=
  let n := d.vLanes
  let used := (ps.flatMap fun p => p.1.srcs)
  let ins := [0, 1, 2].map fun k => if used.contains k then inputRow c d k r else []
  let rec0 := carryIn' d
  let cin := if d.vRowsAxis then rec0.take n else List.replicate n (nth 0 rec0 0)
  let (x, st) := runUops d ⟨r, ins, cin⟩ (lastPass ps) ps ⟨[], rowMask d r, s.rec', false⟩ []
  let act := (x.mask.filter id).length
  { stores := s.stores ++ st.map (fun y => { y with last := x.mask }), rec' := x.rec', perm := s.perm || x.perm, pcount := s.pcount + act
    first := match s.first with
      | some f => some f
      | none => if act = 0 then none else some (r * n + (x.mask.takeWhile fun b => !b).length)
    rows := s.rows + 1 }
where
  /-- The record that the descriptor started with. -/
  carryIn' (d : Desc) : List Nat :=
    (rangeFrom 1000 (if d.vRowsAxis then d.vWidth else 2)).map fun k => (SMap.get 0 d.samp k).toNat

/-- All rows of a RUN, in order. -/
def runRows (c : Chip) (d : Desc) : RunAcc :=
  let ps := placed d.program
  (rangeFrom 0 d.vRows).foldl (runRow c d ps) ⟨[], runRow.carryIn' d, false, 0, none, 0⟩

/-! ## Outputs (R300, R307, R519, R320) -/

/-- How an output element is read (R519): `none` an unsigned or signed integer's value is exact. -/
def outValue (lm : Nat) (t : Option Ty) (x : Nat) : XNum :=
  match t with
  | none => (laneF lm).decode x
  | some t =>
    if t = .bool1 then XNum.ofInt (if lm = 3 then sext 64 x else ((x % 2 ^ 32 : Nat) : Int))
    else match t.asInt with
      | none => (laneF lm).decode x
      | some (sg, _) => XNum.ofInt (if lm = 3 then sext 64 x else if sg then sext 32 x else ((x % 2 ^ 32 : Nat) : Int))

/-- The type that fixes the reading of output j. -/
def Desc.outTy (d : Desc) (j : Nat) : Option Ty := if d.vSrc (3 + j) = 1 then some (d.ten (d.vRef (3 + j))).t.ty else none

/-- The active elements of a stored row: element and value. -/
def activeVals (d : Desc) (s : Stored) : List (Nat × XNum) :=
  ((rangeFrom 0 d.vLanes).zip (s.vals.zip s.mask)).filterMap fun p =>
    if p.2.2 then some (p.1, outValue d.vMode (d.outTy s.out) p.2.1) else none

/-- The values of a stored row that are active at S7 of its last pass, where summaries are taken (R336). -/
def lastVals (d : Desc) (s : Stored) : List XNum := (activeVals d { s with mask := s.last }).map Prod.snd

/-- An output value at S7 after OSCALE: rounded to the lane format's float when it is multiplied. -/
def oscaled (d : Desc) (j : Nat) (v : XNum) : XNum :=
  if j = 0 ∧ d.vOscale then
    let f := laneF d.vMode
    f.decode (f.flush d.ftz (f.encode .rne false 0 ((f.rnd v).scale (SMap.get 0 d.samp 1))))
  else v

/-- Writes of one stored row to a tensor. -/
def storeTensor (d : Desc) (s : Stored) : List BitWrite :=
  let k := 3 + s.out
  let x := d.ten (d.vRef k)
  let ty := x.t.ty
  let v := d.vConv
  let ix (e : Nat) : List Nat := [d.vEl k + e, d.vRow k + s.r]
  let cells := (rangeFrom 0 d.vLanes).zip (s.vals.zip s.mask)
  let value (q : Nat × Nat × Bool) : XNum := oscaled d s.out (outValue d.vMode (some ty) q.2.1)
  if ty.isMx then
    mxWrites d.ftz x v.mode (v.draw x.t) (cells.map fun q => (ix q.1, if q.2.2 then value q else .zero))
  else
    cells.flatMap fun q =>
      if q.2.2 then
        let b := if ty = .bool1 ∧ !(s.out == 0 && d.vOscale) then (if q.2.1 = 0 then 0 else 1)
          else ty.flush d.ftz (ty.encode v.mode v.sat (v.draw x.t (ix q.1)) (value q))
        elemWrite x.o x.t (ix q.1) b :: boolTail x (ix q.1)
      else if d.maskZero then elemWrite x.o x.t (ix q.1) (ty.encode .rne false 0 .zero) :: boolTail x (ix q.1)
      else []

/-- Writes of one stored row to a tile register, through its aperture (R71). -/
def storeTile (d : Desc) (s : Stored) : List BitWrite :=
  let lm := d.vMode
  let k := 3 + s.out
  ((rangeFrom 0 d.vLanes).zip (s.vals.zip s.mask)).filterMap fun q =>
    let at_ := selfLcn * 2 ^ 44 + 0x11000000 + tileAt lm d.chs (d.vRef k) (d.vRow k + s.r) q.1
    if q.2.2 then
      let v := if s.out = 0 ∧ d.vOscale then (laneF lm).encode .rne false 0 (oscaled d 0 (outValue lm none q.2.1)) else q.2.1
      some ⟨at_, 0, laneW lm, v⟩
    else if d.maskZero then some ⟨at_, 0, laneW lm, 0⟩ else none

/-- Replaces a range of memory by bytes in rising order. -/
def splice (m : Mem) (lo n : Nat) (b : Nat → Byte) : Mem :=
  (m.filter fun p => decide (p.1 < lo)) ++ memRange lo n b ++ m.filter fun p => decide (lo + n ≤ p.1)
where
  /-- The listed cells of a range. -/
  memRange (lo n : Nat) (b : Nat → Byte) : Mem :=
    ((rangeFrom lo n).map fun a => (a, b a)).filter fun p => p.2 != Mem.unlisted

/-- The scratch registers that a RUN names hold values of no defined meaning after it (R335). -/
def scrambleScratch (d : Desc) (c : Chip) : Chip :=
  let regs := setBits 16 d.vScratch
  let rows := 32
  (d.chs.flatMap fun n => regs.map fun t => n * 0x100000 + t * 0x10000).foldl (fun c lo =>
    let f := c.free
    { c with vec.tiles := splice c.vec.tiles lo (2048 * rows) fun a => BitVec.ofNat 8 (Config.freeNat (f + (a - lo)))
             free := f + 2048 * rows }) c

/-- The summary of a RUN (Table 12.10), taken at S7 of the last pass; its FINITE bit covers every output element stored in any pass,
`nonfin` of which were NaN or infinite (R336). -/
def runSummary (d : Desc) (a : RunAcc) (nonfin : Nat) : Summary :=
  let v := nth 0 a.rec' 0
  let vals (j : Nat) : List XNum := (a.stores.filter fun s => s.out == j).flatMap (lastVals d)
  let value := match d.vKind with
    | 1 => if d.vStype = 0 then fp64.encode .rne false 0 (f32 v) else if d.vStype = 1 then modInt 64 (sext 32 v) else v
    | 2 => nonfinite (vals 0) + nonfinite (vals 1)
    | 3 => fp64.encode .rne false 0 ((vals 0).foldl (fun m x => XNum.max m x.abs) .zero)
    | 4 => a.pcount
    | _ => a.first.getD (2 ^ 64 - 1)
  { value := value % 2 ^ 64, meta' := packNat [(0, 16, d.vTag), (16, 4, d.vKind), (20, 1, b2n (nonfin == 0)), (21, 4, 3)] }

/-- Names of the inputs that a RUN reads from LMEM. -/
def runNames (d : Desc) : List Nat :=
  let used := d.program.flatMap Uop.srcs
  [0, 1, 2].flatMap fun k =>
    if d.vSrc k = 1 ∧ used.contains k then
      let x := d.ten (d.vRef k)
      (windowIdx [(d.vEl k, d.vLanes), (d.vRow k, d.vRows)]).flatMap fun ix => elemAddrs x.o x.t ix
    else []

/-- The carry-out record as words. -/
def carryWrites (d : Desc) (rec' : List Nat) : List BitWrite :=
  if d.vCout = 2 then
    ((rangeFrom 0 rec'.length).zip rec').map fun p => (⟨d.vCoutAddr, 32 * p.1, 32, p.2⟩ : BitWrite)
  else []

/-- The carry-out record as cells of carry slots (R314). -/
def carryCells (d : Desc) (rec' : List Nat) : List (Nat × Nat) :=
  if d.vCout = 1 then
    ((rangeFrom 0 rec'.length).zip rec').map fun p =>
      (carryKey (nth 0 d.chs (if d.vRowsAxis then p.1 / Config.lanes else 0)) d.vSlotOut (p.1 % Config.lanes), p.2)
  else []

/-- Writes the carry slots: at once, or with the acknowledgement of what the descriptor writes to other cores (R67, R314). -/
def putCarry (q : DescRef) (d : Desc) (rec' : List Nat) (c : Chip) : Chip :=
  let cells := carryCells d rec'
  if farWrites c q.ring q.idx then
    updRing q.ring (fun r => { r with descs := r.descs.map fun e =>
      if e.idx = q.idx then { e with laterCarry := cells.foldl (fun m p => SMap.insert p.2 m p.1) e.laterCarry } else e }) c
  else { c with vec.carry := cells.foldl (fun m p => SMap.set 0 m p.1 p.2) c.vec.carry }

/-- Feeds the LREDUCE that taps a RUN: every active element of the tapped output, after OSCALE, as FP64 (R349). -/
def feedTap (d : Desc) (stores : List Stored) (c : Chip) : Chip :=
  match d.samp.find? fun p => p.1 == 2 with
  | none => c
  | some t =>
    let j := (SMap.get 0 d.samp 3).toNat
    let vs := (stores.filter fun s => s.out == j).flatMap fun s =>
      (activeVals d s).map fun p => (elemIdx d j s.r p.1, fp64.encode .rne false 0 (oscaled d j p.2))
    let n := t.2.toNat / 2 ^ 32
    let idx := t.2.toNat % 2 ^ 32
    updRing n (fun r => { r with descs := r.descs.map fun e =>
      if e.idx = idx then { e with fed := e.fed ++ vs, fedRuns := e.fedRuns + 1 } else e }) c

/-- Adds summaries to a descriptor; they enter the FIFO before it completes (R108, R109). -/
def addSums (q : DescRef) (ss : List Summary) (c : Chip) : Chip :=
  updRing q.ring (fun r => { r with descs := r.descs.map fun d =>
    if d.idx = q.idx then { d with sums := d.sums ++ ss } else d }) c

/-- Rows that left S7 on the chains of a descriptor. -/
def countRows (d : Desc) (n : Nat) (c : Chip) : Chip :=
  d.chs.foldl (fun c k => { c with vec.rows := SMap.set 0 c.vec.rows k ((SMap.get 0 c.vec.rows k + n) % 2 ^ 48) }) c

/-- A RUN's pass over its rows; bytes of tile registers that other engines have written since it started are old or new (R30). -/
def runPass (d : Desc) (c : Chip) : RunAcc × Chip :=
  let e := raceIn .tile d c
  (runRows e d, { c with free := e.free })

/-- What a RUN writes through the address map. -/
def runWrites (d : Desc) (a : RunAcc) : List BitWrite :=
  (a.stores.filter fun s => d.vSrc (3 + s.out) == 1).flatMap (storeTensor d)
    ++ (a.stores.filter fun s => d.vSrc (3 + s.out) == 2).flatMap (storeTile d) ++ carryWrites d a.rec'

/-- What a RUN leaves beside its writes: counts, its taps and its summary, and scratch registers of no defined content. -/
def runCounts (q : DescRef) (d : Desc) (a : RunAcc) (c : Chip) : Chip :=
  let ps := placed d.program
  let vals (j : Nat) : List XNum := (a.stores.filter fun s => s.out == j).flatMap fun s => (activeVals d s).map Prod.snd
  let nf := nonfinite (vals 0) + nonfinite (vals 1)
  let c := d.chs.foldl (fun c k =>
    let (x, c) := growCount (SMap.get 0 c.vec.lstalls k) c
    { c with vec.lstalls := SMap.set 0 c.vec.lstalls k x }) c
  let c := countRows d (d.vRows * (ps.map Prod.snd).getLastD 1) c
  let c := { c with vec.nonfin := (c.vec.nonfin + nf) % 2 ^ 48 }
  let c := if a.perm && !c.vec.permRange then emit 0x05 pVEC 1#64 0#64 { c with vec.permRange := true } else c
  let c := if d.vAmax then addTap q d.vSlot (vals 0) c else c
  let c := feedTap d a.stores c
  let c := if d.vKind = 0 then c else
    addSums q [runSummary d a nf] { c with vec.sums := (c.vec.sums + 1) % 2 ^ 48 }
  scrambleScratch d c

/-- The work of a RUN whose operands are readable: the pass, and once the destination bytes that it keeps in part are at hand, its
writes and all that follows from it. -/
def runWork (q : DescRef) (d : Desc) (c : Chip) : Chip :=
  let x := runPass d c
  let m := gatherBits (runWrites d x.1)
  withOld 4 vcData q d (keptBytes m) (fun d c =>
    writeOutAnd (putCarry q d x.1.rec') 4 vcData q d (keptBytes m) (overOld (oldByte c d) m) (runCounts q d x.1 c)) x.2

/-- RUN (R295): a running descriptor whose forwarded rows have all been accepted streams its rows. -/
def vecRun (q : DescRef) (c : Chip) : Chip :=
  onRunning q 3 1 (fun d c =>
    if !d.sampled then vecSample q.ring q.idx c
    else if d.vFwd.isEmpty || d.took.length == d.vRows then withBytes 4 vcData q d (runNames d) (runWork q) c else c) c

/-! ## TREDUCE (R321) -/

/-- The 32-bit word of a lane of a tile register. -/
def tileWord (c : Chip) (chain t r l : Nat) : Nat :=
  Mem.readNat c.vec.tiles (chain * 0x100000 + t * 0x10000 + r * 2048 + 4 * l) 4

/-- The words of one lane in reduction order. -/
def laneWords (c : Chip) (d : Desc) (l : Nat) : List Nat :=
  (setBits 16 d.tMask).flatMap fun t => (rangeFrom 0 32).map fun r => tileWord c d.tChain t r l

/-- The signature fold. -/
def sigFold (ws : List Nat) : Nat := ws.foldl (fun s w => rotl32 s 1 ^^^ w) 0

/-- One lane under OR, AND, XOR or SIG. -/
def laneResult (op : Nat) (ws : List Nat) : Nat :=
  match op with
  | 0 => ws.foldl (· ||| ·) 0
  | 1 => ws.foldl (· &&& ·) (2 ^ 32 - 1)
  | 2 => ws.foldl (· ^^^ ·) 0
  | _ => sigFold ws

/-- The result of AXIS = ALL. -/
def treduceAll (c : Chip) (d : Desc) : Nat :=
  let lanes := (rangeFrom 0 Config.lanes).map (laneWords c d)
  match d.tOp with
  | 3 => ((lanes.map fun ws => ws.foldl (· + ·) 0).foldl (· + ·) 0) % 2 ^ 64
  | 5 => (lanes.map fun ws => (ws.filter fun w => w == d.tRef).length).foldl (· + ·) 0
  | op => laneResult op (lanes.map (laneResult op))

/-- TREDUCE (R321): reduces the registers, writes the result and makes its summary. -/
def vecTreduce (q : DescRef) (c : Chip) : Chip :=
  onRunning q 3 2 (fun d c =>
    let e := raceIn .tile d c
    let words := if d.tRows then (rangeFrom 0 Config.lanes).map fun l => laneResult d.tOp (laneWords e d l) else []
    let v := if d.tRows then 0 else treduceAll e d
    let c := { c with free := e.free }
    let c := if d.tSum then
        addSums q [{ value := v, meta' := packNat [(0, 16, d.tTag), (16, 4, 6), (20, 1, 1), (21, 4, 3)] }]
          { c with vec.sums := (c.vec.sums + 1) % 2 ^ 48 }
      else c
    let bs := if d.tRows then words.flatMap (leBytes 4) else leBytes 8 v
    let cells := if d.tDst = 0 then [] else ((rangeFrom 0 bs.length).zip bs).map fun p => (byteAddr d.tDst p.1, p.2)
    writeOut 4 vcData q d [] cells c) c

/-! ## Registers (R325) -/

/-- VEC_CHSTATn (Table 12.14). A RUN that has not worked yet is in its first pass: over all its rows, or over its first block of
32 where it has several (R336). -/
def vecChstat (c : Chip) (n : Nat) : W64 :=
  match classDescs c 3 fun d => d.chs.contains n with
  | (r, d) :: _ =>
    let st :=
      if d.phase = .worked ∧ !d.sums.isEmpty then 3
      else if d.opc = 2 then 5
      else if d.chs.head? ≠ some n then 4
      else if !d.vFwd.isEmpty ∧ d.took.length < d.vRows then 2
      else 1
    let passes := (placed d.program).getLast?.elim 1 Prod.snd
    let left := if d.phase = .running ∧ d.opc = 1 then (if passes ≤ 1 then d.vRows else min 32 d.vRows) else 0
    pack [(0, 3, st), (3, 2, if d.opc = 1 then d.vGang else 0), (16, 15, r), (32, 32, left)]
  | [] => 0#64

/-- Reads of the VEC page. -/
def vecRead (c : Chip) (off : Nat) : W64 :=
  if off = 0x100 then pack [(0, 4, c.vec.anyMask)]
  else if off = 0x108 then pack [(0, 1, b2n c.vec.permRange)]
  else if 0x110 ≤ off ∧ off < 0x130 then vecChstat c ((off - 0x110) / 8)
  else if 0x130 ≤ off ∧ off < 0x150 then pack [(0, 48, SMap.get 0 c.vec.rows ((off - 0x130) / 8))]
  else if 0x150 ≤ off ∧ off < 0x170 then pack [(0, 48, SMap.get 0 c.vec.lstalls ((off - 0x150) / 8))]
  else if off = 0x170 then pack [(0, 48, c.vec.nonfin)]
  else if off = 0x178 then pack [(0, 48, c.vec.sums)]
  else 0#64

/-- Writes of the VEC page. -/
def vecWrite (off : Nat) (v : W64) (c : Chip) : Chip :=
  match off with
  | 0x100 => { c with vec.anyMask := fld v 0 4 }
  | 0x108 => if bitAt v 0 then { c with vec.permRange := false } else c
  | _ => c

end Sys2Proof.Machine
end

