-- ==== Sys2Proof/Machine/Rdu.lean ====
section
/-! DEFINITION. Reductions and Scale Tracking, the RDU half: the exact accumulator and its record, LREDUCE, CREDUCE piece by
piece, XREDUCE, and the registers of the RDU page (R341 to R359, R365). -/

namespace Sys2Proof.Machine

/-! ## The exact accumulator (R344 to R346) -/

/-- An exact accumulator with what its record carries. -/
structure Exact where
  acc : Int
  nan : Bool
  pinf : Bool
  ninf : Bool
  src : Nat
  count : Nat
deriving DecidableEq, Repr

def Exact.zero : Exact := ⟨0, false, false, false, 0xFFFFFFFF, 0⟩

/-- The bound of the range, 2^149. -/
def exactMax : XNum := .fin false 1 149

/-- One contribution (R344). -/
def Exact.add (e : Exact) (x : XNum) : Exact :=
  let e := { e with count := min (e.count + 1) (2 ^ 64 - 1) }
  if x.isNaN then { e with nan := true }
  else if XNum.le exactMax x then { e with pinf := true }
  else if XNum.le x exactMax.neg then { e with ninf := true }
  else { e with acc := e.acc + truncTo (-170) x }

/-- Readout (R345): the value and the finite flag. -/
def Exact.read (e : Exact) : XNum × Bool :=
  if e.nan || (e.pinf && e.ninf) then (.nan, false)
  else if e.pinf then (.inf false, false)
  else if e.ninf then (.inf true, false)
  else if 2 ^ 319 ≤ e.acc then (.inf false, false)
  else if e.acc < -2 ^ 319 then (.inf true, false)
  else (fp64.rnd ((XNum.ofInt e.acc).scale (-170)), true)

/-- The record of Table 14.3. -/
def Exact.record (e : Exact) : List Byte :=
  leBytes 48 (modInt 384 e.acc) ++ leBytes 4 (b2n e.nan + 2 * b2n e.pinf + 4 * b2n e.ninf) ++ leBytes 4 e.src
    ++ leBytes 8 e.count

/-- An accumulator from a record's bytes. -/
def Exact.ofRecord (bs : List Byte) : Exact :=
  let n (a k : Nat) : Nat := leNat ((bs.drop a).take k)
  ⟨sext 384 (n 0 48), (n 48 1).testBit 0, (n 48 1).testBit 1, (n 48 1).testBit 2, n 52 4, n 56 8⟩

/-- The combination of two records (R346). -/
def Exact.join (a b : Exact) : Exact :=
  ⟨sext 384 (modInt 384 (a.acc + b.acc)), a.nan || b.nan, a.pinf || b.pinf, a.ninf || b.ninf, min a.src b.src,
   min (a.count + b.count) (2 ^ 64 - 1)⟩

/-- The accumulator that a descriptor holds. -/
def Desc.exact (d : Desc) (src count : Nat) : Exact :=
  ⟨d.norm, d.flags.testBit 0, d.flags.testBit 1, d.flags.testBit 2, src, count⟩

/-- Puts an accumulator into a descriptor. -/
def Desc.keep (d : Desc) (e : Exact) : Desc :=
  { d with norm := e.acc, flags := b2n e.nan + 2 * b2n e.pinf + 4 * b2n e.ninf }

/-! ## LREDUCE: payload (Table 14.4) -/

def Desc.lOp (d : Desc) : Nat := bits (d.bytes 16 1) 0 4
def Desc.lSrc (d : Desc) : Nat := bits (d.bytes 16 1) 4 2
def Desc.lAxis (d : Desc) : Nat := bits (d.bytes 16 1) 6 2
def Desc.lMask (d : Desc) : Nat := bits (d.bytes 17 1) 0 4
def Desc.lSum (d : Desc) : Bool := (d.bytes 17 1).testBit 4
def Desc.lTag (d : Desc) : Nat := d.bytes 18 2
def Desc.lTld (d : Desc) : Nat := d.bytes 20 3
def Desc.lCount (d : Desc) : Nat := d.bytes 24 4
def Desc.lLanes (d : Desc) : Nat := d.bytes 28 4
def Desc.lRow (d : Desc) : Nat := d.bytes 32 4
def Desc.lEl (d : Desc) : Nat := d.bytes 36 4
def Desc.lDst (d : Desc) : Nat := d.bytes 40 3
def Desc.lRnd (d : Desc) : Nat := bits (d.bytes 43 1) 0 3
def Desc.lSat (d : Desc) : Bool := (d.bytes 43 1).testBit 3
def Desc.lDstart (d : Desc) : Nat := d.bytes 44 4
def Desc.lRec (d : Desc) : Nat := d.bytes 48 8
def Desc.lSumTag (d : Desc) : Nat := d.bytes 56 2
def Desc.lRank (d : Desc) : Nat := d.bytes 58 4

/-- Fields of an LREDUCE (R351). -/
def lreduceFields (d : Desc) : Bool :=
  let all := d.lAxis == 0
  decide (d.lOp ≤ 5 ∧ d.lSrc ≤ 1 ∧ d.lAxis ≤ 2 ∧ d.lRnd ≤ 3)
    && decide (bits (d.bytes 17 1) 5 3 = 0 ∧ d.bytes 23 1 = 0 ∧ bits (d.bytes 43 1) 4 4 = 0 ∧ d.bytes 62 2 = 0)
    && (if d.lSrc = 0 then all && decide (d.lTld = 0 ∧ d.lLanes = 0 ∧ d.lRow = 0 ∧ d.lEl = 0)
        else decide (d.lMask = 0 ∧ d.lTag = 0))
    && (if all then decide (d.lDst = 0 ∧ d.lRnd = 0 ∧ d.lDstart = 0) && !d.lSat else !d.lSum)
    && (d.lRec == 0 || (decide (d.lOp ≤ 1) && all && aligned 64 d.lRec))
    && (d.lRec != 0 || d.lRank == 0) && (d.lSum || d.lSumTag == 0) && !(d.lOp == 5 && d.lAxis == 2)

/-! ## CREDUCE: payload (Tables 14.5 and 14.6) -/

def Desc.cWide (d : Desc) : Bool := bits (d.bytes 16 1) 0 2 == 0
def Desc.cNorm (d : Desc) : Bool := (d.bytes 16 1).testBit 2
def Desc.cAmax (d : Desc) : Bool := (d.bytes 16 1).testBit 3
def Desc.cNslot (d : Desc) : Nat := d.bytes 18 2
def Desc.cWin (d : Desc) : Nat := 64 * d.bytes 20 3
def Desc.cRtab (d : Desc) : Nat := 64 * d.bytes 24 3
def Desc.cNr (d : Desc) : Nat := d.bytes 28 4
def Desc.cOwn (d : Desc) : Nat := d.bytes 32 4
def Desc.cSege (d : Desc) : Nat := d.bytes 36 4
def Desc.cLen (d : Desc) : Nat := d.bytes 40 4
def Desc.cCtr (d : Desc) : Nat := d.bytes 44 2
def Desc.cSlot (d : Desc) : Nat := d.bytes 46 2
def Desc.cBase (d : Desc) : Nat := d.bytes 48 6
def Desc.cTag (d : Desc) : Nat := d.bytes 54 2
def Desc.cDst (d : Desc) : Nat := d.bytes 64 3
def Desc.cDstart (d : Desc) : Nat := d.bytes 68 4
def Desc.cRec (d : Desc) : Nat := d.bytes 72 8
def Desc.cConv (d : Desc) : Conv :=
  ⟨bits (d.bytes 16 1) 4 3, (d.bytes 16 1).testBit 7, d.bytes 80 8, d.bytes 88 2, d.bytes 92 4, d.bytes 90 2⟩

/-- Bytes of an element of a contribution. -/
def Desc.cElem (d : Desc) : Nat := if d.cWide then 4 else 2
/-- Bytes of a window slot (R353). -/
def Desc.cSlotBytes (d : Desc) : Nat := roundUp (d.cSege * d.cElem) 64
/-- Pieces: Q. -/
def Desc.cPieces (d : Desc) : Nat := ceilDiv d.cLen d.cSege * d.cNr

/-- Fields of a CREDUCE (R356). -/
def creduceFields (d : Desc) : Bool :=
  decide (bits (d.bytes 16 1) 0 2 ≤ 1 ∧ d.cConv.rnd ≤ 4)
    && decide (1 ≤ d.cNslot ∧ d.cNslot ≤ 256 ∧ d.cNr ≤ 65536 ∧ d.cOwn < d.cNr)
    && aligned 64 d.cSege && decide (64 ≤ d.cSege ∧ d.cSege ≤ 16384)
    && decide (d.bytes 17 1 = 0 ∧ d.bytes 23 1 = 0 ∧ d.bytes 27 1 = 0 ∧ d.bytes 60 4 = 0 ∧ d.bytes 67 1 = 0)
    && decide (d.bytes 96 96 = 0) && inLmem d.cWin (d.cNslot * d.cSlotBytes) && inLmem d.cRtab (8 * d.cNr)
    && aligned 64 d.cRec && decide (d.cSlot < sctSlots) && (d.cAmax || d.cSlot == 0)
    && (d.cNorm || decide (d.cRec = 0 ∧ d.cTag = 0)) && (d.cConv.rnd == 4 || decide (d.bytes 80 16 = 0))

/-! ## XREDUCE: payload (Table 14.7) -/

def Desc.xRecs (d : Desc) : Nat := 64 * d.bytes 16 3
def Desc.xKind (d : Desc) : Nat := bits (d.bytes 19 1) 0 2
def Desc.xNrec (d : Desc) : Nat := d.bytes 20 4
def Desc.xOut (d : Desc) : Nat := d.bytes 24 8
def Desc.xTag (d : Desc) : Nat := d.bytes 32 2

/-- Fields of an XREDUCE (R358). -/
def xreduceFields (d : Desc) : Bool :=
  decide (d.xKind ≤ 2 ∧ bits (d.bytes 19 1) 2 6 = 0 ∧ d.bytes 34 30 = 0) && aligned 64 d.xOut
    && (d.xKind != 0 || d.xTag == 0)

/-! ## The class -/

/-- The tensors of an RDU descriptor. -/
def rduTens (d : Desc) : List TenRef :=
  if d.opc = 1 then
    (if d.lSrc = 1 then [srcRef d.lTld] else []) ++ (if d.lAxis = 0 then [] else [dstRef d.lDst])
  else if d.opc = 2 then [dstRef d.cDst]
  else []

/-- Source types of LREDUCE (R348). -/
def Ty.lreduceIn (t : Ty) : Bool :=
  t == .fp64 || t == .fp32 || t == .bf16 || t == .fp16 || t == .e4m3 || t == .e5m2 || t == .int32

/-- A destination: rank 1, LINEAR, in this core's LMEM. -/
def rduDst (c : Chip) (x : Ten) : Bool := x.localHere c && decide (x.t.rank = 1 ∧ x.t.tiling = 0)

def rduShape (c : Chip) (d : Desc) : Bool :=
  if d.opc = 1 then
    let s := d.ten d.lTld
    let y := d.ten d.lDst
    (if d.lSrc = 0 then
        (rangeFrom 0 4).all fun n => !d.lMask.testBit n || (tapEn c n && tapTag c n == d.lTag)
      else s.localHere c && decide (s.t.rank = 2 ∧ (s.t.tiling = 0 ∨ s.t.tiling = 3)) && s.t.ty.lreduceIn)
      && (d.lAxis == 0 ||
          (rduDst c y && (if d.lOp = 5 then y.t.ty == .int32 || y.t.ty == .uint32
            else if s.t.ty = .int32 then y.t.ty == .int32
            else y.t.ty == .fp64 || y.t.ty == .fp32 || y.t.ty == .bf16)))
  else if d.opc = 2 then rduDst c (d.ten d.cDst) && ((d.ten d.cDst).t.ty == .fp32 || (d.ten d.cDst).t.ty == .bf16)
  else true

/-- A record address of this core. -/
def recSpan (c : Chip) (a : Nat) : List Span := if a ≠ 0 ∧ isSelf c a then [⟨offOf a, 64, true⟩] else []

def rduRanges (c : Chip) (d : Desc) : List Span :=
  if d.opc = 1 then recSpan c d.lRec
  else if d.opc = 2 then
    [⟨d.cWin, d.cNslot * d.cSlotBytes, false⟩, ⟨d.cRtab, 8 * d.cNr, false⟩] ++ recSpan c d.cRec
  else (if inLmem d.xRecs (64 * d.xNrec) then [⟨d.xRecs, 64 * d.xNrec, false⟩] else []) ++ recSpan c d.xOut

/-- Destination elements of an LREDUCE. -/
def Desc.lOuts (d : Desc) : Nat := if d.lAxis = 0 then 0 else if d.lAxis = 1 then d.lCount else d.lLanes

def rduWindows (_ : Chip) (d : Desc) : Bool :=
  if d.opc = 1 then
    let s := (d.ten d.lTld).t
    (d.lSrc == 0 || decide (d.lRow + d.lCount ≤ s.dim 1 ∧ d.lEl + d.lLanes ≤ s.dim 0))
      && (d.lAxis == 0 || decide (d.lDstart + d.lOuts ≤ (d.ten d.lDst).t.dim 0))
      && (d.lAxis != 2 || decide (d.lLanes ≤ 2048))
  else if d.opc = 2 then decide (d.cDstart + d.cLen ≤ (d.ten d.cDst).t.dim 0)
  else inLmem d.xRecs (64 * d.xNrec)

/-- A plain LMEM range as an interval on resolved addresses. -/
def rangeIv (c : Chip) (m : List (Nat × Nat × Nat)) (off n : Nat) : Nat × Nat × Nat :=
  let a := offOf (mapAddr c m (selfLcn * 2 ^ 44 + off))
  (selfLcn, a, a + n - 1)

/-- Step 8: COPY_OVERLAP (R351, R356). -/
def rduOwn (c : Chip) (d : Desc) : Option Cause :=
  if d.opc = 1 then
    if d.lAxis = 0 then none
    else
      let xs := partIntervals c d.rmap (d.ten d.lTld) (windowIdx [(d.lEl, d.lLanes), (d.lRow, d.lCount)])
      let ys := partIntervals c d.wmap (d.ten d.lDst) (windowIdx [(d.lDstart, d.lOuts)])
      if overlapOf xs ys ≠ 0 then some .copyOverlap else none
  else if d.opc = 2 then
    let xs := [rangeIv c d.rmap d.cWin (d.cNslot * d.cSlotBytes), rangeIv c d.rmap d.cRtab (8 * d.cNr)]
    let ys := partIntervals c d.wmap (d.ten d.cDst) (windowIdx [(d.cDstart, d.cLen)])
    if overlapOf xs ys ≠ 0 then some .copyOverlap else none
  else none

/-- The unit on which a started descriptor runs: LREDUCE on the lane unit, CREDUCE and XREDUCE on the collective unit, a NOP on the
one that it found free (R341, R342). -/
def Desc.onLane (d : Desc) : Bool := if d.opc = 0 then d.flags == 1 else d.opc == 1

/-- A unit has no descriptor. -/
def rduUnitFree (c : Chip) (lane : Bool) : Bool := (classDescs c 4 fun e => e.started && e.onLane == lane).isEmpty

/-- A descriptor starts on its unit once the unit's previous descriptor has completed, a NOP on whichever is free first (R341,
R342). -/
def rduCanStart (c : Chip) (_ : Nat) (d : Desc) : Bool :=
  if d.opc = 0 then rduUnitFree c true || rduUnitFree c false else rduUnitFree c d.onLane

/-- A started NOP takes the lane unit if that is free, else the collective unit. -/
def rduIdleKeep (c : Chip) (d : Desc) : Desc := if d.opc = 0 ∧ rduUnitFree c true then { d with flags := 1 } else d

/-- The names of bytes of this core. -/
def hereNames (off n : Nat) : List Nat := (rangeFrom off n).map fun o => selfLcn * 2 ^ 44 + o

/-- Key under which a CREDUCE keeps the translation of slot counter k, and entry r of its rank table. -/
def slotKey (k : Nat) : Nat := 2000 + k
def rankKey (r : Nat) : Nat := 10000 + r

/-- Translates the slot counters (R357); false when one cannot be. -/
def slotCounters (n : Nat) (d : Desc) : List Nat → Chip → Option (SMap Int) × Chip
  | [], c => (some [], c)
  | k :: ks, c =>
    match translate (blameDesc n d.idx) (ringCtx n) (d.cCtr + k) c with
    | (none, c) => (none, c)
    | (some p, c) =>
      match slotCounters n d ks c with
      | (some m, c) => (some ((slotKey k, (p : Int)) :: m), c)
      | (none, c) => (none, c)

/-- What a starting descriptor reads: CREDUCE its rank table (R357), XREDUCE its records (R358). -/
def rduSample (n idx : Nat) (c : Chip) : Chip :=
  let names (d : Desc) : List Nat :=
    if d.opc = 2 then hereNames d.cRtab (8 * d.cNr) else if d.opc = 3 then hereNames d.xRecs (64 * d.xNrec) else []
  sampleAt 4 vcData n idx names (fun d c =>
    let bs := (names d).map (rdByte c d)
    if d.opc = 2 then
      let tab := ((rangeFrom 0 d.cNr).zip (leWords d.cNr bs)).map fun p => (rankKey p.1, ((p.2.toNat : Nat) : Int))
      putDesc n { d with samp := d.samp ++ tab } c
    else if d.opc = 3 then
      let e := ((rangeFrom 0 d.xNrec).map fun i => Exact.ofRecord ((bs.drop (64 * i)).take 64)).foldl Exact.join .zero
      putDesc n { d.keep e with samp := d.samp ++ [(1, (e.src : Int)), (2, (e.count : Int))] } c
    else putDesc n d c) c

/-- The start: CREDUCE translates its counters (R357), and what the start reads is read. -/
def rduOnStart (n : Nat) (d : Desc) (c : Chip) : Chip :=
  if d.opc = 2 then
    match slotCounters n d (rangeFrom 0 d.cNslot) c with
    | (none, c) => abandonDesc n d.idx .ctrMisuse c
    | (some m, c) => rduSample n d.idx (putDesc n { d with samp := m } c)
  else rduSample n d.idx c

/-- The RDU class. -/
def rduClass : EngineClass :=
  { opcOk := fun d => decide (1 ≤ d.opc ∧ d.opc ≤ 3) && decide (d.chain = decide (d.opc = 2)) && decide (d.engf = 0)
    present := fun _ d => d.opc != 1 || (rangeFrom 0 4).all fun n => !d.lMask.testBit n || decide (n < Config.chains)
    noop := fun d =>
      if d.opc = 1 then decide (d.lCount = 0) || (d.lSrc == 1 && d.lLanes == 0)
      else if d.opc = 2 then decide (d.cNr = 0 ∨ d.cLen = 0)
      else decide (d.xNrec = 0)
    fields := fun d => if d.opc = 1 then lreduceFields d else if d.opc = 2 then creduceFields d else xreduceFields d
    tens := rduTens
    raws := fun _ _ => []
    shape := rduShape
    ranges := rduRanges
    windows := rduWindows
    own := rduOwn
    wvsel := fun _ => 0
    units := fun _ _ => [10]
    canStart := rduCanStart
    onStart := rduOnStart
    idleStart := rduCanStart
    idleKeep := rduIdleKeep
    unmapped := fun _ d =>
      if d.opc = 1 then pastEnd d.lRec 64 else if d.opc = 2 then pastEnd d.cRec 64 else pastEnd d.xOut 64
    stale := fun c d => d.opc == 2 && d.bytes 56 4 != c.rdu.epoch }

/-! ## Working -/

/-- A summary of RDU (R343). -/
def rduSummary (tag kind : Nat) (fin : Bool) (value : Nat) : Summary :=
  { value := value % 2 ^ 64, meta' := packNat [(0, 16, tag), (16, 4, kind), (20, 1, b2n fin), (21, 4, 4)] }

/-- The FP64 code of a value that FP64 holds. -/
def f64Code (x : XNum) : Nat := fp64.encode .rne false 0 x

/-- The smallest index among the largest values, a NaN above every number (R350). -/
def argmaxOf : List (Nat × XNum) → Option (Nat × XNum)
  | [] => none
  | x :: xs =>
    match argmaxOf xs with
    | none => some x
    | some y =>
      let above (a b : XNum) : Bool := if b.isNaN then false else a.isNaN || (XNum.max a b == a && a != b)
      some (if above x.2 y.2 then x else if above y.2 x.2 then y else if x.1 ≤ y.1 then x else y)

/-- One accumulator of LREDUCE over its values with their indices: the result and the finite flag, and the accumulator: the exact sum
of SUM and SUMSQ, else the result as a contribution. MAX, MIN, AMAX and ARGMAX of nothing have no stated result: `none`. -/
def lreduceOf (op : Nat) (xs : List (Nat × XNum)) : Option XNum × Bool × Exact :=
  let vs := xs.map Prod.snd
  let fin := vs.all XNum.isFinite
  if op ≤ 1 then
    let e := vs.foldl (fun e x => e.add (if op = 1 then x.mul x else x)) Exact.zero
    (some e.read.1, e.read.2, e)
  else
    let v := match vs with
      | [] => none
      | y :: ys =>
        if op = 2 then some (ys.foldl XNum.max y)
        else if op = 3 then some (ys.foldl XNum.min y)
        else if op = 4 then some (ys.foldl (fun m x => XNum.max m x.abs) y.abs)
        else (argmaxOf xs).map fun p => XNum.ofInt p.1
    (v, fin, match v with
      | some x => { Exact.zero.add x with count := min vs.length (2 ^ 64 - 1) }
      | none => .zero)

/-- Where the exact accumulators of an LREDUCE stay once its values are in: sum, flags and count of accumulator g. -/
def accKey (g : Nat) : Nat := 100000 + 3 * g

/-- Keeps the accumulators in the descriptor (RDU space 0 of Table 20.5). -/
def keepAccs (q : DescRef) (es : List Exact) (c : Chip) : Chip :=
  let put (m : SMap Int) (p : Nat × Exact) : SMap Int :=
    let e := p.2
    SMap.set 0 (SMap.set 0 (SMap.set 0 m (accKey p.1) e.acc) (accKey p.1 + 1) (b2n e.nan + 2 * b2n e.pinf + 4 * b2n e.ninf : Nat))
      (accKey p.1 + 2) e.count
  updRing q.ring (fun r => { r with descs := r.descs.map fun d =>
    if d.idx = q.idx then { d with samp := ((rangeFrom 0 es.length).zip es).foldl put d.samp } else d }) c

/-- An accumulator as kept; it has no rank before it is written as a record. -/
def keptAcc (d : Desc) (g : Nat) : Exact :=
  let v (k : Nat) : Int := SMap.get 0 d.samp (accKey g + k)
  let fl := (v 1).toNat
  ⟨v 0, fl.testBit 0, fl.testBit 1, fl.testBit 2, if fl = 0 then 0xFFFFFFFF else d.lRank, (v 2).toNat⟩

/-- The KIND of a summary of LREDUCE (Table 14.2). -/
def lKind (op : Nat) : Nat := if op = 5 then 0xF else 8 + op

/-- The end of an LREDUCE with AXIS ALL: its record and its summary. -/
def lreduceAll (q : DescRef) (d : Desc) (xs : List (Nat × XNum)) (c : Chip) : Chip :=
  let (v, fin, e) := lreduceOf d.lOp xs
  let (value, c) : Nat × Chip := match v with
    | some v => ((if d.lOp = 5 then (match v with
        | .fin _ m e => m <<< e.toNat
        | _ => 0) else f64Code v), c)
    | none => takeFree c
  let c := if d.lSum then addSums q [rduSummary d.lSumTag (lKind d.lOp) fin value] c else c
  let c := keepAccs q [e] c
  let e := if fin then e else { e with src := d.lRank }
  let bs := if d.lRec = 0 then [] else e.record
  writeOut 4 vcData q d [] (((rangeFrom 0 bs.length).zip bs).map fun p => (byteAddr d.lRec p.1, p.2)) c

/-- Elements of the window: row, position and value. -/
def lreduceElems (c : Chip) (d : Desc) : List (Nat × Nat × XNum) :=
  let s := d.ten d.lTld
  (rangeFrom 0 d.lCount).flatMap fun r => (rangeFrom 0 d.lLanes).map fun e =>
    (r, e, readElem (rdByte c d) s.o s.t [d.lEl + e, d.lRow + r])

/-- The end of an LREDUCE with AXIS ROWS or LANES. -/
def lreduceAxis (q : DescRef) (d : Desc) (xs : List (Nat × Nat × XNum)) (c : Chip) : Chip :=
  let y := d.ten d.lDst
  let rs := (rangeFrom 0 d.lOuts).map fun g =>
    lreduceOf d.lOp ((xs.filter fun x => (if d.lAxis = 1 then x.1 else x.2.1) == g).map fun x => (x.1 * d.lLanes + x.2.1, x.2.2))
  let ws := ((rangeFrom d.lDstart rs.length).zip rs).map fun p =>
    elemWrite y.o y.t [p.1] (y.t.ty.encode ((Round.ofCode d.lRnd).getD .rne) d.lSat 0 (p.2.1.getD .zero))
  writeBits 4 vcData q d ws (keepAccs q (rs.map fun r => r.2.2) c)

/-- LREDUCE (R347 to R350): an LMEM window, or what NRUN tapped RUNs have fed. -/
def rduLreduce (q : DescRef) (c : Chip) : Chip :=
  onRunning q 4 1 (fun d c =>
    if d.lSrc = 0 then
      if d.fedRuns = d.lCount then lreduceAll q d (d.fed.map fun p => (p.1, fp64.decode p.2)) c else c
    else
      let s := d.ten d.lTld
      let names := (windowIdx [(d.lEl, d.lLanes), (d.lRow, d.lCount)]).flatMap fun ix => elemAddrs s.o s.t ix
      withBytes 4 vcData q d names (fun d c =>
        let xs := lreduceElems c d
        if d.lAxis = 0 then lreduceAll q d (xs.map fun x => (x.1 * d.lLanes + x.2.1, x.2.2)) c
        else lreduceAxis q d xs c) c) c

/-! ## CREDUCE (R353 to R357) -/

/-- The physical counter of a slot. -/
def Desc.slotCtr (d : Desc) (k : Nat) : Nat := (SMap.get 0 d.samp (slotKey k)).toNat

/-- The next piece has arrived (R353 step 2). -/
def pieceHere (c : Chip) (d : Desc) : Bool :=
  reached c (d.slotCtr (d.prog % d.cNslot)) (d.cBase + d.prog / d.cNslot + 1)

/-- The rank-table entry whose FREE counter is signalled after piece q; `none` when no piece follows in its slot. -/
def freeEntry (d : Desc) (q : Nat) : Option Nat :=
  if q + d.cNslot < d.cPieces then some (SMap.get 0 d.samp (rankKey ((q + d.cNslot) % d.cNr))).toNat else none

/-- The signal of step 4 can be raised (R174). -/
def freeRoom (c : Chip) (d : Desc) : Bool :=
  match freeEntry d d.prog with
  | some e => sigRoom c (bits e 0 20)
  | none => true

/-- The values of a piece: elements of the contribution as FP32 numbers. -/
def pieceVals (d : Desc) (bs : List Byte) : List XNum :=
  let n := bs.length / d.cElem
  (rangeFrom 0 n).map fun i =>
    let x := leNat ((bs.drop (d.cElem * i)).take d.cElem)
    if d.cWide then f32 x else bf16.decode x

/-- The running values of the segment after a piece (R353 step 3). -/
def addPiece (d : Desc) (r : Nat) (vs : List XNum) : List Nat :=
  if r = 0 then vs.map f32Code
  else (d.part.zip vs).map fun p => fp32.encode .rne false 0 ((f32 p.1).add p.2)

/-- A complete segment: norm, amax, the flag of a non-finite reduced value (key 3) and the writes of its elements. -/
def endSegment (d : Desc) (j : Nat) : Desc × List BitWrite :=
  let vs := d.part.map f32
  let e := if d.cNorm then vs.foldl (fun e x => e.add (x.mul x)) (d.exact 0 0) else d.exact 0 0
  let (a, _) := tapOf vs
  let bad := !(vs.all XNum.isFinite)
  let y := d.ten d.cDst
  let v := d.cConv
  let ws := ((rangeFrom (d.cDstart + j * d.cSege) vs.length).zip vs).map fun p =>
    elemWrite y.o y.t [p.1] (y.t.ty.encode v.mode v.sat (v.draw y.t [p.1]) p.2)
  ({ d.keep e with peak := max d.peak a, samp := if bad then SMap.insert 1 d.samp 3 else d.samp }, ws)

/-- The end of a CREDUCE: slot counters equalised (R355), summary, tap and record (R354). -/
def endCreduce (q : DescRef) (d : Desc) (c : Chip) : Chip :=
  let top := ceilDiv d.cPieces d.cNslot
  let used (k : Nat) : Nat := if k < d.cPieces then (d.cPieces - 1 - k) / d.cNslot + 1 else 0
  let c := (rangeFrom 0 d.cNslot).foldl (fun c k => if used k < top then addCounter (d.slotCtr k) 1 c else c) c
  let bad := SMap.get 0 d.samp 3 == 1
  let src := d.badRank.getD (if bad then d.cOwn else 0xFFFFFFFF)
  let e := d.exact src d.cLen
  let (v, fin) := e.read
  let c := if d.cNorm then
      addSums q [rduSummary d.cTag 0xD (fin && d.badRank.isNone && !bad) (f64Code v)] c else c
  let c := if d.cAmax then updRing q.ring (fun r => { r with descs := r.descs.map fun x =>
      if x.idx = q.idx then { x with taps := x.taps ++ [(d.cSlot, d.peak, !bad)] } else x }) c else c
  let bs := if d.cRec = 0 then [] else e.record
  writeOut 4 vcData q d [] (((rangeFrom 0 bs.length).zip bs).map fun p => (byteAddr d.cRec p.1, p.2)) c

/-- The FREE signal of a consumed piece (R353 step 4). -/
def signalFree (d : Desc) (c : Chip) : Chip :=
  match freeEntry d d.prog with
  | some e => raiseSignal (bits e 0 20) (bits e 20 12) (bits e 32 16) 1 c
  | none => c

/-- The writes of a segment; where the record goes to another core they wait for its acknowledgement (R67). -/
def segmentWrite (q : DescRef) (d : Desc) (kept : List Nat) (cells : List (Nat × Byte)) (c : Chip) : Got × Chip :=
  if d.cRec = 0 ∨ isSelf c d.cRec then engineWrite 4 vcData q.ring q.idx kept cells c
  else (.ready, storeLater 4 q.ring q.idx kept cells c)

/-- One piece is consumed if it has arrived and its FREE signal can be raised; the last ends the descriptor. -/
def consumePiece (q : DescRef) (c : Chip) : Chip :=
  onRunning q 4 2 (fun d c =>
    if !d.sampled then rduSample q.ring q.idx c
    else if !pieceHere c d || !freeRoom c d then c
    else
      let c := orderAfterWait q.ring q.idx c
      let k := d.prog % d.cNslot
      let j := d.prog / d.cNr
      let r := d.prog % d.cNr
      let n := min d.cSege (d.cLen - j * d.cSege)
      let names := hereNames (d.cWin + k * d.cSlotBytes) (n * d.cElem)
      withBytes 4 vcData q d names (fun d c =>
        let vs := pieceVals d (names.map (rdByte c d))
        let bad := !(vs.all XNum.isFinite)
        let d1 := { d with
          rbuf := []
          part := addPiece d r vs
          badRank := if bad then some (match d.badRank with
            | some b => min b r
            | none => r) else d.badRank }
        let (d2, ws) := if r + 1 = d.cNr then endSegment d1 j else (d1, [])
        let c := putDesc q.ring { d2 with prog := d.prog + 1 } { c with rdu.pieces := (c.rdu.pieces + 1) % 2 ^ 48 }
        let c := signalFree d c
        let m := gatherBits ws
        let kept := (keptBytes m).map (mapAddr c d.wmap)
        let cells := (overOld (oldByte c d) m).map fun p => (mapAddr c d.wmap p.1, p.2)
        andThen q (segmentWrite q d kept cells c) fun c =>
          match descOf c q with
          | some d => if d.prog = d.cPieces then endCreduce q d c else c
          | none => c) c) c

/-- Consumes the pieces that have arrived, in order. -/
def consumePieces (q : DescRef) : Nat → Chip → Chip
  | 0, c => c
  | fuel + 1, c => consumePieces q fuel (consumePiece q c)

/-- CREDUCE (R353): a running descriptor consumes every piece that has arrived. -/
def rduCreduce (q : DescRef) (c : Chip) : Chip :=
  match descOf c q with
  | some d => consumePieces q (d.cPieces - d.prog) c
  | none => c

/-- CREDUCE_PIECE (R353): a running descriptor consumes its next piece. -/
def rduCreducePiece (q : DescRef) (c : Chip) : Chip := consumePiece q c

/-! ## XREDUCE (R358, R359) -/

/-- What a non-finite GNORM readout leaves (R359, R483). -/
def noteNonfinite (src : Nat) (c : Chip) : Chip :=
  let c := if c.rdu.nonfinStep then c else emit 0x05 pRDU 2#64 (BitVec.ofNat 64 src) c
  { c with rdu.nonfinStep := true, rdu.nonfinSrc := src, rdu.nonfinV := true }

/-- XREDUCE (R358): summary, flag and combined record of the records read at the start. -/
def rduXreduce (q : DescRef) (c : Chip) : Chip :=
  onRunning q 4 3 (fun d c =>
    if !d.sampled then rduSample q.ring q.idx c
    else
    let e := d.exact (SMap.get 0 d.samp 1).toNat (SMap.get 0 d.samp 2).toNat
    let (v, fin) := e.read
    let c := if d.xKind = 0 then c
      else addSums q [rduSummary d.xTag (if d.xKind = 1 then 0xE else 8) fin (f64Code v)] c
    let c := if d.xKind = 1 ∧ !fin then noteNonfinite e.src c else c
    let bs := if d.xOut = 0 then [] else e.record
    writeOut 4 vcData q d [] (((rangeFrom 0 bs.length).zip bs).map fun p => (byteAddr d.xOut p.1, p.2)) c) c

/-! ## Registers (Tables 14.9 to 14.12) -/

/-- A tapped RUN waits on a chain for its LREDUCE. -/
def tapWaits (c : Chip) (n : Nat) : Bool :=
  !(classDescs c 3 fun d => decide (d.phase = .checked ∧ d.opc = 1) &&
      (let chs := chooseChains c d
       tappedOn c d chs == some n && (tapTaker c n d.vTag).isNone)).isEmpty

/-- State of a unit for RDU_STAT. -/
def unitState (c : Chip) (lane : Bool) : Nat :=
  match classDescs c 4 fun e => e.started && e.onLane == lane with
  | (_, d) :: _ =>
    if d.phase = .worked ∧ !d.sums.isEmpty then (if lane then 2 else 3)
    else if d.opc = 2 ∧ d.phase = .running ∧ !pieceHere c d then 2
    else 1
  | [] => 0

/-- Reads of the RDU page. -/
def rduRead (c : Chip) (off : Nat) : W64 :=
  if off = 0x100 then pack [(0, 32, c.rdu.epoch)]
  else if 0x108 ≤ off ∧ off < 0x128 then pack [(0, 18, SMap.get 0 c.rdu.taps ((off - 0x108) / 8))]
  else if off = 0x128 then
    pack ([(0, 2, unitState c true), (2, 2, unitState c false), (4, 1, b2n c.rdu.nonfinStep)]
      ++ (rangeFrom 0 4).map fun n => (8 + n, 1, b2n (tapWaits c n)))
  else if off = 0x130 then pack [(0, 32, c.rdu.nonfinSrc), (63, 1, b2n c.rdu.nonfinV)]
  else if off = 0x138 then pack [(0, 48, c.rdu.pieces)]
  else if off = 0x140 then pack [(0, 48, c.rdu.pwait)]
  else 0#64

/-- Writes of the RDU page. -/
def rduWrite (off : Nat) (v : W64) (c : Chip) : Chip :=
  if off = 0x100 then { c with rdu.epoch := fld v 0 32 }
  else if 0x108 ≤ off ∧ off < 0x128 then { c with rdu.taps := SMap.set 0 c.rdu.taps ((off - 0x108) / 8) (fld v 0 18) }
  else if off = 0x128 then (if bitAt v 4 then { c with rdu.nonfinStep := false } else c)
  else if off = 0x130 then (if bitAt v 63 then { c with rdu.nonfinV := false } else c)
  else c

end Sys2Proof.Machine
end

