-- ==== Sys2Proof/Machine/Issue.lean ====
section
/-! DEFINITION. The descriptors of every class between their rings and their engines: arbitration and issue, retried starts,
completion, the rows that every class shares, and quiescing (R22, R138 to R147, R464, R510, R511). -/

namespace Sys2Proof.Machine

/-! ## Classes (Table 5.3) -/

/-- The checks and the start of an engine class; a class that no engine has executes nothing. -/
def classTable (cls : Nat) : EngineClass :=
  match cls with
  | 0 => dmaClass
  | 1 => mxaClass
  | 2 => mvpClass
  | 3 => vecClass
  | 4 => rduClass
  | 5 => tlkClass
  | 6 => snapClass
  | 7 => wvmClass
  | 8 => xpbClass
  | _ => seqClass

/-- The requestor class in which an engine class reads structures at issue (Table 7.3). -/
def classReads (cls : Nat) : Nat :=
  match cls with
  | 1 => 0
  | 2 => 3
  | 3 => 4
  | 4 => 4
  | 15 => 2
  | _ => 5

/-! ## Starts that waited -/

/-- Tries again to start a descriptor whose issue checks have passed. -/
def retryDesc (n idx : Nat) (c : Chip) : Chip :=
  match (ringOf c n).find idx with
  | some d => if d.phase = .checked then tryStart (classTable (ringOf c n).cls) (ringOf c n).cls n d c else c
  | none => c

/-- Rings in the order in which an engine class takes them: PRIO rings first, each kind in ascending number from the one after the
ring that the class last took (R143). The ring last taken is kept once for both kinds. DESIGN CHOICE (log 85). -/
def takeOrder (c : Chip) (cls : Nat) (p : Nat → Ring → Bool) : List Nat :=
  let rs := c.ring.rings.filter fun kr => kr.2.cls == cls && p kr.1 kr.2
  let last := SMap.get 0 c.ring.lastTaken cls
  let round (xs : List (Nat × Ring)) : List Nat :=
    let ns := xs.map Prod.fst
    (ns.filter fun n => decide (last ≤ n)) ++ ns.filter fun n => decide (n < last)
  round (rs.filter fun kr => kr.2.prio) ++ round (rs.filter fun kr => !kr.2.prio)

/-- A ring has a descriptor whose start waits. -/
def Ring.waitsStart (r : Ring) : Bool := r.descs.any fun d => decide (d.phase = .checked)

/-- Tries again every descriptor that waits for its start, class by class, each in the order of R143. -/
def retryStarts (c : Chip) : Chip :=
  ((rangeFrom 0 16).flatMap fun cls => takeOrder c cls fun _ r => r.waitsStart).foldl (fun c n =>
    ((ringOf c n).descs.filter fun d => decide (d.phase = .checked)).foldl (fun c d => retryDesc n d.idx c) c) c

/-- A descriptor that waits would start now. -/
def wouldStart (c : Chip) (n : Nat) (d : Desc) : Bool :=
  ((ringOf (retryDesc n d.idx c) n).find d.idx).all fun e => decide (e.phase ≠ .checked)

/-- The ring whose waiting start comes first in its class: the first in the order of R143 that could start now. -/
def startTaken (c : Chip) (cls : Nat) : Option Nat :=
  (takeOrder c cls fun _ r => r.waitsStart).find? fun n =>
    (ringOf c n).descs.any fun d => decide (d.phase = .checked) && wouldStart c n d

/-- A ring's waiting start may be tried now: none of its class comes before it. -/
def inTurn (c : Chip) (cls n : Nat) : Bool := (startTaken c cls).all fun m => m == n

/-! ## Issue (R139 step 3, R140, R143) -/

/-- The descriptor of a ring that is ready to issue: step 2 holds for the first one that has not issued, no earlier one
still waits for its start, and WVM takes a ring's descriptors one after another (R382). -/
def readyToIssue (c : Chip) (n : Nat) : Option Desc :=
  let r := ringOf c n
  if !r.en || r.halted || (r.descs.any fun d => decide (d.phase = .checked)) then none
  else r.nextIssue.filter fun d => decide (d.phase = .waiting) && step2Holds c r d && wvmOrder r r.cls d

/-- The ring that an engine class takes: PRIO rings first, round robin after the one it last took (R143). -/
def ringTaken (c : Chip) (cls : Nat) : Option Nat := (takeOrder c cls fun n _ => (readyToIssue c n).isSome).head?

/-- The start that a ring waits for is tried, in its turn among those of its class (R143). -/
def startInTurn (n : Nat) (c : Chip) : Chip :=
  match (ringOf c n).descs.find? fun d => decide (d.phase = .checked) with
  | some d => if inTurn c (ringOf c n).cls n then retryDesc n d.idx c else c
  | none => c

/-- DESCRIPTOR_ISSUE: a start that waits is tried again; otherwise the ring's next descriptor issues if its engine takes that ring,
unless the page has stopped starting descriptors, and starts if no other that waits comes before it. -/
def descriptorIssue (n : Nat) (c : Chip) : Chip :=
  let r := ringOf c n
  if r.waitsStart then startInTurn n c
  else
    match readyToIssue c n with
    | none => c
    | some d =>
      if ringTaken c r.cls ≠ some n ∨ pageStopped c (classPage r.cls) then c
      else
        startInTurn n (issueDesc (classTable r.cls) (classReads r.cls) r.cls n d
          { c with ring.lastTaken := SMap.set 0 c.ring.lastTaken r.cls (n + 1) })

/-- MXA_START, MVP_START, VEC_START, TAPPED_RUN_START and PIN_WAIT_START: a checked descriptor of the class tries again to start, in its turn (R236,
R287, R324, R349, R374). -/
def startRow (cls : Nat) (q : DescRef) (c : Chip) : Chip :=
  if (ringOf c q.ring).cls = cls ∧ inTurn c cls q.ring = true then retryDesc q.ring q.idx c else c

/-- BUFFER_WAIT_START (R26): a checked DMA or XPB descriptor tries again to start; a running transposing copy takes its second
buffer. -/
def bufferWait (q : DescRef) (c : Chip) : Chip :=
  let k := (ringOf c q.ring).cls
  if k = 0 ∨ k = 8 then dmaSecondBuf (startRow k q c) else c

/-- NOP: a started descriptor of opcode 0x00 has no work (R138). -/
def descNop (q : DescRef) (c : Chip) : Chip :=
  match descOf c q with
  | some d => if d.opc = 0 then finishWork q c else c
  | none => c

/-! ## Completion (R139 step 4) -/

/-- A descriptor whose work is done can complete: every write is acknowledged, every summary has entered its FIFO and every
row that it forwards has been accepted. -/
def canComplete (c : Chip) (n : Nat) (d : Desc) : Bool :=
  decide (d.phase = .worked) && reqsOf c (.desc n d.idx) == 0 && d.sums.isEmpty
    && !(c.vec.fwd.any fun w => w.ring == n && w.idx == d.idx) && !d.owes

/-- The taps of a descriptor report (R361). -/
def reportTaps (d : Desc) (c : Chip) : Chip := d.taps.foldl (fun c t => reportTap t.1 t.2.1 t.2.2 d.gen c) c

/-- DESCRIPTOR_COMPLETE. The hold of a COMMIT or SKIP ends with it (R379). -/
def descriptorComplete (q : DescRef) (c : Chip) : Chip :=
  match descOf c q with
  | none => c
  | some d =>
    if canComplete c q.ring d then
      let c := completeDesc q.ring { d with taps := [] } (reportTaps d c)
      if c.wvm.hold = some (q.ring, q.idx) then { c with wvm.hold := none } else c
    else c

/-- The taps that can report: ring, index and tap. -/
def tapsDue (c : Chip) : List (Nat × Nat × (Nat × Nat × Bool) × Nat) :=
  c.ring.rings.flatMap fun kr => (kr.2.descs.filter (canComplete c kr.1)).flatMap fun d =>
    d.taps.map fun t => (kr.1, d.idx, t, d.gen)

/-- SCT_TAP: one amax tap of a descriptor that completes reports. -/
def sctTap (k : Nat) (c : Chip) : Chip :=
  match (tapsDue c)[k]? with
  | none => c
  | some (n, i, t, g) =>
    let c := reportTap t.1 t.2.1 t.2.2 g c
    updRing n (fun r => { r with descs := r.descs.map fun d => if d.idx = i then { d with taps := d.taps.erase t } else d }) c

/-! ## The drogue and the engines -/

/-- RAMP_DONE: the unit runs, and what waited for it starts. -/
def rampDone (c : Chip) : Chip := retryStarts (endRamp c)

/-- The drogue units of a page (R510, R512); FEED and DRN follow the arrays. -/
def pageUnits (p : Nat) : List Nat :=
  if p = pMXA ∨ p = pFEED ∨ p = pDRN then [1, 2, 3, 4]
  else if p = pVEC then [5, 6, 7, 8]
  else if p = pMVP then [9]
  else if p = pRDU then [10]
  else if p = pDMA ∨ p = pXPB ∨ p = pWVM ∨ p = pTLK ∨ p = pSNAP then [11]
  else []

/-- EN = 0 keeps a unit gated: that of its page, or of all five pages of MOVE once they are quiesced (R510). -/
def unitKept (c : Chip) (u : Nat) : Bool :=
  let off (p : Nat) : Bool := !(pageOf c p).en
  match requesterOf u with
  | 1 => off pMXA
  | 2 => off pVEC
  | 3 => off pMVP
  | 4 => off pRDU
  | 5 => [pDMA, pXPB, pWVM, pTLK, pSNAP].all fun p => off p && quiesced c p
  | _ => false

/-- A descriptor that can start of a class whose page has EN = 1 waits for a unit. -/
def unitWanted (c : Chip) (u : Nat) : Bool :=
  c.ring.rings.any fun kr =>
    (pageOf c (classPage kr.2.cls)).en && kr.2.descs.any fun d =>
      decide (d.phase = .checked) && (classTable kr.2.cls).canStart c kr.1 d && ((classTable kr.2.cls).units c d).contains u

/-- EN = 0 of a page of MOVE: what was asked for its descriptors is asked no more unless another page's descriptor waits for it
(R510). -/
def moveDropped (c : Chip) : Bool := ([pDMA, pXPB, pWVM, pTLK, pSNAP].any fun p => !(pageOf c p).en) && !unitWanted c 11

/-- Drops the requests for the start of a unit; the other half of a running array's step is no start (R466). -/
def dropStarts (u : Nat) (c : Chip) : Chip :=
  { c with pwr.queue := c.pwr.queue.filter fun q => unitOf q.unit != u || (decide (13 ≤ q.unit) && decide (q.unit < 17)) }

/-- Units that EN = 0 keeps gated: no start is asked for them, and those that are idle gate (R510). -/
def keepGated (c : Chip) : Chip :=
  let c := (rangeFrom 1 11).foldl (fun c u => if unitKept c u then blockGate u (dropStarts u c) else c) c
  if moveDropped c then dropStarts 11 c else c

/-! ## Quiescing (R22, R510, R511) -/

/-- Contexts that the SEQ page's quiesce request has stopped go on when it clears (Table 22.5). -/
def resumeQuiesced (c : Chip) : Chip :=
  (c.seq.ctxs.filter fun p => p.2.quiesceStop).foldl (fun c p =>
    if p.2.st = .stopped then ctxResume p.1 c
    else updCtx p.1 (fun x => { x with stopping := false, quiesceStop := false }) c) c

/-- What the end of a quiesce or of EN = 0 lets happen. -/
def pageReleased (p : Nat) (c : Chip) : Chip :=
  if p = pSCT then foldHeld c else if p = pSEQ then retryStarts (resumeQuiesced c) else retryStarts c

/-- A write of PG_CTRL: EN on the pages of engines only, QREQ on every page. -/
def pgCtrlWrite (p : Nat) (en qreq : Bool) (c : Chip) : Chip :=
  let before := pageStopped c p
  let e := if enginePages.contains p then en else true
  let c := updPage p (fun h => { h with en := e, qreq := qreq }) c
  let c := keepGated c
  if before && !pageStopped c p then pageReleased p c else c

/-- QUIESCE_REQUEST. -/
def quiesceRequest (p : Nat) (c : Chip) : Chip := if p < 20 then pgCtrlWrite p (pageOf c p).en true c else c

/-- QUIESCE_CLEAR. -/
def quiesceClear (p : Nat) (c : Chip) : Chip := if p < 20 then pgCtrlWrite p (pageOf c p).en false c else c

/-- PG_EN_WRITE. -/
def pgEnWrite (p : Nat) (en : Bool) (c : Chip) : Chip := if p < 20 then pgCtrlWrite p en (pageOf c p).qreq c else c

end Sys2Proof.Machine
end

