-- ==== Sys2Proof/Machine/Readback.lean ====
section
/-! DEFINITION. Reading state back (Time, Faults and Reading State Back, section 20.4): the readback spaces of Table 20.5, what
each of their words holds, and what a write of one changes (R484, R485). -/

namespace Sys2Proof.Machine

/-! ## The spaces -/

/-- Items and words of a readback space, `none` where Table 20.5 has no such space. -/
def rbShape (c : Chip) (p sp : Nat) : Option (Nat × Nat) :=
  match p, sp with
  | 0, 0 => some (c.core.image.length, 1)
  | 0, 1 => some (3, 2)
  | 1, 0 => some (Config.contexts, 92)
  | 1, 1 => some (1024, 1)
  | 2, 0 => some (Config.rings, 6)
  | 2, 1 => some (64, 1)
  | 2, 2 => some (Config.rings, 24)
  | 3, 0 => some (Config.counters, 1)
  | 3, 1 => some (4096, 1)
  | 3, 2 => some (Config.contexts, 2)
  | 3, 3 => some (1024, 3)
  | 3, 4 => some (8192, 1)
  | 3, 5 => some (8, 3)
  | 4, 0 => some (8, 4)
  | 4, 1 => some (16, 3)
  | 5, 0 => some (c.lmem.repairs.length, 1)
  | 5, 1 => some (Config.banks, 1)
  | 6, 0 => some (16, 26)
  | 7, 0 => some (512 * Config.xpbCount, 64)
  | 8, 0 => some (4 * Config.arraySide, 1)
  | 8, 1 => some (4, 2)
  | 9, 0 => some (8, 26)
  | 10, 0 => some (4, 4)
  | 11, 0 => some (1, 26)
  | 12, 0 => some (4 * Config.chains, Config.lanes / 2)
  | 12, 1 => some (Config.chains, 32)
  | 12, 2 => some (Config.chains, 24)
  | 13, 0 => some (2048, 8)
  | 13, 1 => some (16384, 1)
  | 13, 2 => some (2, 24)
  | 14, 0 => some (2048, 24)
  | 14, 1 => some (2048, 1)
  | 15, 0 => some (2048, 6)
  | 15, 1 => some (256, 1)
  | 16, 0 => some (1024 * Config.channels, 3)
  | 16, 1 => some (Config.channels, 2)
  | 17, 0 => some (16384, 1)
  | 17, 1 => some (4096, 4)
  | 17, 2 => some (Config.ports, 4)
  | 18, 0 => some (1024, 8)
  | 18, 1 => some (1, 2)
  | 19, 0 => some (16, 2)
  | 19, 1 => some (3, 2)
  | _, _ => none

/-! ## Descriptors as words -/

/-- Ring and index of a descriptor in a readback word. -/
def ringIndex (n idx : Nat) : W64 := pack [(0, 15, n), (32, 32, idx)]

/-- A running descriptor as 26 words: its words, its ring and index, and a word of progress. -/
def slotWord (o : Option (Nat × Desc)) (w : Nat) (progress : W64) : W64 :=
  match o with
  | none => 0#64
  | some (n, d) => if w < 24 then d.word w else if w = 24 then ringIndex n d.idx else progress

/-- A word of a running slot whose last word counts the bytes written. -/
def bytesSlot (o : Option (Nat × Desc)) (w : Nat) : W64 :=
  slotWord o w (BitVec.ofNat 64 ((o.map fun p => p.2.wrote).getD 0))

/-! ## Blocks -/

/-- CORE 1. -/
def rbAttempt (c : Chip) (i w : Nat) : W64 :=
  let a := nth (0, 0) c.core.attempts i
  BitVec.ofNat 64 (if w = 0 then a.1 else a.2)

/-- SEQ 0. -/
def rbCtx (c : Chip) (n w : Nat) : W64 :=
  let x := ctxOf c n
  if w < 32 then x.reg w
  else if w = 32 then x.predWord
  else if w = 33 then x.pc
  else if w = 34 then ctxStateWord c n
  else if w = 35 then (if x.st = .waiting ∨ x.st = .stopped then BitVec.ofNat 64 x.wait.value else 0#64)
  else if w < 60 then SMap.get 0#64 x.staging (w - 36)
  else
    let s := nth (⟨0, 0⟩ : Summary) x.sums ((w - 60) / 2)
    BitVec.ofNat 64 (if w % 2 = 0 then s.value else s.meta')

/-- SEQ 1: valid lines in ascending order. -/
def rbLine (c : Chip) (i : Nat) : W64 :=
  match c.seq.icache[i]? with
  | some l => pack [(0, 1, 1), (6, 58, l.1)]
  | none => 0#64

/-- RING 0. -/
def rbRing (c : Chip) (n w : Nat) : W64 :=
  let off := match w with
    | 0 => 0x108 | 1 => 0x110 | 2 => 0x118 | 3 => 0x120 | 4 => 0x128 | _ => 0x130
  (ringRead off { c with ring.sel := n }).1

/-- RING 1. -/
def rbNotice (c : Chip) (i : Nat) : W64 :=
  match c.ring.doneQ[i]? with
  | some (n, x) => pack [(0, 32, x), (32, 15, n), (63, 1, 1)]
  | none => 0#64

/-- RING 2: the descriptor at the head while it has not issued. -/
def rbHead (c : Chip) (n w : Nat) : W64 :=
  match (ringOf c n).descs.head? with
  | some d => if d.phase = .waiting then d.word w else 0#64
  | none => 0#64

/-- A register of SYNC as it reads with a context selected. -/
def rbMap (c : Chip) (n w : Nat) : W64 := syncRead { c with sync.ctxSel := n } (if w = 0 then 0x118 else 0x120)

/-- SYNC 3. -/
def rbHeld (c : Chip) (i w : Nat) : W64 :=
  match (c.sync.held.filter fun x => x.sent.isNone)[i]? with
  | some x =>
    if w = 0 then pack [(0, 20, x.lcn), (20, 12, x.job), (32, 16, x.ctr), (48, 16, x.inc)]
    else if w = 1 then pack [(0, 32, x.epoch)]
    else BitVec.ofNat 64 x.tRaise
  | none => 0#64

/-- SYNC 4. -/
def rbTrans (c : Chip) (i : Nat) : W64 :=
  match c.sync.tcache[i]? with
  | some (k, some p) => pack [(0, 16, k / 65536), (16, 16, k % 65536), (32, 16, p), (63, 1, 1)]
  | _ => 0#64

/-- SYNC 5. -/
def rbBar (c : Chip) (l w : Nat) : W64 := syncRead { c with sync.barSel := l } (0x178 + 8 * w)

/-- TIME 0. -/
def rbTrace (c : Chip) (r w : Nat) : W64 := timeRead { c with time.sel := r } (0x138 + 8 * w)

/-- TIME 1. -/
def rbMeas (c : Chip) (i w : Nat) : W64 :=
  match c.time.meas[i]? with
  | some (t, e, δ) => if w = 0 then BitVec.ofNat 64 t else w64 (if w = 1 then e else δ)
  | none => 0#64

/-- XPB 0: a line of a held buffer; a byte that its holder has not written has no stated value. -/
def rbBuf (i w : Nat) (c : Chip) : W64 × Chip :=
  if (bufHolder c (i / 512)).isSome then
    let f := c.free
    let cell (k : Nat) : Nat :=
      let v := SMap.get 256 c.xpb.cells (512 * i + 8 * w + k)
      if v < 256 then v else Config.freeNat (f + k)
    (leWord ((rangeFrom 0 8).map fun k => BitVec.ofNat 8 (cell k)), { c with free := f + 8 })
  else (0#64, c)

/-- FEED 0: the delay is that of the last read, one less for one from a 4-cycle bank (Table 9.8). -/
def rbCubeRow (c : Chip) (i : Nat) : W64 :=
  let a := arrOf c (i / Config.arraySide)
  let r := i % Config.arraySide
  let l := SMap.get 0 a.bankLat r
  if arrayPresent c (i / Config.arraySide) then
    pack [(0, 2, bits a.eq (2 * r) 2 - (if l = 4 then 1 else 0)), (2, 1, b2n (a.spare.testBit r)), (4, 4, l)]
  else 0#64

/-- The descriptors that hold a stream: X0, X1, W0, W1 (Table 1.3). -/
def streamHolders (c : Chip) (s : Nat) : List (Nat × Desc) :=
  let mine (n : Nat) : Bool := if s < 2 then n / 2 == s else n % 2 == s - 2
  let stage := if s < 2 then 2 else 1
  classDescs c 1 fun d => d.arrs.any fun a => mine a.1 && a.2 == stage

/-- FEED 1. -/
def rbStream (c : Chip) (s w : Nat) : W64 :=
  match (streamHolders c s)[w]? with
  | some (n, d) => ringIndex n d.idx
  | none => 0#64

/-- MXA 0: an array's streaming or loading descriptor. Until it streams, which it does at once, its pass is the first, 0. -/
def rbMxa (c : Chip) (i w : Nat) : W64 :=
  let n := i / 2
  let run := arrayRuns c n
  let o := (if i % 2 = 0 then run else (onArray c n 1).filter fun p => !run.contains p).head?
  slotWord o w (match o with
    | some (_, d) => pack [(32, 32, rowsLeft d n)]
    | none => 0#64)

/-- DRN 0. -/
def rbDrain (c : Chip) (n w : Nat) : W64 :=
  if w = 0 then drnStat c n
  else
    let held := match drainRows c n with
      | x :: _ => ((ringOf c x.ring).find x.idx).map fun d => (x.ring, d)
      | [] => (arrayRuns c n).head?
    match held with
    | none => 0#64
    | some (_, d) =>
      if w = 1 then BitVec.ofNat 64 d.rBase
      else if w = 2 then BitVec.ofNat 64 (nextGroup c n)
      else
        match (pathsHeld c).find? fun p => p.1 == n with
        | some p => BitVec.ofNat 64 p.2
        | none => 0#64

/-- VEC 0: a carry row, two lanes per word. -/
def rbCarry (c : Chip) (i w : Nat) : W64 :=
  let v (l : Nat) : Nat := SMap.get 0 c.vec.carry (carryKey (i / 4) (i % 4) l)
  pack [(0, 32, v (2 * w)), (32, 32, v (2 * w + 1))]

/-- The descriptor that runs on a chain. -/
def chainDesc (c : Chip) (n : Nat) : Option (Nat × Desc) := (classDescs c 3 fun d => d.started && d.chs.contains n).head?

/-- VEC 1: the program of the running RUN, two micro-ops per word. -/
def rbProgram (c : Chip) (n w : Nat) : W64 :=
  match chainDesc c n with
  | some (_, d) =>
    let u (i : Nat) : Nat := if i < d.vPlen then Mem.readNat d.cap (progKey + 4 * i) 4 else 0
    if d.opc = 1 then pack [(0, 32, u (2 * w)), (32, 32, u (2 * w + 1))] else 0#64
  | none => 0#64

/-- The running descriptors of a unit of RDU: the lane unit and the collective unit. -/
def rduUnit (c : Chip) (lane : Bool) : Option (Nat × Desc) :=
  (classDescs c 4 fun d => d.started && d.onLane == lane).head?

/-- The exact accumulators of a running SUM or SUMSQ: what tapped RUNs have fed it, or what its window has. -/
def lreduceAcc (d : Desc) (g : Nat) : Exact :=
  if d.phase = .running then
    (lreduceOf d.lOp (if d.lSrc = 0 ∧ g = 0 then d.fed.map fun p => (p.1, fp64.decode p.2) else [])).2.2
  else keptAcc d g

/-- Accumulators that an LREDUCE uses (R350). -/
def lreduceUses (d : Desc) : Nat := if d.lAxis = 0 then 1 else d.lOuts

/-- RDU 0: the accumulator as a record (Table 14.3); of MAX, MIN, AMAX and ARGMAX the result so far as one contribution under R344.
DEDUCED (log 47). -/
def rbAccum (c : Chip) (i w : Nat) : W64 :=
  match rduUnit c true with
  | none => 0#64
  | some (_, d) =>
    if d.opc ≠ 1 ∨ lreduceUses d ≤ i then 0#64
    else leWord (((lreduceAcc d i).record.drop (8 * w)).take 8)

/-- RDU 1. -/
def rbSegment (c : Chip) (i : Nat) : W64 :=
  match (rduUnit c false).filter fun p => p.2.opc == 2 with
  | some (_, d) => pack [(0, 32, nth 0 d.part i)]
  | none => 0#64

/-- SCT 0. -/
def rbSlot (c : Chip) (i w : Nat) : W64 := leWord ((slotRecord (slotOf c i)).drop (8 * w) |>.take 8)

/-- WVM 0. -/
def rbRegion (c : Chip) (g w : Nat) : W64 :=
  if w < 5 then wvmRead { c with wvm.sel := g } (0x110 + 8 * w) else 0#64

/-- HPORT 0: the request as Table 17.9 lays it out, and its age. -/
def rbRequest (c : Chip) (i w : Nat) : W64 :=
  match c.hport.out.find? fun r => r.tag == i with
  | none =>
    match c.hport.peerOut.find? fun r => r.tag == i with
    | none => 0#64
    | some r =>
      if w = 0 then pack [(0, 4, 2), (4, 10, i % 1024), (14, 6, peerBeats r.pkt - 1), (24, 20, r.pkt.dst)]
      else if w = 1 then 0#64
      else BitVec.ofNat 64 (now c - r.since)
  | some r =>
    let a := offOf r.addr - 0x10000000000
    if w = 0 then pack [(0, 4, if r.kind = .wr then 1 else 0), (4, 10, i % 1024), (14, 6, linesOf a r.len - 1)]
    else if w = 1 then BitVec.ofNat 64 (a - a % 64)
    else BitVec.ofNat 64 (now c - r.since)

/-- TLK 1: the header of an outstanding request. -/
def rbOutstanding (c : Chip) (i w : Nat) : W64 :=
  match c.tlk.out[i]? with
  | some r => leWord ((packetBytes (reqPacket c r)).drop (8 * w) |>.take 8)
  | none => 0#64

/-- TLK 2. -/
def rbPort (c : Chip) (n w : Nat) : W64 :=
  let p := portOf c n
  match w with
  | 0 => BitVec.ofNat 64 p.txSeq
  | 1 => BitVec.ofNat 64 p.lastAck
  | 2 => pack ((rangeFrom 0 4).map fun v => (16 * v, 16, SMap.get 0 p.credits v))
  | _ => BitVec.ofNat 64 p.replay.length

/-- SNAP 0. -/
def rbSnapStream (c : Chip) (s w : Nat) : W64 := if w < 5 then snapRead { c with snap.sel := s } (0x130 + 8 * w) else 0#64

/-- SNAP 1. -/
def rbTee (c : Chip) (w : Nat) : W64 :=
  if w = 0 then BitVec.ofNat 64 ((c.snap.tees.map Tee.len).foldl (· + ·) 0)
  else BitVec.ofNat 64 ((c.snap.tees.head?.map Tee.tag).getD 0)

/-- PWR 0: the requester in bits [7:0] and the unit in [15:8]; ns in the queue. -/
def rbQueue (c : Chip) (i w : Nat) : W64 :=
  match c.pwr.queue[i]? with
  | some q => if w = 0 then pack [(0, 8, requesterOf q.unit), (8, 8, unitOf q.unit)] else BitVec.ofNat 64 (now c - q.since)
  | none => 0#64

/-- mV of a rail: VDD_CORE by the operating point, VDD_SRAM, VDD_RET (Tables 19.1 and 19.2). -/
def railMv (c : Chip) (i : Nat) : Nat :=
  match i with
  | 0 => if c.pwr.state = 2 then 0 else 600 + 50 * c.pwr.cur
  | 1 => if c.pwr.state = 2 then 0 else 750
  | _ => 500

/-- PWR 1: the current of a rail is free. -/
def rbRail (i w : Nat) (c : Chip) : W64 × Chip :=
  if w = 0 then (BitVec.ofNat 64 (railMv c i), c)
  else
    let (x, c) := takeFree c
    (BitVec.ofNat 64 x, c)

/-- One word of a readback space, inside its items and words. -/
def rbWord (p sp i w : Nat) (c : Chip) : W64 × Chip :=
  match p, sp with
  | 0, 0 => ((nth 0#32 c.core.image i).setWidth 64, c)
  | 0, 1 => (rbAttempt c i w, c)
  | 1, 0 => (rbCtx c i w, c)
  | 1, 1 => (rbLine c i, c)
  | 2, 0 => (rbRing c i w, c)
  | 2, 1 => (rbNotice c i, c)
  | 2, 2 => (rbHead c i w, c)
  | 3, 0 => (pack [(0, 48, ctrRead c i), (63, 1, b2n (ctrOf c i).poisoned)], c)
  | 3, 1 => (pack [(0, 17, SMap.get 0 c.sync.jobs i)], c)
  | 3, 2 => (rbMap c i w, c)
  | 3, 3 => (rbHeld c i w, c)
  | 3, 4 => (rbTrans c i, c)
  | 3, 5 => (rbBar c i w, c)
  | 4, 0 => (rbTrace c i w, c)
  | 4, 1 => (rbMeas c i w, c)
  | 5, 0 => (nth 0#64 c.lmem.repairs i, c)
  | 5, 1 => (bankInfo c i, c)
  | 6, 0 => (bytesSlot ((classDescs c 0 Desc.started)[i]?) w, c)
  | 7, 0 => rbBuf i w c
  | 8, 0 => (rbCubeRow c i, c)
  | 8, 1 => (rbStream c i w, c)
  | 9, 0 => (rbMxa c i w, c)
  | 10, 0 => (rbDrain c i w, c)
  | 11, 0 => (bytesSlot (mvpNow c) w, c)
  | 12, 0 => (rbCarry c i w, c)
  | 12, 1 => (rbProgram c i w, c)
  | 12, 2 => (slotWord (chainDesc c i) w 0#64, c)
  | 13, 0 => (rbAccum c i w, c)
  | 13, 1 => (rbSegment c i, c)
  | 13, 2 => (slotWord (rduUnit c (i == 0)) w 0#64, c)
  | 14, 0 => (rbSlot c i w, c)
  | 14, 1 => (sctRead { c with sct.sel := i } 0x120, c)
  | 15, 0 => (rbRegion c i w, c)
  | 15, 1 => ((handleOf c i).word, c)
  | 16, 0 => (rbRequest c i w, c)
  | 16, 1 => (BitVec.ofNat 64 (SMap.get 0 c.hport.credits (2 * i + w)), c)
  | 17, 0 => (BitVec.ofNat 64 (SMap.get routeReset c.tlk.active i), c)
  | 17, 1 => (rbOutstanding c i w, c)
  | 17, 2 => (rbPort c i w, c)
  | 18, 0 => (rbSnapStream c i w, c)
  | 18, 1 => (rbTee c w, c)
  | 19, 0 => (rbQueue c i w, c)
  | 19, 1 => rbRail i w c
  | _, _ => (0#64, c)

/-! ## Writes (R485) -/

/-- A word that Table 20.5 marks W. -/
def rbWritable (c : Chip) (p sp i w : Nat) : Bool :=
  match p, sp with
  | 1, 0 =>
    (decide (w ≤ 33) || decide (36 ≤ w ∧ w ≤ 59)) && (match (ctxOf c i).st with
      | .free => true
      | .stopped => true
      | .faulted => true
      | _ => false)
  | 3, 0 => true
  | 3, 1 => true
  | 3, 2 => true
  | 12, 0 => true
  | 14, 0 => true
  | 15, 0 => true
  | 15, 1 => true
  | 18, 0 => decide (w ≤ 3)
  | _, _ => false

/-- A word of a context that is FREE, STOPPED or FAULTED: registers and predicates, whatever SEQ_CTX_REGDATA holds meanwhile, the PC as
SEQ_CTX_PC, staging words. -/
def rbCtxWrite (n w : Nat) (v : W64) (c : Chip) : Chip :=
  if w < 32 then updCtx n (fun x => x.setReg w v) c
  else if w = 32 then updCtx n (fun x => x.setPreds v) c
  else if w = 33 then { ctxPcWrite v { c with seq.ctxSel := n } with seq.ctxSel := c.seq.ctxSel }
  else updCtx n (fun x => { x with staging := SMap.set 0#64 x.staging (w - 36) v }) c

/-- A register of SYNC written with a context selected. -/
def rbMapWrite (n w : Nat) (v : W64) (c : Chip) : Chip :=
  let sel := c.sync.ctxSel
  { syncWrite (if w = 0 then 0x118 else 0x120) v { c with sync.ctxSel := n } with sync.ctxSel := sel }

/-- A word of a carry row. -/
def rbCarryWrite (i w : Nat) (v : W64) (c : Chip) : Chip :=
  let m := SMap.set 0 c.vec.carry (carryKey (i / 4) (i % 4) (2 * w)) (fld v 0 32)
  { c with vec.carry := SMap.set 0 m (carryKey (i / 4) (i % 4) (2 * w + 1)) (fld v 32 32) }

/-- A word of a scale slot's record: configuration and scale by the rules of their registers, the others as the record lays
them out; what is pending stays. -/
def rbSlotWrite (i w : Nat) (v : W64) (c : Chip) : Chip :=
  let sel := c.sct.sel
  if w ≤ 1 then { sctWrite (0x110 + 8 * w) v { c with sct.sel := i } with sct.sel := sel }
  else
    let s := slotOf c i
    let bs := slotRecord s
    let y := slotOfRecord (bs.take (8 * w) ++ leBytes 8 v.toNat ++ bs.drop (8 * w + 8))
    setSlot i { s with hist := y.hist } c

/-- A word of a region. -/
def rbRegionWrite (g w : Nat) (v : W64) (c : Chip) : Chip :=
  let adr := (v &&& ~~~(63#64)).toNat
  updRgn g (fun r =>
    match w with
    | 0 => { r with aBase := adr }
    | 1 => { r with bBase := adr }
    | 2 => { r with len := fld v 0 48, kind := bitAt v 48, trickle := bitAt v 49, valid := bitAt v 63 }
    | 3 =>
      { r with
        curB := bitAt v 0, frozenA := bitAt v 3, frozenB := bitAt v 4
        other := match fld v 1 2 with
          | 0 => .empty
          | 1 => .prev
          | 2 => .pend
          | _ => r.other }
    | 4 => { r with firstA := fld v 0 32, firstB := fld v 32 32 }
    | _ => r) c

/-- A pin handle: one that is made valid pins, of each valid region of its range, the slot in force at its STEP, which is the one
that the handle held when it was saved (R375, R387). -/
def rbPinWrite (h : Nat) (v : W64) (c : Chip) : Chip :=
  let first := fld v 0 11
  let count := fld v 16 12
  let valid := bitAt v 31
  let slots := if valid then
      ((rangeFrom first count).filter fun g => (rgnOf c g).valid).filterMap fun g =>
        ((rgnOf c g).slotAt (fld v 32 32 : Nat)).map fun s => (g, s)
    else []
  { c with wvm.handles := SMap.set .reset c.wvm.handles h ⟨first, count, valid, fld v 32 32, slots⟩ }

/-- A register of a stream written with the stream selected. -/
def rbStreamWrite (s w : Nat) (v : W64) (c : Chip) : Chip :=
  let sel := c.snap.sel
  { snapStreamWrite (0x130 + 8 * w) v { c with snap.sel := s } with snap.sel := sel }

/-- A write that takes effect. -/
def rbPut (p sp i w : Nat) (v : W64) (c : Chip) : Chip :=
  match p, sp with
  | 1, 0 => rbCtxWrite i w v c
  | 3, 0 => setCtrVal i (fld v 0 48) c
  | 3, 1 => { c with sync.jobs := SMap.set 0 c.sync.jobs i (fld v 0 17) }
  | 3, 2 => rbMapWrite i w v c
  | 12, 0 => rbCarryWrite i w v c
  | 14, 0 => rbSlotWrite i w v c
  | 15, 0 => rbRegionWrite i w v c
  | 15, 1 => rbPinWrite i v c
  | 18, 0 => rbStreamWrite i w v c
  | _, _ => c

/-! ## The cursor (Table 20.4) -/

/-- The cursor stands inside its space. -/
def rbInside (c : Chip) (p : Nat) : Option Nat :=
  let h := pageOf c p
  match rbShape c p h.rbSpace with
  | some (items, words) => if h.rbItem < items ∧ h.rbWord < words then some words else none
  | none => none

/-- AUTO: the cursor advances after an access. -/
def rbAdvance (p words : Nat) (c : Chip) : Chip :=
  updPage p (fun h =>
    if !h.rbAuto then h
    else if h.rbWord + 1 < words then { h with rbWord := h.rbWord + 1 }
    else { h with rbWord := 0, rbItem := add32 h.rbItem 1 }) c

/-- An access is out of range or refused. -/
def rbFail (p : Nat) (c : Chip) : Chip := updPage p (fun h => { h with rbErr := true }) c

/-- RB_DATA_READ (R484). -/
def rbDataRead (p : Nat) (c : Chip) : W64 × Chip :=
  let h := pageOf c p
  match rbInside c p with
  | none => (0#64, rbFail p c)
  | some words =>
    let (v, c) := rbWord p h.rbSpace h.rbItem h.rbWord c
    (v, rbAdvance p words c)

/-- RB_DATA_WRITE (R485). -/
def rbDataWrite (p : Nat) (v : W64) (c : Chip) : Chip :=
  let h := pageOf c p
  match rbInside c p with
  | none => rbFail p c
  | some words =>
    if quiesced c p && rbWritable c p h.rbSpace h.rbItem h.rbWord then
      rbAdvance p words (rbPut p h.rbSpace h.rbItem h.rbWord v c)
    else rbFail p c

end Sys2Proof.Machine
end

