-- ==== Sys2Proof/Machine/Pages.lean ====
section
/-! DEFINITION. Control pages (Register Summary): the common header, interrupt causes and lines, and the one read and the one
write of a register at its page and offset (R16, R18 to R23, R495, R508 to R514). -/

namespace Sys2Proof.Machine

/-! ## The common header (Tables 22.1 to 22.4) -/

/-- PG_CAPS at the Herend parameters (Table 22.3). -/
def pgCaps (p : Nat) : W64 :=
  match p with
  | 0 => 0x0000000000000014#64
  | 1 => 0x0000000400000400#64
  | 2 => 0x0001000000008000#64
  | 3 => 0x0000000800010000#64
  | 4 => 0x0000000000000008#64
  | 5 => 0x0000030000000100#64
  | 6 => 0x0000100000000010#64
  | 7 => 0x0000010000000004#64
  | 8 => 0x0000002000000004#64
  | 9 => 0x0000002000000004#64
  | 10 => 0x0000080000000004#64
  | 11 => 0x0000200000000001#64
  | 12 => 0x0000020000000004#64
  | 13 => 0x0000080000000002#64
  | 14 => 0x0000002000000800#64
  | 15 => 0x0000010000000800#64
  | 16 => 0x0000004000000010#64
  | 17 => 0x0000400000000004#64
  | 18 => 0x0000000200000400#64
  | 19 => 0x000000C800000005#64
  | _ => 0#64

/-- PG_STATUS.BUSY: a descriptor of the block runs, or a link serves a request: one of its own that is outstanding, or one that host
memory still serves. -/
def pgBusy (c : Chip) (p : Nat) : Bool :=
  let runs (cls : Nat) : Bool := !(classDescs c cls Desc.started).isEmpty
  match pageClass p with
  | some cls =>
    runs cls || (p == pTLK && ((c.tlk.proxies.any fun x => decide (x.via < 5)) || !(c.tlk.out ++ c.tlk.heldReqs ++ c.tlk.waitReqs).isEmpty))
  | none =>
    if p = pFEED ∨ p = pDRN then runs 1
    else if p = pSEQ then runs 15
    else if p = pHPORT then !c.hport.out.isEmpty || !c.hport.peerOut.isEmpty || c.tlk.proxies.any fun x => decide (5 ≤ x.via)
    else false

/-- The conditions of the page-specific interrupt causes, from bit 1 (Table 22.4). -/
def pgCauses (c : Chip) (p : Nat) : List Bool :=
  match p with
  | 1 => [c.seq.notify != 0#64, countCtx c .faulted != 0]
  | 2 => [!c.ring.doneQ.isEmpty, c.ring.rings.any fun kr => kr.2.halted]
  | 3 => [c.sync.watches.any fun w => w.2.hit]
  | 4 => [c.time.traces.any fun t => t.2.en && decide (t.2.size ≤ 2 * t.2.held), c.time.traces.any fun t => t.2.ovf]
  | 5 => [c.lmem.scrubLate]
  | 6 => [c.dma.permRange]
  | 12 => [c.vec.permRange]
  | 13 => [c.rdu.nonfinStep]
  | 15 => [!(openWaits c).isEmpty]
  | 16 => [c.hport.timeouts != 0]
  | 17 => [c.tlk.ports.any fun x => decide (x.2.st = .failed), c.tlk.guardV]
  | 18 => [c.snap.teefail != 0, decide (2 ≤ c.snap.rsState)]
  | 19 => [c.pwr.wakeDeferred, c.pwr.uv, c.pwr.reclaimLate]
  | _ => []

/-- A page holds an unmasked fault (R23). -/
def pgFaulty (c : Chip) (p : Nat) : Bool := (pageOf c p).fault &&& ~~~(pageOf c p).mask != 0#20

/-- PG_INT_STATUS. -/
def intStatus (c : Chip) (p : Nat) : Nat :=
  let bs := pgFaulty c p :: pgCauses c p
  packNat ((rangeFrom 0 bs.length).zip bs |>.map fun x => (x.1, 1, b2n x.2))

/-- The bits of PG_INT_ENABLE that a page has: FAULT and its own causes. -/
def intBits (c : Chip) (p : Nat) : Nat := 2 ^ ((pgCauses c p).length + 1) - 1

/-- PG_PWR_STATE (R512); the pages without units of their own are those that BASE covers. -/
def pwrStateWord (c : Chip) (p : Nat) : W64 :=
  let us := pageUnits p
  let gated := if us.isEmpty then c.pwr.state != 0 else !(us.any (unitOn c))
  let waiting := if us.isEmpty then baseWaits c else c.pwr.queue.any fun q => us.contains (unitOf q.unit)
  pack [(0, 1, b2n gated), (1, 1, b2n waiting), (2, 2, c.pwr.state)]

/-- PG_RB_CURSOR. -/
def cursorWord (h : PageHdr) : W64 :=
  pack [(0, 16, h.rbWord), (16, 32, h.rbItem), (48, 8, h.rbSpace), (56, 1, b2n h.rbAuto), (63, 1, b2n h.rbErr)]

/-- Reads of the common header. -/
def headerRead (p off : Nat) (c : Chip) : W64 × Chip :=
  let h := pageOf c p
  match off with
  | 0x000 => (BitVec.ofNat 64 p, c)
  | 0x008 => (pack [(0, 16, Config.patch), (32, 16, 2)], c)
  | 0x010 => (pgCaps p, c)
  | 0x018 => (pack [(0, 1, b2n (pgBusy c p)), (1, 1, b2n (pageStopped c p))], c)
  | 0x020 => (h.fault.setWidth 64, c)
  | 0x028 => (h.mask.setWidth 64, c)
  | 0x030 => (pack [(0, 16, h.first)], c)
  | 0x038 => (BitVec.ofNat 64 h.ftime, c)
  | 0x040 => (BitVec.ofNat 64 (intStatus c p), c)
  | 0x048 => (h.intEn.setWidth 64, c)
  | 0x050 => (pack [(0, 1, b2n h.en), (1, 1, b2n h.qreq)], c)
  | 0x058 => (pack [(0, 1, b2n (quiesced c p))], c)
  | 0x060 => (pwrStateWord c p, c)
  | 0x068 => (cursorWord h, c)
  | 0x070 => rbDataRead p c
  | _ => (0#64, c)

/-- Clears fault bits; FIRST and TIME read zero once none is left (R481). -/
def PageHdr.clearFaults (h : PageHdr) (v : W64) : PageHdr :=
  let f := h.fault &&& ~~~(v.setWidth 20)
  { h with fault := f, first := if f = 0#20 then 0 else h.first, ftime := if f = 0#20 then 0 else h.ftime }

/-- Moves the cursor; ERR is cleared by a 1. -/
def PageHdr.moveCursor (h : PageHdr) (v : W64) : PageHdr :=
  { h with
    rbWord := fld v 0 16, rbItem := fld v 16 32, rbSpace := fld v 48 8, rbAuto := bitAt v 56
    rbErr := h.rbErr && !bitAt v 63 }

/-- Writes of the common header. -/
def headerWrite (p off : Nat) (v : W64) (c : Chip) : Chip :=
  match off with
  | 0x020 => updPage p (fun h => h.clearFaults v) c
  | 0x028 => updPage p (fun h => { h with mask := v.setWidth 20 }) c
  | 0x048 => updPage p (fun h => { h with intEn := BitVec.ofNat 8 (v.toNat &&& intBits c p) }) c
  | 0x050 => pgCtrlWrite p (bitAt v 0) (bitAt v 1) c
  | 0x068 => updPage p (fun h => h.moveCursor v) c
  | 0x070 => rbDataWrite p v c
  | _ => c

/-! ## Interrupt lines (R495, R513) -/

/-- A page drives its line. -/
def pageIrq (c : Chip) (p : Nat) : Bool := intStatus c p &&& (pageOf c p).intEn.toNat != 0

/-- IRQ_N[k] is low. -/
def irqLow (c : Chip) (k : Nat) : Bool :=
  ((rangeFrom 0 20).any fun p => fld c.core.irqRoute (2 * p) 2 == k && pageIrq c p)
    || (bitAt c.core.irqRoute 42 && fld c.core.irqRoute 40 2 == k && faultSummary c != 0#64)

/-! ## Registers by page and offset (R18 to R20) -/

/-- Reads of a page's block registers. -/
def blockRead (p off : Nat) (c : Chip) : W64 × Chip :=
  match p with
  | 0 => (coreRead c off, c)
  | 1 => (seqRead c off, c)
  | 2 => ringRead off c
  | 3 => (syncRead c off, c)
  | 4 => (timeRead c off, c)
  | 5 => lmemRead off c
  | 6 => (dmaRead c off, c)
  | 7 => (xpbRead c off, c)
  | 8 => (feedRead c off, c)
  | 9 => (mxaRead c off, c)
  | 10 => (drnRead c off, c)
  | 11 => mvpRead c off
  | 12 => (vecRead c off, c)
  | 13 => (rduRead c off, c)
  | 14 => (sctRead c off, c)
  | 15 => (wvmRead c off, c)
  | 16 => (hportRead c off, c)
  | 17 => (tlkRead c off, c)
  | 18 => (snapRead c off, c)
  | 19 => (pwrRead c off, c)
  | _ => (0#64, c)

/-- Writes of a page's block registers by an agent: a context, or 0xFFFF. -/
def blockWrite (who p off : Nat) (v : W64) (c : Chip) : Chip :=
  match p with
  | 0 => coreWrite off v c
  | 1 => seqWrite off v c
  | 2 => ringWrite off v c
  | 3 => syncWrite off v c
  | 4 => timeWrite who off v c
  | 5 => lmemWriteReg off v c
  | 6 => dmaWrite off v c
  | 9 => mxaWrite off v c
  | 12 => vecWrite off v c
  | 13 => rduWrite off v c
  | 14 => sctWrite off v c
  | 15 => wvmWrite off v c
  | 16 => hportWrite off v c
  | 17 => tlkWrite off v c
  | 18 => snapWrite off v c
  | 19 => pwrWrite off v c
  | _ => c

/-- The page and the offset in it of a core offset; `none` outside the 20 pages (R18). -/
def pageAt (off : Nat) : Option (Nat × Nat) :=
  if 0x100000000 ≤ off ∧ off < 0x100140000 then some ((off - 0x100000000) / 0x10000, off % 0x10000) else none

/-- A control page access is 8 bytes wide and aligned (R19). -/
def pageAccessOk (off n : Nat) : Bool := (pageAt off).isSome && n == 8 && off % 8 == 0

/-- A read of a register. -/
def pageRead (p off : Nat) (c : Chip) : W64 × Chip := if off < 0x100 then headerRead p off c else blockRead p off c

/-- A write of a register by an agent. -/
def pageWrite (who p off : Nat) (v : W64) (c : Chip) : Chip :=
  if off < 0x100 then headerWrite p off v c else blockWrite who p off v c

/-- The pages that the always-on domain serves in P1 and P2 (R431, R459). -/
def pageAlwaysOn (p : Nat) : Bool := p == pCORE || p == pSYNC || p == pTIME || p == pPWR

/-! ## Whole words of the page region -/

/-- Reads the registers of a range of whole words. -/
def pageReadWords : Nat → Nat → Chip → List Byte × Chip
  | 0, _, c => ([], c)
  | n + 1, off, c =>
    match pageAt off with
    | some (p, o) =>
      let (v, c) := pageRead p o c
      let (bs, c) := pageReadWords n (off + 8) c
      (leBytes 8 v.toNat ++ bs, c)
    | none => ([], c)

/-- Writes the registers of a range of whole words. -/
def pageWriteWords (who : Nat) : Nat → Nat → List Byte → Chip → Chip
  | 0, _, _, c => c
  | n + 1, off, bs, c =>
    match pageAt off with
    | some (p, o) => pageWriteWords who n (off + 8) (bs.drop 8) (pageWrite who p o (leWord (bs.take 8)) c)
    | none => c

end Sys2Proof.Machine
end

