-- ==== Sys2Proof/Machine/Serve.lean ====
section
/-! DEFINITION. Requests from outside the core: reads, writes and atomics at a core offset as they are served (R19, R67, R192,
R193, R377, R415, R427), packets that arrive on a port or through the fabric (R409 to R416), flits (R402 to R404), and inbound
host-port requests. -/

namespace Sys2Proof.Machine

/-! ## Serving an access -/

/-- How the core answers a request: with bytes, with a refusal (the page whose block refuses, and the cause), or from host
memory. -/
inductive Reply where
  | done (bytes : List Byte)
  | refuse (page : Nat) (k : Cause)
  | host (off : Nat)
deriving DecidableEq, Repr

/-- The page that answers for an offset that nothing serves: that of a control page, else TLK or the host port. -/
def unmappedPage (hp : Bool) (off : Nat) : Nat :=
  match pageAt off with
  | some (p, _) => p
  | none => if hp then pHPORT else pTLK

/-- An unmapped access. -/
def unmapped (hp : Bool) (off : Nat) : Reply := .refuse (unmappedPage hp off) .addrUnmapped

/-- Where a remote request that reaches a name range goes: a read to CUR, a write to PEND (R377). -/
def resolveInbound (c : Chip) (w : Bool) (off n : Nat) : Except Cause Nat :=
  match nameOf c off n with
  | .plain => .ok off
  | .torn => .error .descMalformed
  | .region g =>
    let r := rgnOf c g
    let lo := ((nameRanges c).find? fun p => decide (p.1 = g ∧ p.2.1 ≤ off ∧ off + n ≤ p.2.1 + p.2.2)).elim 0 fun p => p.2.1
    if !w then .ok (offOf (r.base r.cur) + (off - lo))
    else if r.other = .pend then .ok (offOf (r.base r.alt) + (off - lo))
    else .error .versionAbsent

/-- Where a request goes: one on the host port lanes is not resolved (R427). -/
def inboundOff (hp w : Bool) (c : Chip) (off n : Nat) : Except Cause Nat :=
  if hp then .ok off else resolveInbound c w off n

/-- Whole registers of the page region: a range of aligned words, each in a page (R18, R19). -/
def pageRangeOk (off n : Nat) : Bool :=
  aligned 8 off && aligned 8 n && (rangeFrom 0 (n / 8)).all fun k => (pageAt (off + 8 * k)).isSome

/-- Serves a read. -/
def serveRd (hp : Bool) (off n : Nat) (c : Chip) : Reply × Chip :=
  if !mappedRange c false off n then (unmapped hp off, c)
  else
    match inboundOff hp false c off n with
    | .error k => (.refuse pWVM k, c)
    | .ok off =>
      match regionOf off n with
      | some .pages =>
        if pageRangeOk off n then
          let (bs, c) := pageReadWords (n / 8) off c
          (.done bs, c)
        else (unmapped hp off, c)
      | some .host => (.host off, c)
      | some .lmem =>
        let (bad, c) := eccRead 5 (rangeFrom off n) c
        if bad then (.refuse pLMEM .eccUncorr, c) else (.done (lmemBytes c off n), c)
      | some _ => (.done ((rangeFrom off n).map (coreByte c)), c)
      | none => (unmapped hp off, c)

/-- Serves a write of some bytes of a range; `one` requires that exactly one register be written in the page region. -/
def serveWr (hp one : Bool) (off n : Nat) (cells : List (Nat × Byte)) (c : Chip) : Reply × Chip :=
  if !mappedRange c true off n then (unmapped hp off, c)
  else
    match inboundOff hp true c off n with
    | .error k => (.refuse pWVM k, c)
    | .ok dst =>
      let cells := cells.map fun p => (p.1 - off + dst, p.2)
      match regionOf dst n with
      | some .pages =>
        match cells with
        | [] => (if one then unmapped hp dst else .done [], c)
        | (a, _) :: _ =>
          let bs := cells.map Prod.snd
          if pageRangeOk a bs.length && decide (cells = cellsAt a bs) && (!one || bs.length == 8) then
            (.done [], pageWriteWords 0xFFFF (bs.length / 8) a bs c)
          else (unmapped hp dst, c)
      | some .host => (.host dst, c)
      | some .lmem =>
        let bad := partialBad [] cells c
        if bad.isEmpty then (.done [], lmemWriteCells [] cells c)
        else (.refuse pLMEM .eccUncorr, bad.foldl (fun c p => poisonWord 5 p.1 p.2 c) c)
      | some _ => (.done [], cells.foldl (fun c p => aperturePut c p.1 p.2) c)
      | none => (unmapped hp dst, c)

/-- What an atomic stores (Table 4.9): OP 2 add, 3 swap, 4 compare and swap, 5 unsigned maximum, over `w` bits. -/
def amoStores (op w old b x : Nat) : Nat :=
  match op with
  | 2 => (old + b) % 2 ^ w
  | 3 => b % 2 ^ w
  | 4 => if old = b % 2 ^ w then x % 2 ^ w else old
  | 5 => max old (b % 2 ^ w)
  | _ => old

/-- Performs an atomic on LMEM: the old value (R107, R117). -/
def serveAmo (cls op size off b x : Nat) (c : Chip) : Except (Nat × Cause) Nat × Chip :=
  let n := 2 ^ size
  if (size ≠ 2 ∧ size ≠ 3) ∨ op < 2 ∨ 5 < op ∨ off % n ≠ 0 ∨ !inLmem off n then
    (.error (unmappedPage false off, .addrUnmapped), c)
  else
    let (bad, c) := eccRead cls (rangeFrom off n) c
    if bad then (.error (pLMEM, .eccUncorr), c)
    else
      let old := lmemNat c off n
      (.ok old, lmemWrite off (leBytes n (amoStores op (8 * n) old b x)) c)

/-- Records a refusal on its page; an uncorrectable word has recorded itself when it was met (R192). -/
def noteRefusal (page : Nat) (k : Cause) (c : Chip) : Chip := if k = .eccUncorr then c else pageFault page k c

/-! ## Responses -/

/-- A response to a packet (Tables 17.3 and 17.4). -/
def responsePacket (c : Chip) (p : Packet) (status : Nat) (bs : List Byte) : Packet :=
  { ty := p.ty + 0x80, vc := vcCtrl, hops := maxHops c, dst := p.src, src := srcLcn c, tag := p.tag, status := status
    rEpoch := c.tlk.routeEpoch, lEpoch := 0, addr := 0, len := bs.length, payload := bs, v12 := false, res0 := false
    rsh := false }

/-- A place that a packet can leave by: a port that is UP, or the fabric. -/
def canLeave (c : Chip) (eg : Nat) : Bool :=
  if eg < 4 then decide ((portOf c eg).st = .up) || decide ((portOf c eg).st = .train) else eg == 4 && hportLive c

/-- Sends a response on the route of its requester; without an own LCN it goes back where the request came from. One that
cannot be sent is discarded. -/
def respond (via : Nat) (p : Packet) (status : Nat) (bs : List Byte) (c : Chip) : Chip :=
  let q := responsePacket c p status bs
  let eg := match routeOf c q.dst with
    | .egress eg => some eg
    | _ => if (ownLcn c).isNone then some via else none
  match eg with
  | some eg => if canLeave c eg then transmit eg q c else c
  | none => c

/-- Answers a request packet with a refusal code; an AMORSP has an old value all the same, of which the spec says nothing. -/
def refusePacket (via : Nat) (p : Packet) (status : Nat) (c : Chip) : Chip :=
  if p.ty = tyAMO then
    let (x, c) := takeFree c
    respond via p status (leBytes 8 x) c
  else respond via p status [] c

/-- The header of a response item (Table 21.5). -/
def rspHeader (tag : Nat) (last : Bool) (status : Nat) : W32 := BitVec.ofNat 32 (packNat [(0, 10, tag), (10, 1, b2n last), (16, 16, status)])

/-- The items of a response: of a read that succeeds one for each line, LAST with the final one; of any other one header (R498). -/
def rspItems (ch tag status : Nat) (bs : List Byte) : List RspItem :=
  let n := bs.length / 64
  if n = 0 then [⟨ch, rspHeader tag true status, []⟩]
  else (rangeFrom 0 n).map fun k => ⟨ch, rspHeader tag (k + 1 == n) status, (bs.drop (64 * k)).take 64⟩

/-- A response on a host-port lane to a request with so many beats, whose space is free then (R429); while the lanes stand still it
waits (R499). -/
def hppAnswer (ch beats tag status : Nat) (bs : List Byte) (c : Chip) : Chip :=
  let xs := rspItems ch tag status bs
  if !hportLive c then c
  else if hpAwake c then freeGrant ch beats { c with hport.responses := c.hport.responses ++ xs }
  else freeGrant ch beats { c with hport.rspWait := c.hport.rspWait ++ xs }

/-- A request that host memory serves waits for it; `reqs` are its pieces: offset and data, or offset and length. -/
def startProxy (via : Nat) (p : Packet) (kind : ReqKind) (reqs : List (Nat × Nat × List Byte)) (c : Chip) : Chip :=
  let id := c.tlk.nextProxy
  let c := { c with
    tlk.nextProxy := id + 1
    tlk.proxies := c.tlk.proxies ++ [{ id := id, via := via, pkt := p, cells := [], status := 0 }] }
  reqs.foldl (fun c r => askRange (.serve id) kind (gaddr selfLcn r.1) r.2.1 r.2.2 vcData c) c

/-- Sends the answer of a request for which host memory has answered everything. -/
def answerProxy (x : Proxy) (c : Chip) : Chip :=
  let c := { c with tlk.proxies := c.tlk.proxies.filter fun y => y.id != x.id }
  let base := gaddr selfLcn x.pkt.addr
  let bs := if x.pkt.ty = tyRD ∧ x.status = 0 then
      (rangeFrom 0 x.pkt.len).map fun i => SMap.get 0#8 x.cells (byteAddr base i)
    else []
  if 5 ≤ x.via then
    hppAnswer (x.via - 5) (if x.pkt.ty = tyWR then x.pkt.len / 64 else 0) x.pkt.tag x.status bs
      (if x.status = 0 then c else { c with hport.inbRefused := satAdd 16 c.hport.inbRefused 1 })
  else respond x.via x.pkt x.status bs c

/-- Answers every request whose host-memory accesses have all come back. -/
def answerProxies (c : Chip) : Chip :=
  (c.tlk.proxies.filter fun x => reqsOf c (.serve x.id) == 0).foldl (fun c x => answerProxy x c) c

/-! ## Packets at their destination (R415, R416) -/

/-- Serves a request packet that has passed the first two checks. -/
def servePacket (via : Nat) (p : Packet) (c : Chip) : Chip :=
  let b (i k : Nat) : Nat := leNat ((p.payload.drop i).take k)
  if p.ty = tyAMO then
    match serveAmo 5 (b 0 1) (b 1 1) p.addr (b 8 8) (b 16 8) c with
    | (.ok old, c) => respond via p 0 (leBytes 8 old) c
    | (.error (pg, k), c) => refusePacket via p (faultCode pg k) (noteRefusal pg k c)
  else
    let r := if p.ty = tyRD then serveRd false p.addr p.len c
      else serveWr false false p.addr p.len (cellsAt p.addr p.payload) c
    match r with
    | (.done bs, c) => respond via p 0 bs c
    | (.refuse pg k, c) => refusePacket via p (faultCode pg k) (noteRefusal pg k c)
    | (.host off, c) =>
      startProxy via { p with addr := off } (if p.ty = tyRD then .rd else .wr) [(off, p.len, p.payload)] c

/-- A request packet other than SIG at its destination: route epoch, guards, service. -/
def checkPacket (via : Nat) (p : Packet) (c : Chip) : Chip :=
  if !p.v12 && epochOlder p.rEpoch c.sync.epochMin then
    refusePacket via p (faultCode pTLK .routeEpoch) (pageFault pTLK .routeEpoch c)
  else if (p.ty = tyWR ∨ p.ty = tyAMO) ∧ guardDrops c p then
    refusePacket via p (faultCode pTLK .layoutStale) (countGuard p.src c)
  else servePacket via p c

/-- The signal that a SIG packet carries. -/
def sigOf (p : Packet) : InSig :=
  let b (i k : Nat) : Nat := leNat ((p.payload.drop i).take k)
  { src := p.src, job := bits (b 0 2) 0 12, ctr := b 2 2, inc := b 4 2, epoch := p.rEpoch, tRaise := b 8 8, untimed := p.v12
    target := 0 }

/-- A signal whose translation must be read from LMEM: its job names a context and the cache does not hold its counter
(R175). -/
def sigMisses (c : Chip) (x : InSig) : Bool :=
  !(!x.untimed && epochOlder x.epoch c.sync.epochMin) &&
    (match jobCtx c x.job with
      | some n => x.ctr != noCtr && (SMap.get none c.sync.tcache (tcKey n x.ctr)).isNone
      | none => false)

/-- Applies the signal of a SIG packet and answers it. -/
def serveSig (via : Nat) (p : Packet) (c : Chip) : Chip :=
  let (status, c) := applySignal (sigOf p) c
  respond via p status [] c

/-- The kind of request that a response type answers. -/
def answersKind (ty : Nat) (k : ReqKind) : Bool :=
  match k with
  | .rd => ty == tyRDDATA
  | .wr => ty == tyWRACK
  | .amo => ty == tyAMORSP
  | .sig => ty == tySIGACK

/-- A response packet at its requester (R416); one that answers nothing is ignored. -/
def responseArrives (p : Packet) (c : Chip) : Chip :=
  match c.tlk.out.find? fun r => r.tag == p.tag && answersKind p.ty r.kind with
  | none => c
  | some r =>
    if p.status = 0 ∧ r.kind = .rd ∧ p.payload.length ≠ r.len then c
    else
      deliver r p.status p.payload { c with
        tlk.out := c.tlk.out.filter fun q => q.tag != p.tag
        sync.held := c.sync.held.filter fun x => x.sent != some p.tag }

/-! ## Arrival (R409, R413, R434) -/

/-- A request, a response or a link message. -/
def knownType (ty : Nat) : Bool :=
  decide (1 ≤ ty ∧ ty ≤ 4) || decide (0x81 ≤ ty ∧ ty ≤ 0x84) || decide (0xC1 ≤ ty ∧ ty ≤ 0xC4)

/-- The channel that a packet type uses (Table 17.4). -/
def vcSuits (p : Packet) : Bool :=
  if p.ty = tyWR then p.vc == vcData || (p.vc == vcSnap && !p.v12)
  else if p.ty = tyRD ∨ p.ty = tyAMO then p.vc == vcData
  else if p.ty = tySIG then p.vc == vcSignal
  else p.vc == vcCtrl

/-- A packet after which a receiver no longer trusts the stream (R409, Table 17.5). -/
def packetBad (p : Packet) : Bool :=
  !knownType p.ty || p.res0 || !vcSuits p || decide ((if p.v12 then 1024 else 4096) < p.len)
    || (decide (p.ty = tyWR ∨ p.ty = tyRD) && decide (4096 < p.addr % 4096 + p.len))
    || (decide (p.ty = tyAMO) && decide (4096 < p.addr % 4096 + 2 ^ (leNat ((p.payload.drop 1).take 1) % 8)))

/-- The receive buffer that a packet takes on a port until it has been dealt with; responses take none (R410, R411). -/
def rxHeld (via : Nat) (p : Packet) : Option (Nat × Nat × Nat) :=
  if via < 4 ∧ !pktIsResponse p then some (via, p.vc, pktCredits p) else none

/-- A packet has been dealt with: its receive buffer is free. -/
def rxFree (via : Nat) (p : Packet) (c : Chip) : Chip :=
  match rxHeld via p with
  | some (n, vc, k) => owe n vc k c
  | none => c

/-- A packet in transit (R413); it keeps its receive buffer until it leaves. A request that no PEER holds cannot leave on the fabric.
DESIGN CHOICE (log 114). -/
def transitPacket (via : Nat) (p : Packet) (c : Chip) : Chip :=
  let down (c : Chip) : Chip :=
    rxFree via p (if pktIsRequest p then refusePacket via p (faultCode pTLK .linkDown) c else c)
  match routeOf c p.dst with
  | .egress eg =>
    if p.hops = 0 then down { c with tlk.loop := satAdd 16 c.tlk.loop 1 }
    else if eg = 4 ∧ pktIsRequest p ∧ !fitsPeer p then down c
    else if eg ≤ 4 then transmitFrom (rxHeld via p) eg { p with hops := p.hops - 1 } c
    else rxFree via p c
  | _ => down { c with tlk.noroute := satAdd 16 c.tlk.noroute 1 }

/-- The core is in P1 or P2. -/
def asleep (c : Chip) : Bool := c.pwr.state != 0

/-- The access is one of a control page that the always-on domain serves (R459). -/
def alwaysOn (off : Nat) : Bool := (pageAt off).any fun x => pageAlwaysOn x.1

/-- Keeps a command until a warm start has released the sequencer, or wakes the core for it (R461, R471). -/
def holdFor (row : Nat) (i : Instr) (c : Chip) : Chip :=
  if inWarm c then { c with pwr.wakeCmds := c.pwr.wakeCmds ++ [i] } else holdWake row i c

/-- A packet for this core (R415, R416, R461). -/
def ownPacket (via : Nat) (hold : Instr) (p : Packet) (c : Chip) : Chip :=
  if pktIsResponse p then responseArrives p c
  else if p.ty = tySIG then
    (if (asleep c || inWarm c) && sigMisses c (sigOf p) then holdFor 6 hold c else rxFree via p (serveSig via p c))
  else if inWarm c || (asleep c && !alwaysOn p.addr) then holdFor 5 hold c
  else rxFree via p (checkPacket via p c)

/-- A packet that is neither malformed nor a link message: for this core, or in transit. Before the first SWAP there is no own
LCN, and every request is refused (R434). -/
def routePacket (via : Nat) (hold : Instr) (p : Packet) (c : Chip) : Chip :=
  match ownLcn c with
  | none =>
    rxFree via p (if pktIsRequest p then refusePacket via p (faultCode pTLK .addrUnmapped) (pageFault pTLK .addrUnmapped c) else c)
  | some own => if p.dst = own then ownPacket via hold p c else transitPacket via p c

/-- The command that names a packet on a port. -/
def packetRow (n : Nat) (p : Packet) : Instr :=
  match p.ty with
  | 0x01 => .wr n p
  | 0x02 => .rd n p
  | 0x03 => .amo n p
  | _ => .sig n p

/-- A packet of a port's stream: only NEGOTIATE counts before a version is agreed. -/
def portPacket (n : Nat) (p : Packet) (c : Chip) : Chip :=
  let x := portOf c n
  if Config.ports ≤ n then c
  else if packetBad p then (if x.streaming then portDown n .failed .linkDown c else c)
  else if p.ty = tyNEGOTIATE then rxFree n p (portNegotiate n p c)
  else if x.st ≠ .up then c
  else if p.ty = tyTIMESYNC then rxFree n p (timeSync n p c)
  else if p.ty = tyTIMEREPLY then rxFree n p (timeReply n p c)
  else if p.ty = tyCLOSE then portClose n (rxFree n p c)
  else routePacket n (packetRow n p) p c

/-- A packet that a command names on a port, with the type of the command and the form of the port. -/
def namedPacket (n ty : Nat) (p : Packet) (c : Chip) : Chip :=
  if (portOf c n).streaming then
    portPacket n { p with ty := ty, v12 := decide (ty = tyNEGOTIATE) || decide ((portOf c n).ver = 1) } c
  else c

/-! ## Flits (R402, R404, R409) -/

/-- The next packet of a port's stream, if all of it has arrived, and the stream after it. PAD bytes are skipped. -/
def takePacket (v12 : Bool) (bs : List Byte) : List Byte × Option Packet :=
  let bs := bs.dropWhile fun b => b == 0#8
  let h := headerLen v12
  if bs.length < h then (bs, none)
  else
    let p := packetOf v12 bs
    let n := h + (if p.ty = tyRD then 0 else p.len)
    if knownType p.ty && decide (bs.length < n) then (bs, none) else (bs.drop n, some p)

/-- Hands on the packets of a port's stream while it is trusted. -/
def rxPackets (n : Nat) : Nat → Chip → Chip
  | 0, c => c
  | fuel + 1, c =>
    let x := portOf c n
    if !x.streaming then c
    else
      match takePacket (decide (x.st = .negotiate) || decide (x.ver = 1)) x.rx with
      | (bs, none) => updPort n (fun x => { x with rx := bs }) c
      | (bs, some p) => rxPackets n fuel (portPacket n p (updPort n (fun x => { x with rx := bs }) c))

/-- FLIT_DATA: the flit that is expected is accepted, with its ACK and credits; any other is discarded and asks for a replay. -/
def flitData (n : Nat) (f : FlitIn) (c : Chip) : Chip :=
  if !flitFits c n f then c
  else
    match flitArrives n 1 f c with
    | (none, c) => c
    | (some bs, c) =>
      let s := bits (leNat (bs.take 5)) 4 12
      if s = ((portOf c n).rxSeq + 1) % 4096 then
        let c := flitAck n bs (updPort n (fun x => { x with rxSeq := s, rxLost := false, rx := x.rx ++ (bs.drop 5).take 331 }) c)
        rxPackets n (portOf c n).rx.length c
      else flitLost n c

/-! ## Inbound host-port requests (R425, R427, R499) -/

/-- When an inbound request on a lane is served: at once in P0 and, for what the always-on domain serves, in P1; otherwise the
core wakes for it; during a start it is held and served once the lanes run. -/
def hppGate (hold : Instr) (quick : Bool) (f : Chip → Chip) (c : Chip) : Chip :=
  match c.core.phase with
  | .running => if c.pwr.state = 0 ∨ (c.pwr.state = 1 ∧ quick) then f c else holdWake 5 hold c
  | .warm _ => { c with pwr.wakeCmds := c.pwr.wakeCmds ++ [hold] }
  | .cold k => if 4 ≤ k then f c else { c with pwr.wakeCmds := c.pwr.wakeCmds ++ [hold] }
  | _ => c

/-- The answer to a lane request that the core refuses. -/
def hppRefuse (ch beats : Nat) (q : HppReq) (pg : Nat) (k : Cause) (c : Chip) : Chip :=
  hppAnswer ch beats q.tag (faultCode pg k) []
    (noteRefusal pg k { c with hport.inbRefused := satAdd 16 c.hport.inbRefused 1 })

/-- An inbound request and its beats come on a lane: against the core's grants, of which the host has at least as many (R429); from
step 6 of a detach on they are refused with LINK_DOWN (R433). -/
def hppTake (ch beats : Nat) (q : HppReq) (f : Chip → Chip) (c : Chip) : Chip :=
  if c.hport.channels ≤ ch ∨ !hportLive c ∨ !pwrRuns c then c
  else if SMap.get 0 c.hport.grant (2 * ch) = 0 ∨ SMap.get 0 c.hport.grant (2 * ch + 1) < beats then c
  else
    let c := takeGrant (2 * ch + 1) beats (takeGrant (2 * ch) 1 c)
    if c.hport.refusing then hppRefuse ch beats q pHPORT .linkDown c else f c

/-- A lane request keeps the rules of Table 17.9: whole lines in one 4 KiB block, no more than the agreed version allows. -/
def hppShape (c : Chip) (q : HppReq) : Bool :=
  decide (q.lines + 1 ≤ c.hport.maxLines ∧ q.addr % 4096 + 64 * (q.lines + 1) ≤ 4096)

/-- The packet form in which a proxy remembers a lane request. -/
def hppPacket (q : HppReq) (ty off n : Nat) : Packet :=
  { ty := ty, vc := vcData, hops := 0, dst := 0, src := 0, tag := q.tag, status := 0, rEpoch := 0, lEpoch := 0, addr := off
    len := n, payload := [], v12 := false, res0 := false, rsh := false }

/-- HPP_RD. A control page is read one register at a time, that of the address; the rest of the line is zero. -/
def hppRdServe (ch : Nat) (q : HppReq) (c : Chip) : Chip :=
  let n := 64 * (q.lines + 1)
  if (pageAt q.addr).isSome then
    if q.lines = 0 ∧ q.addr % 8 = 0 then
      match serveRd true q.addr 8 c with
      | (.done bs, c) =>
        hppAnswer ch 0 q.tag 0 (List.replicate (q.addr % 64) 0#8 ++ bs ++ List.replicate (56 - q.addr % 64) 0#8) c
      | (.refuse pg k, c) => hppRefuse ch 0 q pg k c
      | (.host _, c) => c
    else hppRefuse ch 0 q (unmappedPage true q.addr) .addrUnmapped c
  else if !aligned 64 q.addr || !hppShape c q then hppRefuse ch 0 q pHPORT .addrUnmapped c
  else
    match serveRd true q.addr n c with
    | (.done bs, c) => hppAnswer ch 0 q.tag 0 bs c
    | (.refuse pg k, c) => hppRefuse ch 0 q pg k c
    | (.host off, c) => startProxy (5 + ch) (hppPacket q tyRD off n) .rd [(off, n, [])] c

/-- The bytes that the beats of a write mark. -/
def beatCells (a : Nat) : List HppBeat → List (Nat × Byte)
  | [] => []
  | b :: bs =>
    (((rangeFrom 0 64).zip b.bytes).filter fun x => bitAt b.mask x.1).map (fun x => (a + x.1, x.2)) ++ beatCells (a + 64) bs

/-- Runs of cells at consecutive addresses. -/
def cellRuns (cells : List (Nat × Byte)) : List (Nat × Nat × List Byte) :=
  (runsOf (cells.map Prod.fst)).map fun r => (r.1, r.2, (cells.filter fun x => decide (r.1 ≤ x.1 ∧ x.1 < r.1 + r.2)).map Prod.snd)

/-- HPP_WR, once its beats have come. -/
def hppWrServe (ch : Nat) (q : HppReq) (beats : List HppBeat) (c : Chip) : Chip :=
  let n := 64 * (q.lines + 1)
  let cells := beatCells q.addr beats
  if beats.length ≠ q.lines + 1 then c
  else if !aligned 64 q.addr || !hppShape c q then hppRefuse ch (q.lines + 1) q (unmappedPage true q.addr) .addrUnmapped c
  else if (pageAt q.addr).isSome ∧ q.lines ≠ 0 then hppRefuse ch (q.lines + 1) q (unmappedPage true q.addr) .addrUnmapped c
  else
    match serveWr true true q.addr n cells c with
    | (.done _, c) => hppAnswer ch (q.lines + 1) q.tag 0 [] c
    | (.refuse pg k, c) => hppRefuse ch (q.lines + 1) q pg k c
    | (.host off, c) => startProxy (5 + ch) (hppPacket q tyWR off n) .wr (cellRuns cells) c

/-- HPP_RD once it has been taken. -/
def hppRdIn (ch : Nat) (q : HppReq) (c : Chip) : Chip := hppGate (.hppRd ch q) (alwaysOn q.addr) (hppRdServe ch q) c

/-- HPP_RD as it arrives. -/
def hppRd (ch : Nat) (q : HppReq) (c : Chip) : Chip := hppTake ch 0 q (hppRdIn ch q) c

/-- HPP_WR once it has been taken. -/
def hppWrIn (ch : Nat) (q : HppReq) (beats : List HppBeat) (c : Chip) : Chip :=
  hppGate (.hppWr ch q beats) (alwaysOn q.addr) (hppWrServe ch q beats) c

/-- HPP_WR as it arrives. -/
def hppWr (ch : Nat) (q : HppReq) (beats : List HppBeat) (c : Chip) : Chip :=
  hppTake ch (q.lines + 1) q (hppWrIn ch q beats) c

/-- A PEER request keeps the rules of Table 17.9: its beats hold its packet, its LCN is that of the packet's source, its ADDR is 0,
and it carries no link message, which has no meaning on the fabric. -/
def peerOk (c : Chip) (q : HppReq) (p : Packet) : Bool :=
  !packetBad p && decide (p.ty < 0xC1 ∧ q.lines + 1 ≤ c.hport.maxLines ∧ q.addr = 0) && q.lines + 1 == peerBeats p && q.lcn == p.src

/-- PEER: a packet from the fabric is handled as from a port, and the request that carries it is answered unless it waits; one
that breaks Table 17.9 is refused (log 90). -/
def hppPeerServe (ch : Nat) (q : HppReq) (p : Packet) (c : Chip) : Chip :=
  let p := { p with v12 := false }
  if !peerOk c q p then hppRefuse ch (q.lines + 1) q pHPORT .addrUnmapped c
  else
    let d := routePacket 4 (.hppPeer ch q p) p c
    if c.pwr.wakeCmds.length < d.pwr.wakeCmds.length then d else hppAnswer ch (q.lines + 1) q.tag 0 [] d

/-- HPP_PEER once it has been taken. -/
def hppPeerIn (ch : Nat) (q : HppReq) (p : Packet) (c : Chip) : Chip := hppGate (.hppPeer ch q p) true (hppPeerServe ch q p) c

/-- HPP_PEER as it arrives; a port that has not agreed on PEER ignores the reserved TYPE. -/
def hppPeer (ch : Nat) (q : HppReq) (p : Packet) (c : Chip) : Chip :=
  if c.hport.peer then hppTake ch (q.lines + 1) q (hppPeerIn ch q p) c else c

/-! ## The sideband and REGACC (R431, R506) -/

/-- Sends a REG_RSP. -/
def regRsp (status : Nat) (v : W64) (c : Chip) : Chip :=
  sbSend 0x0A status [v.setWidth 32, (v >>> 32).setWidth 32] c

/-- The sideband carries messages. -/
def sbLive (c : Chip) : Bool :=
  match c.core.phase with
  | .cold k => decide (2 ≤ k)
  | .warm _ => true
  | .running => true
  | _ => false

/-- A sideband access waits for the core to wake, and later ones wait behind it. -/
def sbWaits (c : Chip) : Bool :=
  c.pwr.wakeCmds.any fun i => match i with
    | .regRd _ => true
    | .regWr _ _ => true
    | _ => false

/-- A sideband access may be made: its offset is good and, before step 5 of a cold start, on the CORE page. -/
def sbAllowed (c : Chip) (off : Nat) : Bool :=
  pageAccessOk off 8 && (match c.core.phase with
    | .cold k => decide (5 ≤ k) || (pageAt off).any fun x => x.1 == pCORE
    | _ => true)

/-- Serves a sideband access: a read, or the write of a value. -/
def sbServe (off : Nat) (v : Option W64) (c : Chip) : Chip :=
  if sbAllowed c off then
    match pageAt off, v with
    | some (p, o), none =>
      let (x, c) := pageRead p o c
      regRsp 0 x c
    | some (p, o), some v => regRsp 0 0#64 (pageWrite 0xFFFF p o v c)
    | none, _ => c
  else regRsp (faultCode (((pageAt off).map Prod.fst).getD pCORE) .addrUnmapped) 0#64 c

/-- REG_RD and REG_WR as they arrive. -/
def sbAccess (off : Nat) (v : Option W64) (hold : Instr) (c : Chip) : Chip :=
  if !sbLive c then c
  else if sbWaits c then { c with pwr.wakeCmds := c.pwr.wakeCmds ++ [hold] }
  else if isUp c && asleep c && sbAllowed c off && !alwaysOn off then holdWake 5 hold c
  else sbServe off v c

/-- The access of REGACC. -/
def regaccServe (v : W64) (write : Bool) (off : Nat) (c : Chip) : Chip :=
  match (if pageAccessOk off 8 then pageAt off else none) with
  | none => { c with wrap.accStatus := 2 }
  | some (p, o) =>
    if write then
      let c := pageWrite 0xFFFF p o v c
      { c with wrap.accStatus := 1 }
    else
      let (x, c) := pageRead p o c
      { c with wrap.accStatus := 1, wrap.accData := x }

/-- The one access of an update with GO, from P0, P1 or P2; outside them it stays busy. -/
def regaccGo (v : W64) (write : Bool) (off : Nat) (c : Chip) : Chip :=
  match c.core.phase with
  | .running =>
    if asleep c && pageAccessOk off 8 && !alwaysOn off then holdWake 5 (.regacc v true write off) c else regaccServe v write off c
  | .warm _ => { c with pwr.wakeCmds := c.pwr.wakeCmds ++ [.regacc v true write off] }
  | _ => c

/-- REGACC: its instruction and data registers, and with GO its access. -/
def regacc (v : W64) (go write : Bool) (off : Nat) (c : Chip) : Chip :=
  let c := { c with wrap := { c.wrap with instr := 0x11, accOff := off, accWrite := write, accData := v, accStatus := if go then 3 else 0 } }
  if go then regaccGo v write off c else c

/-! ## Register writes that wake the core -/

/-- A register write by a command of its own: in P1 and P2 one to a page that is not always on is a wake event (Table
19.4). -/
def regCommand (p off : Nat) (v : W64) (c : Chip) : Chip :=
  if !isUp c ∨ 20 ≤ p ∨ 0x10000 ≤ off ∨ off % 8 ≠ 0 then c
  else if asleep c && !pageAlwaysOn p then holdWake 5 (.registerWrite p off v) c
  else pageWrite 0xFFFF p off v c

end Sys2Proof.Machine
end

