-- ==== Sys2Proof/Machine/Operands.lean ====
section
/-! DEFINITION. The operand forms of sequencer instructions: the fields of each class (Tables 4.6 and 4.7), which fields an
operation uses and which must be zero (R113), the guard (R112), and the rules by which an instruction issues or waits (R98,
R99). -/

namespace Sys2Proof.Machine

/-! ## Fields -/

def opRd (o : SeqOp) : Nat := o.rd.toNat
def opRa (o : SeqOp) : Nat := o.ra.toNat
def opLow (o : SeqOp) (lo w : Nat) : Nat := bits o.low.toNat lo w
/-- RB, of every class but ALUI, BR and SUM. -/
def opRb (o : SeqOp) : Nat := opLow o 35 5
/-- RC of ALU and SYS, and SLOT of RING. -/
def opRc (o : SeqOp) : Nat := opLow o 30 5
/-- IMM40 sign-extended. -/
def opImm (o : SeqOp) : W64 := sextW 40 o.low.toNat
def opSize (o : SeqOp) : Nat := opLow o 32 3
def opSx (o : SeqOp) : Bool := o.low.toNat.testBit 31
def opIdx (o : SeqOp) : Bool := o.low.toNat.testBit 30
def opOff30 (o : SeqOp) : W64 := sextW 30 o.low.toNat
def opOff25 (o : SeqOp) : W64 := sextW 25 o.low.toNat
def opAmoRc (o : SeqOp) : Nat := opLow o 25 5
def opOff32 (o : SeqOp) : W64 := sextW 32 o.low.toNat
def opWord (o : SeqOp) : Nat := opLow o 25 5
def opCtr16 (o : SeqOp) : Nat := opLow o 19 16
def opCr (o : SeqOp) : Bool := o.low.toNat.testBit 18
def opLine (o : SeqOp) : Nat := opLow o 15 3
def opFk (o : SeqOp) : Nat := opLow o 13 2
/-- RT of SUM. -/
def opRt (o : SeqOp) : Nat := opLow o 35 5
def opPd (o : SeqOp) : Nat := opLow o 32 3
def opPage (o : SeqOp) : Nat := opLow o 25 5
def opOff16 (o : SeqOp) : Nat := opLow o 9 16

/-! ## Legal fields (R113) -/

/-- How an operation uses a register field: not at all, as a register, or as a predicate in its low three bits. -/
inductive Use where
  | no | reg | pred
deriving DecidableEq, Repr

/-- A field value that its use allows. -/
def Use.ok (u : Use) (v : Nat) : Bool :=
  match u with
  | .no => v == 0
  | .reg => true
  | .pred => decide (v < 8)

/-- The register that a field names. -/
def Use.regs (u : Use) (v : Nat) : List Nat :=
  match u with
  | .reg => [v]
  | _ => []

/-- What an instruction needs to be legal and to issue: whether its fields are legal, the registers that it reads or writes,
and whether it makes a load, or a store or atomic. -/
structure SeqForm where
  legal : Bool
  regs : List Nat
  load : Bool
  store : Bool

/-- An arithmetic operation: the classes it exists in and the use of its fields; `keep` for one that also reads rd, `imm` the
width of the immediate where it is not the whole of IMM40. -/
structure AluForm where
  alu : Bool
  alui : Bool
  rd : Use
  ra : Use
  rb : Use
  rc : Use
  imm : Nat

/-- ALU and ALUI (Tables 4.7 and 4.8). -/
def AluForm.form (f : AluForm) (o : SeqOp) : SeqForm :=
  let both := f.rd.ok (opRd o) && f.ra.ok (opRa o)
  { legal := both &&
      (if o.alui then f.alui && decide (opLow o 0 40 < 2 ^ f.imm)
       else f.alu && f.rb.ok (opRb o) && f.rc.ok (opRc o) && opLow o 0 30 == 0)
    regs := f.rd.regs (opRd o) ++ f.ra.regs (opRa o) ++
      (if o.alui then [] else f.rb.regs (opRb o) ++ f.rc.regs (opRc o))
    load := false, store := false }

/-- Operations of two sources in class ALU and, where `i`, also in ALUI. -/
def alu2 (i : Bool) (rd : Use) : AluForm := ⟨true, i, rd, .reg, .reg, .no, 40⟩
/-- Operations of one source, ALU only. -/
def alu1 (rd : Use) : AluForm := ⟨true, false, rd, .reg, .no, .no, 40⟩
/-- Operations of three sources, ALU only. -/
def alu3 : AluForm := ⟨true, false, .reg, .reg, .reg, .reg, 40⟩
/-- Operations on two predicates, ALU only. -/
def aluP : AluForm := ⟨true, false, .pred, .pred, .pred, .no, 40⟩

/-- LD and ST: RB only with IDX, OFF30 only without it, SX of loads only (R116). -/
def lsForm (ld : Bool) (o : SeqOp) : SeqForm :=
  { legal := decide (opSize o ≤ 3) && (ld || !opSx o) && (if opIdx o then opLow o 0 30 == 0 else opRb o == 0)
    regs := [opRd o, opRa o] ++ (if opIdx o then [opRb o] else [])
    load := ld, store := !ld }

/-- Atomics: RC of AMOCAS only. -/
def amoForm (cas : Bool) (o : SeqOp) : SeqForm :=
  { legal := decide (opSize o ≤ 3) && opLow o 30 2 == 0 && (cas || opAmoRc o == 0)
    regs := [opRd o, opRa o, opRb o] ++ (if cas then [opAmoRc o] else [])
    load := false, store := true }

/-- Branches: `off` for those with an offset. -/
def brForm (rd ra : Use) (off : Bool) (o : SeqOp) : SeqForm :=
  { legal := rd.ok (opRd o) && ra.ok (opRa o) && opLow o 32 8 == 0 && (off || opLow o 0 32 == 0)
    regs := rd.regs (opRd o) ++ ra.regs (opRa o), load := false, store := false }

/-- RING operations: `words` is the number of values that WORD may take, 0 where WORD is not used. -/
def ringForm (rd ra rb : Use) (slot : Bool) (words : Nat) (o : SeqOp) : SeqForm :=
  { legal := rd.ok (opRd o) && ra.ok (opRa o) && rb.ok (opRb o) && (slot || opRc o == 0)
      && (if words = 0 then opWord o == 0 else decide (opWord o < words)) && opLow o 0 25 == 0
    regs := rd.regs (opRd o) ++ ra.regs (opRa o) ++ rb.regs (opRb o), load := false, store := false }

/-- How a SYNC operation names a counter. -/
inductive CtrUse where
  /-- not at all -/
  | no
  /-- by CTR16, or by s[RB] when CR = 1 -/
  | either
  /-- by CTR16, with s[RB] the target of a remote signal (SIGNALR) -/
  | remote
  /-- by CTR16, which names none or is unused and zero (BARWAIT) -/
  | bar
deriving DecidableEq, Repr

/-- SYNC operations. -/
def syncForm (rd ra : Use) (ctr : CtrUse) (line fk : Bool) (o : SeqOp) : SeqForm :=
  { legal := rd.ok (opRd o) && ra.ok (opRa o)
      && (match ctr with
        | .no => opRb o == 0 && opCtr16 o == 0 && !opCr o
        | .either => if opCr o then opCtr16 o == 0 else opRb o == 0
        | .remote => !opCr o
        | .bar => if opCr o then opCtr16 o == 0 else opRb o == 0 && (opCtr16 o == 0 || opCtr16 o == noCtr))
      && (line || opLine o == 0) && (if fk then decide (opFk o < 3) else opFk o == 0) && opLow o 0 13 == 0
    regs := rd.regs (opRd o) ++ ra.regs (opRa o) ++
      (match ctr with
        | .no => []
        | .bar => if opCr o then [opRb o] else []
        | .either => if opCr o then [opRb o] else []
        | .remote => [opRb o])
    load := false, store := false }

/-- SUM operations. -/
def sumForm (rd rt pd : Bool) (o : SeqOp) : SeqForm :=
  { legal := (rd || opRd o == 0) && opRa o == 0 && (rt || opRt o == 0) && (pd || opPd o == 0) && opLow o 0 32 == 0
    regs := [opRd o, opRt o], load := false, store := false }

/-- SYS operations: `page` for PGRD and PGWR. -/
def sysForm (rd ra rb rc : Use) (page : Bool) (o : SeqOp) : SeqForm :=
  { legal := rd.ok (opRd o) && ra.ok (opRa o) && rb.ok (opRb o) && rc.ok (opRc o)
      && (page || (opPage o == 0 && opOff16 o == 0)) && opLow o 0 9 == 0
    regs := rd.regs (opRd o) ++ ra.regs (opRa o) ++ rb.regs (opRb o) ++ rc.regs (opRc o), load := false, store := false }

/-! ## Guard and issue (R98, R99, R112) -/

/-- The guard of an instruction. -/
def guardOn (o : SeqOp) (x : Ctx) : Bool := x.pred o.gp.toNat != o.gn

/-- What keeps an instruction of a context from issuing (R99): registers that wait for the results of earlier loads and
atomics, or the limits of 8 loads and 16 unacknowledged stores and atomics. -/
def hazard (x : Ctx) (f : SeqForm) : Option MemWait :=
  let rs := f.regs.filter fun r => r != 0 && x.busy.contains r
  if !rs.isEmpty then some (.regs rs)
  else if f.load && decide (8 ≤ x.loads) then some .loadSlot
  else if f.store && decide (16 ≤ x.stores) then some .storeSlot
  else none

/-- A context has issued: its pipe looks for the next instruction from it on, and contexts of the pipe that yielded have been passed over
once more; one that is not READY is not passed over. DESIGN CHOICE (log 110). -/
def issued (n : Nat) (c : Chip) : Chip :=
  let past (k : Nat) (x : Ctx) : Ctx :=
    if k ≠ n ∧ k % Config.pipes = n % Config.pipes ∧ x.st = .ready then { x with passOver := x.passOver - 1 } else x
  { c with
    seq.lastIssued := SMap.set 0 c.seq.lastIssued (n % Config.pipes) n
    seq.ctxs := SMap.mapVal .idle past c.seq.ctxs }

/-- A context can issue: the core is awake, and the context is READY with no STOP in progress. -/
def canIssue (c : Chip) (n : Nat) : Bool :=
  isAwake c && decide (n < Config.contexts) && decide ((ctxOf c n).st = .ready) && !(ctxOf c n).stopping

/-- The context goes on to the next instruction with a change of its own state. -/
def stepPast (n : Nat) (f : Ctx → Ctx) (c : Chip) : Chip := updCtx n (fun x => { f x with pc := x.pc + 8 }) c

/-- Issues one instruction of a context: a PC that breaks R100 and illegal fields fault, a false guard only moves on, a hazard
deschedules the context, and otherwise the operation happens. -/
def seqIssue (o : SeqOp) (f : SeqForm) (act : Ctx → Chip → Chip) (c : Chip) : Chip :=
  if !canIssue c o.ctx then c
  else
    let x := ctxOf c o.ctx
    match pcFault x.pc with
    | some k => faultHere o.ctx k c
    | none =>
      if !f.legal then faultHere o.ctx .isaIllegal (issued o.ctx c)
      else if !guardOn o x then stepPast o.ctx id (issued o.ctx c)
      else
        match hazard x f with
        | some w => waitOn o.ctx (.memory w) c
        | none => act (ctxOf (issued o.ctx c) o.ctx) (issued o.ctx c)

end Sys2Proof.Machine
end

