-- ==== Sys2Proof/Machine/SeqAlu.lean ====
section
/-! DEFINITION. Arithmetic of the sequencer: classes ALU and ALUI (R115, Table 4.8), one operation per mnemonic over three
shared forms: a register result, a predicate result, and FP64. -/

namespace Sys2Proof.Machine

/-! ## Shared forms -/

/-- The second operand: s[RB], or the immediate in class ALUI. -/
def aluB (o : SeqOp) (x : Ctx) : W64 := if o.alui then opImm o else x.reg (opRb o)

/-- An operation that writes rd. -/
def aluReg (f : AluForm) (g : W64 → W64 → W64 → W64 → W64) (o : SeqOp) (c : Chip) : Chip :=
  seqIssue o (f.form o) (fun x =>
    stepPast o.ctx fun y =>
      y.setReg (opRd o) (g (x.reg (opRa o)) (aluB o x) (x.reg (opRc o)) (x.reg (opRd o)))) c

/-- An operation that writes pd. -/
def aluPred (f : AluForm) (g : W64 → W64 → Bool) (o : SeqOp) (c : Chip) : Chip :=
  seqIssue o (f.form o) (fun x =>
    stepPast o.ctx fun y => y.setPred (opRd o) (g (x.reg (opRa o)) (aluB o x))) c

/-- An operation on two predicates. -/
def predOp (g : Bool → Bool → Bool) (o : SeqOp) (c : Chip) : Chip :=
  seqIssue o (aluP.form o) (fun x =>
    stepPast o.ctx fun y => y.setPred (opRd o) (g (x.pred (opRa o)) (x.pred (opRb o)))) c

/-- The FP64 value of a register (R53, R54). -/
def f64 (v : W64) : XNum := fp64.decode v.toNat

/-- An FP64 result rounded to nearest, ties to even, with the canonical NaN (R39, R115). -/
def to64 (v : XNum) : W64 := BitVec.ofNat 64 (fp64.encode .rne false 0 v)

/-- Width of a bit field: min(c[6:0], 64 − p). -/
def fieldWidth (p : Nat) (c : W64) : Nat := min (c.toNat % 128) (64 - p)

/-- FP64 to INT64: rounded to nearest even, saturating, NaN 0. -/
def f64ToInt (v : XNum) : W64 :=
  match v with
  | .nan => 0#64
  | .inf neg => if neg then w64 (-(2 ^ 63)) else w64 (2 ^ 63 - 1)
  | v => w64 (max (-(2 ^ 63)) (min (2 ^ 63 - 1) ((XNum.toInt? .rne 0 v).getD 0)))

/-! ## Integer operations -/

/-- ADD. -/
def seqAdd (o : SeqOp) (c : Chip) : Chip :=
  aluReg (alu2 true .reg) (fun a b _ _ => a + b) o c

/-- SUB. -/
def seqSub (o : SeqOp) (c : Chip) : Chip :=
  aluReg (alu2 false .reg) (fun a b _ _ => a - b) o c

/-- MUL. -/
def seqMul (o : SeqOp) (c : Chip) : Chip :=
  aluReg (alu2 true .reg) (fun a b _ _ => a * b) o c

/-- MULHU. -/
def seqMulhu (o : SeqOp) (c : Chip) : Chip :=
  aluReg (alu2 false .reg) (fun a b _ _ => BitVec.ofNat 64 ((a.toNat * b.toNat) >>> 64)) o c

/-- MULHS. -/
def seqMulhs (o : SeqOp) (c : Chip) : Chip :=
  aluReg (alu2 false .reg) (fun a b _ _ => w64 ((a.toInt * b.toInt).fdiv (2 ^ 64))) o c

/-- DIVU. -/
def seqDivu (o : SeqOp) (c : Chip) : Chip :=
  aluReg (alu2 false .reg) (fun a b _ _ => if b = 0#64 then BitVec.allOnes 64 else a / b) o c

/-- DIVS. -/
def seqDivs (o : SeqOp) (c : Chip) : Chip :=
  aluReg (alu2 false .reg) (fun a b _ _ => if b = 0#64 then BitVec.allOnes 64 else w64 (a.toInt.tdiv b.toInt)) o c

/-- REMU. -/
def seqRemu (o : SeqOp) (c : Chip) : Chip :=
  aluReg (alu2 false .reg) (fun a b _ _ => if b = 0#64 then a else a % b) o c

/-- REMS. -/
def seqRems (o : SeqOp) (c : Chip) : Chip :=
  aluReg (alu2 false .reg) (fun a b _ _ => if b = 0#64 then a else w64 (a.toInt.tmod b.toInt)) o c

/-- AND. -/
def seqAnd (o : SeqOp) (c : Chip) : Chip :=
  aluReg (alu2 true .reg) (fun a b _ _ => a &&& b) o c

/-- OR. -/
def seqOr (o : SeqOp) (c : Chip) : Chip :=
  aluReg (alu2 true .reg) (fun a b _ _ => a ||| b) o c

/-- XOR. -/
def seqXor (o : SeqOp) (c : Chip) : Chip :=
  aluReg (alu2 true .reg) (fun a b _ _ => a ^^^ b) o c

/-- ANDN. -/
def seqAndn (o : SeqOp) (c : Chip) : Chip :=
  aluReg (alu2 false .reg) (fun a b _ _ => a &&& ~~~b) o c

/-- SHL. -/
def seqShl (o : SeqOp) (c : Chip) : Chip :=
  aluReg (alu2 true .reg) (fun a b _ _ => a <<< (b.toNat % 64)) o c

/-- SHR. -/
def seqShr (o : SeqOp) (c : Chip) : Chip :=
  aluReg (alu2 true .reg) (fun a b _ _ => a >>> (b.toNat % 64)) o c

/-- SAR. -/
def seqSar (o : SeqOp) (c : Chip) : Chip :=
  aluReg (alu2 true .reg) (fun a b _ _ => a.sshiftRight (b.toNat % 64)) o c

/-- ROL. -/
def seqRol (o : SeqOp) (c : Chip) : Chip :=
  aluReg (alu2 false .reg) (fun a b _ _ => a.rotateLeft (b.toNat % 64)) o c

/-- MIN. -/
def seqMin (o : SeqOp) (c : Chip) : Chip :=
  aluReg (alu2 false .reg) (fun a b _ _ => if a.toInt ≤ b.toInt then a else b) o c

/-- MAX. -/
def seqMax (o : SeqOp) (c : Chip) : Chip :=
  aluReg (alu2 false .reg) (fun a b _ _ => if a.toInt ≤ b.toInt then b else a) o c

/-- MINU. -/
def seqMinu (o : SeqOp) (c : Chip) : Chip :=
  aluReg (alu2 false .reg) (fun a b _ _ => if a.toNat ≤ b.toNat then a else b) o c

/-- MAXU. -/
def seqMaxu (o : SeqOp) (c : Chip) : Chip :=
  aluReg (alu2 false .reg) (fun a b _ _ => if a.toNat ≤ b.toNat then b else a) o c

/-- CLZ. -/
def seqClz (o : SeqOp) (c : Chip) : Chip :=
  aluReg (alu1 .reg) (fun a _ _ _ => BitVec.ofNat 64 (if a = 0#64 then 64 else 63 - Nat.log2 a.toNat)) o c

/-- CTZ. -/
def seqCtz (o : SeqOp) (c : Chip) : Chip :=
  aluReg (alu1 .reg) (fun a _ _ _ => BitVec.ofNat 64 (((rangeFrom 0 64).takeWhile fun i => !bitAt a i).length)) o c

/-- POPC. -/
def seqPopc (o : SeqOp) (c : Chip) : Chip :=
  aluReg (alu1 .reg) (fun a _ _ _ => BitVec.ofNat 64 (((rangeFrom 0 64).filter fun i => bitAt a i).length)) o c

/-- SEL. -/
def seqSel (o : SeqOp) (c : Chip) : Chip :=
  aluReg alu3 (fun a b c _ => if c = 0#64 then b else a) o c

/-- MADD. -/
def seqMadd (o : SeqOp) (c : Chip) : Chip :=
  aluReg alu3 (fun a b c _ => a * b + c) o c

/-- BFX. -/
def seqBfx (o : SeqOp) (c : Chip) : Chip :=
  aluReg alu3 (fun a b c _ => let p := b.toNat % 64; BitVec.ofNat 64 (bits a.toNat p (fieldWidth p c))) o c

/-- BFI. -/
def seqBfi (o : SeqOp) (c : Chip) : Chip :=
  aluReg alu3 (fun a b c d =>
    let p := b.toNat % 64
    maskWrite (maskOf [(p, fieldWidth p c)]) d (a <<< p)) o c

/-- CMPEQ. -/
def seqCmpeq (o : SeqOp) (c : Chip) : Chip :=
  aluPred (alu2 true .pred) (fun a b => a == b) o c

/-- CMPNE. -/
def seqCmpne (o : SeqOp) (c : Chip) : Chip :=
  aluPred (alu2 true .pred) (fun a b => a != b) o c

/-- CMPLT. -/
def seqCmplt (o : SeqOp) (c : Chip) : Chip :=
  aluPred (alu2 true .pred) (fun a b => decide (a.toInt < b.toInt)) o c

/-- CMPLE. -/
def seqCmple (o : SeqOp) (c : Chip) : Chip :=
  aluPred (alu2 true .pred) (fun a b => decide (a.toInt ≤ b.toInt)) o c

/-- CMPLTU. -/
def seqCmpltu (o : SeqOp) (c : Chip) : Chip :=
  aluPred (alu2 true .pred) (fun a b => decide (a.toNat < b.toNat)) o c

/-- CMPLEU. -/
def seqCmpleu (o : SeqOp) (c : Chip) : Chip :=
  aluPred (alu2 true .pred) (fun a b => decide (a.toNat ≤ b.toNat)) o c

/-! ## Predicates -/

/-- PAND. -/
def seqPand (o : SeqOp) (c : Chip) : Chip := predOp (fun p q => p && q) o c

/-- POR. -/
def seqPor (o : SeqOp) (c : Chip) : Chip := predOp (fun p q => p || q) o c

/-- PXOR. -/
def seqPxor (o : SeqOp) (c : Chip) : Chip := predOp (fun p q => p != q) o c

/-- PANDN. -/
def seqPandn (o : SeqOp) (c : Chip) : Chip := predOp (fun p q => p && !q) o c

/-- MOVP. -/
def seqMovp (o : SeqOp) (c : Chip) : Chip :=
  seqIssue o (AluForm.form ⟨true, false, .reg, .no, .no, .no, 40⟩ o) (fun x =>
    stepPast o.ctx fun y => y.setReg (opRd o) x.predWord) c

/-- MOVTP. -/
def seqMovtp (o : SeqOp) (c : Chip) : Chip :=
  seqIssue o ((alu1 .no).form o) (fun x => stepPast o.ctx fun y => y.setPreds (x.reg (opRa o))) c

/-! ## FP64 -/

/-- FADD. -/
def seqFadd (o : SeqOp) (c : Chip) : Chip :=
  aluReg (alu2 false .reg) (fun a b _ _ => to64 (XNum.add (f64 a) (f64 b))) o c

/-- FSUB. -/
def seqFsub (o : SeqOp) (c : Chip) : Chip :=
  aluReg (alu2 false .reg) (fun a b _ _ => to64 (XNum.sub (f64 a) (f64 b))) o c

/-- FMUL. -/
def seqFmul (o : SeqOp) (c : Chip) : Chip :=
  aluReg (alu2 false .reg) (fun a b _ _ => to64 (XNum.mul (f64 a) (f64 b))) o c

/-- FDIV. -/
def seqFdiv (o : SeqOp) (c : Chip) : Chip :=
  aluReg (alu2 false .reg) (fun a b _ _ => to64 (XNum.div (f64 a) (f64 b))) o c

/-- FMIN. -/
def seqFmin (o : SeqOp) (c : Chip) : Chip :=
  aluReg (alu2 false .reg) (fun a b _ _ => to64 (XNum.min (f64 a) (f64 b))) o c

/-- FMAX. -/
def seqFmax (o : SeqOp) (c : Chip) : Chip :=
  aluReg (alu2 false .reg) (fun a b _ _ => to64 (XNum.max (f64 a) (f64 b))) o c

/-- FSQRT. -/
def seqFsqrt (o : SeqOp) (c : Chip) : Chip := aluReg (alu1 .reg) (fun a _ _ _ => to64 (XNum.sqrt (f64 a))) o c

/-- FMA, rounded once. -/
def seqFma (o : SeqOp) (c : Chip) : Chip :=
  aluReg alu3 (fun a b c _ => to64 (XNum.add (XNum.mul (f64 a) (f64 b)) (f64 c))) o c

/-- FCMPLT. -/
def seqFcmplt (o : SeqOp) (c : Chip) : Chip :=
  aluPred (alu2 false .pred) (fun a b => XNum.lt (f64 a) (f64 b)) o c

/-- FCMPLE. -/
def seqFcmple (o : SeqOp) (c : Chip) : Chip :=
  aluPred (alu2 false .pred) (fun a b => XNum.le (f64 a) (f64 b)) o c

/-- FCMPEQ. -/
def seqFcmpeq (o : SeqOp) (c : Chip) : Chip :=
  aluPred (alu2 false .pred) (fun a b => XNum.eq (f64 a) (f64 b)) o c

/-- FCVTI. -/
def seqFcvti (o : SeqOp) (c : Chip) : Chip := aluReg (alu1 .reg) (fun a _ _ _ => f64ToInt (f64 a)) o c

/-- ICVTF. -/
def seqIcvtf (o : SeqOp) (c : Chip) : Chip := aluReg (alu1 .reg) (fun a _ _ _ => to64 (XNum.ofInt a.toInt)) o c

/-- FISFIN. -/
def seqFisfin (o : SeqOp) (c : Chip) : Chip := aluPred (alu1 .pred) (fun a _ => (f64 a).isFinite) o c

/-! ## Immediates -/

/-- MOVI. -/
def seqMovi (o : SeqOp) (c : Chip) : Chip :=
  aluReg ⟨false, true, .reg, .no, .no, .no, 40⟩ (fun _ b _ _ => b) o c

/-- ORHI: IMM40[23:0] over bits [63:40]. -/
def seqOrhi (o : SeqOp) (c : Chip) : Chip :=
  aluReg ⟨false, true, .reg, .reg, .no, .no, 24⟩ (fun a b _ _ => a ||| (b <<< 40)) o c

end Sys2Proof.Machine
end

