-- ==== Sys2Proof/Machine/SeqMem.lean ====
section
/-! DEFINITION. Loads, stores and atomics of the sequencer (class LS, PGRD and PGWR), their returns and acknowledgements, and
the instruction fetch (R99 to R107, R116, R117, R124). An access inside the core is performed when it issues, in program order
(R102); what it has come back with reaches the context by LOAD_RETURN and STORE_ACK. -/

namespace Sys2Proof.Machine

/-! ## Access records -/

/-- Records an access of a context with its tag, and moves the context past the instruction. -/
def pushAcc (n : Nat) (a : Acc) (c : Chip) : Chip :=
  updCtx n (fun x => { x with accs := x.accs ++ [{ a with tag := x.nextTag, pc := x.pc }], nextTag := x.nextTag + 1, pc := x.pc + 8 }) c

/-- An access of a kind before anything is known of it. -/
def newAcc (kind : AccKind) (rd size : Nat) (sx : Bool) (addr : Nat) : Acc :=
  { tag := 0, pc := 0#64, kind := kind, rd := rd, size := size, sx := sx, addr := addr, res := .pending
    returned := decide (kind = .store), acked := decide (kind = .load) }

/-- An access that has been performed, or has failed with a code. -/
def Acc.with (a : Acc) (r : AccRes) : Acc := { a with res := r }

/-- The code with which a local access to an uncorrectable word fails (R192, R193). -/
def accEcc : AccRes := .failed (faultCode pSEQ .eccUncorr)

/-! ## Loads -/

/-- What a load of this core returns, with the effects of the read. -/
def localLoad (off n : Nat) (c : Chip) : AccRes × Chip :=
  match regionOf off n with
  | some .lmem =>
    let (bad, c) := eccRead 2 (rangeFrom off n) c
    (if bad then accEcc else .done (lmemNat c off n), c)
  | some .pages =>
    match pageAt off with
    | some (p, o) =>
      let (v, c) := pageRead p o c
      (.done v.toNat, c)
    | none => (.done 0, c)
  | _ => (.done (leNat ((rangeFrom off n).map (coreByte c))), c)

/-- An address that an access of this core faults on at once (R19, R67, R68, R117). -/
def badAccess (c : Chip) (w : Bool) (a n : Nat) : Bool :=
  a % n != 0 || (isSelf c a && (!mappedRange c w (offOf a) n
    || (decide (regionOf (offOf a) n = some .pages) && !pageAccessOk (offOf a) n)))

/-- A load of `n` bytes at a global address by a context. -/
def ctxLoad (n rd size : Nat) (sx : Bool) (a : Nat) (c : Chip) : Chip :=
  let w := 2 ^ size
  let x := ctxOf c n
  let acc := newAcc .load rd size sx a
  if badAccess c false a w then faultHere n .addrUnmapped c
  else if isSelf c a && decide (regionOf (offOf a) w ≠ some .host) then
    let (r, c) := localLoad (offOf a) w c
    pushAcc n (acc.with r) c
  else ask (.access n x.nextTag) .rd a w [] vcData (pushAcc n acc c)

/-- The address of LD and ST (R116). -/
def lsAddr (o : SeqOp) (x : Ctx) : Nat :=
  (x.reg (opRa o) + (if opIdx o then x.reg (opRb o) <<< opSize o else opOff30 o)).toNat

/-- LD. -/
def seqLd (o : SeqOp) (c : Chip) : Chip :=
  seqIssue o (lsForm true o) (fun x => ctxLoad o.ctx (opRd o) (opSize o) (opSx o) (lsAddr o x)) c

/-! ## Stores -/

/-- Bytes of LMEM stored by a context: what comes back, and the effect. -/
def lmemStore (off : Nat) (bs : List Byte) (c : Chip) : AccRes × Chip :=
  let cells := cellsAt off bs
  let bad := partialBad [] cells c
  if bad.isEmpty then (.done 0, lmemWriteCells [] cells c)
  else (accEcc, bad.foldl (fun c p => poisonWord 2 p.1 p.2 c) c)

/-- A store of bytes at a global address by a context. -/
def ctxStore (n size : Nat) (a : Nat) (v : W64) (c : Chip) : Chip :=
  let w := 2 ^ size
  let x := ctxOf c n
  let acc := newAcc .store 0 size false a
  let bs := leBytes w v.toNat
  if badAccess c true a w then faultHere n .addrUnmapped c
  else if isSelf c a && decide (regionOf (offOf a) w ≠ some .host) then
    match regionOf (offOf a) w with
    | some .lmem =>
      let (r, c) := lmemStore (offOf a) bs c
      pushAcc n (acc.with r) c
    | some .pages =>
      match pageAt (offOf a) with
      | some (p, o) => pageWrite n p o v (pushAcc n (acc.with (.done 0)) c)
      | none => c
    | _ => pushAcc n (acc.with (.done 0)) ((cellsAt (offOf a) bs).foldl (fun c p => aperturePut c p.1 p.2) c)
  else ask (.access n x.nextTag) .wr a w bs vcData (pushAcc n acc c)

/-- ST: RD is the source. -/
def seqSt (o : SeqOp) (c : Chip) : Chip :=
  seqIssue o (lsForm false o) (fun x => ctxStore o.ctx (opSize o) (lsAddr o x) (x.reg (opRd o))) c

/-! ## Atomics (R107, R117) -/

/-- An atomic of a context: OP as in Table 4.9, operand and, of AMOCAS, the value stored when it matches. -/
def ctxAmo (op : Nat) (o : SeqOp) (b v : W64) (a : Nat) (c : Chip) : Chip :=
  let n := o.ctx
  let w := 2 ^ opSize o
  let x := ctxOf c n
  let acc := newAcc .amo (opRd o) (opSize o) false a
  if opSize o < 2 ∨ a % w ≠ 0 ∨ regionOf (offOf a) w ≠ some .lmem then faultHere n .addrUnmapped c
  else if isSelf c a then
    match serveAmo 2 op (opSize o) (offOf a) b.toNat v.toNat c with
    | (.ok old, c) => pushAcc n (acc.with (.done old)) c
    | (.error _, c) => pushAcc n (acc.with accEcc) c
  else
    ask (.access n x.nextTag) .amo a w
      (leBytes 1 op ++ leBytes 1 (opSize o) ++ leBytes 6 0 ++ leBytes 8 b.toNat ++ leBytes 8 v.toNat) vcData
      (pushAcc n acc c)

/-- An atomic of the sequencer. -/
def seqAmo (op : Nat) (cas : Bool) (o : SeqOp) (c : Chip) : Chip :=
  seqIssue o (amoForm cas o) (fun x =>
    ctxAmo op o (x.reg (opRb o)) (x.reg (opAmoRc o)) (x.reg (opRa o) + opOff25 o).toNat) c

/-- AMOADD. -/
def seqAmoadd (o : SeqOp) (c : Chip) : Chip := seqAmo 2 false o c
/-- AMOSWAP. -/
def seqAmoswap (o : SeqOp) (c : Chip) : Chip := seqAmo 3 false o c
/-- AMOCAS. -/
def seqAmocas (o : SeqOp) (c : Chip) : Chip := seqAmo 4 true o c
/-- AMOMAXU. -/
def seqAmomaxu (o : SeqOp) (c : Chip) : Chip := seqAmo 5 false o c

/-! ## Control pages (R124) -/

/-- The offset that PGRD and PGWR name in the page region; `none`: ADDR_UNMAPPED. -/
def pgOffset (o : SeqOp) (x : Ctx) : Option Nat :=
  let off := (BitVec.ofNat 64 (opOff16 o) + x.reg (opRa o)).toNat
  if opPage o < 20 ∧ off % 8 = 0 ∧ off < 0x10000 then some off else none

/-- PGRD: a load of the register. -/
def seqPgrd (o : SeqOp) (c : Chip) : Chip :=
  seqIssue o { sysForm .reg .reg .no .no true o with load := true } (fun x c =>
    match pgOffset o x with
    | none => faultHere o.ctx .addrUnmapped c
    | some off =>
      let (v, c) := pageRead (opPage o) off c
      pushAcc o.ctx ((newAcc .load (opRd o) 3 false 0).with (.done v.toNat)) c) c

/-- PGWR: the write completes as a store. -/
def seqPgwr (o : SeqOp) (c : Chip) : Chip :=
  seqIssue o { sysForm .no .reg .reg .no true o with store := true } (fun x c =>
    match pgOffset o x with
    | none => faultHere o.ctx .addrUnmapped c
    | some off =>
      pageWrite o.ctx (opPage o) off (x.reg (opRb o)) (pushAcc o.ctx ((newAcc .store 0 3 false 0).with (.done 0)) c)) c

/-! ## Returns and acknowledgements (R99, R104, R114, R117) -/

/-- What a load or atomic writes to rd. -/
def Acc.value (a : Acc) (v : Nat) : W64 :=
  if a.sx then sextW (8 * 2 ^ a.size) v else BitVec.ofNat 64 (v % 2 ^ (8 * 2 ^ a.size))

/-- Drops the accesses that are over. -/
def Ctx.tidy (x : Ctx) : Ctx := { x with accs := x.accs.filter fun a => !(a.returned && a.acked) }

/-- Changes one access of a context. -/
def updAcc (n tag : Nat) (f : Acc → Acc) (c : Chip) : Chip :=
  updCtx n (fun x => ({ x with accs := x.accs.map fun (a : Acc) => if a.tag = tag then f a else a } : Ctx).tidy) c

/-- A context can still be faulted by an access: it is not ending and has not faulted before. -/
def Ctx.faultable (x : Ctx) : Bool :=
  !x.ending && (match x.st with
    | .ready => true
    | .waiting => true
    | .stopped => true
    | _ => false)

/-- LOAD_RETURN: the data of a load or atomic reach rd, or its failure faults the context at that instruction. -/
def loadReturn (n tag : Nat) (c : Chip) : Chip :=
  let x := ctxOf c n
  match x.accs.find? fun a => a.tag == tag && a.loading with
  | none => c
  | some a =>
    match a.res with
    | .pending => c
    | .done v =>
      let c := updAcc n tag (fun a => { a with returned := true }) c
      if x.ending then c else updCtx n (fun x => x.setReg a.rd (a.value v)) c
    | .failed code =>
      let c := updAcc n tag (fun a => { a with returned := true, acked := true }) c
      if x.faultable then faultCtx n code false (updCtx n (fun x => { x with pc := a.pc }) c) else c

/-- STORE_ACK: a store or atomic is acknowledged, or a failed store faults the context late. -/
def storeAck (n tag : Nat) (c : Chip) : Chip :=
  let x := ctxOf c n
  match x.accs.find? fun a => a.tag == tag && a.storing with
  | none => c
  | some a =>
    match a.res with
    | .pending => c
    | .done _ => updAcc n tag (fun a => { a with acked := true }) c
    | .failed code =>
      let c := updAcc n tag (fun a => { a with acked := true }) c
      if a.kind = .store ∧ x.faultable then faultCtx n code true c else c

/-! ## Instruction fetch (R100, R101) -/

/-- The line of a PC is wholly in this core's LMEM. -/
def lineLocal (c : Chip) (line : Nat) : Option Nat := localLmem c (64 * line) 64

/-- Lists a line in the cache of 1,024 lines; of a full cache a line goes, which of them the spec does not say. -/
def icacheInsert (line : Nat) (ws : List W64) (c : Chip) : Chip :=
  if c.seq.icache.length < 1024 then { c with seq.icache := SMap.insert ws c.seq.icache line }
  else
    let (k, c) := takeFree c
    let victim := ((c.seq.icache[k % 1024]?).map Prod.fst).getD 0
    { c with seq.icache := SMap.insert ws (SMap.erase c.seq.icache victim) line }

/-- A fetch misses: the context waits for the line, and a line outside this core is asked for (R100). -/
def fetchMiss (n line : Nat) (c : Chip) : Chip :=
  let asked := (lineLocal c line).isSome || c.seq.ctxs.any fun p => decide (p.2.wait = .fetch line)
  let c := waitOn n (.fetch line) { c with seq.misses := (c.seq.misses + 1) % 2 ^ 32 }
  if asked then c
  else ask (.fill line) .rd (64 * line) 64 [] vcData
    { c with seq.fillBuf := c.seq.fillBuf.filter fun p => p.1 / 64 != line }

/-- Every context that waits for a line goes on. -/
def wakeFetchers (line : Nat) (c : Chip) : Chip :=
  let c := { c with seq.ctxs := SMap.mapVal .idle (fun _ x => x.refetch line) c.seq.ctxs }
  (c.seq.ctxs.filter fun p => decide (p.2.wait = .fetch line) && decide (p.2.st = .waiting) && !p.2.ending).foldl
    (fun c p => wakeCtx p.1 c) c

/-- A line arrives; one from outside LMEM executes once as it came before it can be given up. -/
def fillLine (line : Nat) (bs : List Byte) (c : Chip) : Chip :=
  let ws := leWords 8 bs
  wakeFetchers line (icacheInsert line ws { c with
    seq.icacheKept := if (lineLocal c line).isSome then SMap.erase c.seq.icacheKept line else SMap.set [] c.seq.icacheKept line ws })

/-- FETCH_FILL: the line that a context waits for arrives; a context at a PC that breaks R100 faults. -/
def fetchFill (n : Nat) (c : Chip) : Chip :=
  let x := ctxOf c n
  match x.st, x.wait with
  | .waiting, .fetch line =>
    match lineLocal c line with
    | some off =>
      let (bad, c) := eccRead 2 (rangeFrom off 64) c
      if bad then faultHere n .eccUncorr c else fillLine line (lmemBytes c off 64) c
    | none =>
      let got := c.seq.fillBuf.filter fun p => p.1 / 64 == line
      if got.length < 64 then c
      else
        fillLine line ((rangeFrom (64 * line) 64).map (SMap.get 0#8 got))
          { c with seq.fillBuf := c.seq.fillBuf.filter fun p => p.1 / 64 != line }
  | .ready, _ =>
    if !canIssue c n then c
    else
      match pcFault x.pc with
      | some k => faultHere n k c
      | none => if (c.seq.icache.any fun p => p.1 == lineOf x.pc) then c else fetchMiss n (lineOf x.pc) c
  | _, _ => c

end Sys2Proof.Machine
end

