-- ==== Sys2Proof/Machine/SeqFlow.lean ====
section
/-! DEFINITION. Branches, descriptors, counters, summaries and system operations of the sequencer (classes BR, RING, SYNC, SUM
and SYS; R118 to R124), and the ends of waits that come from outside the context: the watchdog (R182, R183), a SLEEPT
deadline and the end of IFLUSH. -/

namespace Sys2Proof.Machine

/-! ## Branches (R118, Table 4.10) -/

/-- The target of a relative branch. -/
def brTarget (o : SeqOp) (x : Ctx) : W64 := x.pc + (opOff32 o <<< 3)

/-- Goes to a register target, or faults on a misaligned one. -/
def jumpTo (n : Nat) (a : W64) (f : Ctx → Ctx) (c : Chip) : Chip :=
  if a.toNat % 8 ≠ 0 then faultHere n .isaIllegal c else updCtx n (fun x => { f x with pc := a }) c

/-- Branches if a condition holds, else goes on. -/
def branchIf (o : SeqOp) (b : Bool) (f : Ctx → Ctx) (c : Chip) : Chip :=
  if b then updCtx o.ctx (fun x => { f x with pc := brTarget o x }) c else stepPast o.ctx f c

/-- B. -/
def seqB (o : SeqOp) (c : Chip) : Chip :=
  seqIssue o (brForm .no .no true o) (fun _ => branchIf o true id) c

/-- BL. -/
def seqBl (o : SeqOp) (c : Chip) : Chip :=
  seqIssue o (brForm .reg .no true o) (fun _ => branchIf o true fun y => y.setReg (opRd o) (y.pc + 8)) c

/-- JR. -/
def seqJr (o : SeqOp) (c : Chip) : Chip :=
  seqIssue o (brForm .no .reg false o) (fun x => jumpTo o.ctx (x.reg (opRa o)) id) c

/-- JLR: the target is read before rd is written. -/
def seqJlr (o : SeqOp) (c : Chip) : Chip :=
  seqIssue o (brForm .reg .reg false o) (fun x =>
    jumpTo o.ctx (x.reg (opRa o)) fun y => y.setReg (opRd o) (y.pc + 8)) c

/-- DBNZ: branches if the value that it computes is not zero. -/
def seqDbnz (o : SeqOp) (c : Chip) : Chip :=
  seqIssue o (brForm .reg .reg true o) (fun x =>
    let v := x.reg (opRa o) - 1
    branchIf o (v != 0#64) fun y => y.setReg (opRd o) v) c

/-- BZ. -/
def seqBz (o : SeqOp) (c : Chip) : Chip :=
  seqIssue o (brForm .no .reg true o) (fun x => branchIf o (x.reg (opRa o) == 0#64) id) c

/-- BNZ. -/
def seqBnz (o : SeqOp) (c : Chip) : Chip :=
  seqIssue o (brForm .no .reg true o) (fun x => branchIf o (x.reg (opRa o) != 0#64) id) c

/-! ## The staging area and the rings (R119, R120, R133, Table 4.11) -/

/-- A staging word. -/
def Ctx.staged (x : Ctx) (i : Nat) : W64 := SMap.get 0#64 x.staging i
/-- A staging word written. -/
def Ctx.stage (x : Ctx) (i : Nat) (v : W64) : Ctx := { x with staging := SMap.set 0#64 x.staging i v }

/-- RING.PUT. -/
def seqRingPut (o : SeqOp) (c : Chip) : Chip :=
  seqIssue o (ringForm .no .reg .no false 24 o) (fun x => stepPast o.ctx fun y => y.stage (opWord o) (x.reg (opRa o))) c

/-- RING.PUT2. -/
def seqRingPut2 (o : SeqOp) (c : Chip) : Chip :=
  seqIssue o (ringForm .no .reg .reg false 23 o) (fun x => stepPast o.ctx fun y =>
    (y.stage (opWord o) (x.reg (opRa o))).stage (opWord o + 1) (x.reg (opRb o))) c

/-- RING.GETW. -/
def seqRingGetw (o : SeqOp) (c : Chip) : Chip :=
  seqIssue o (ringForm .reg .no .no false 24 o) (fun x => stepPast o.ctx fun y => y.setReg (opRd o) (x.staged (opWord o))) c

/-- RING.CLR. -/
def seqRingClr (o : SeqOp) (c : Chip) : Chip :=
  seqIssue o (ringForm .no .no .no false 0 o) (fun _ => stepPast o.ctx fun y => { y with staging := [] }) c

/-- The staged descriptor: 8 words, or 24 with its chained-extension flag. -/
def Ctx.stagedWords (x : Ctx) : List W64 := (rangeFrom 0 (if bitAt (x.staged 0) 17 then 24 else 8)).map x.staged

/-- A release waits for every earlier store and atomic of the context (R106). -/
def releaseFirst (n : Nat) (f : Chip → Chip) (c : Chip) : Chip :=
  if (ctxOf c n).accs.any Acc.storing then waitOn n (.memory .stores) c else f c

/-- Pushes the staged descriptor onto a slot of the context: a slot with no bound ring, or a HOSTFED one, faults; a full ring
deschedules. -/
def pushTo (o : SeqOp) (slot : Nat) (x : Ctx) (c : Chip) : Chip :=
  let n := 32 * o.ctx + slot
  let r := ringOf c n
  let ws := x.stagedWords
  let k := ws.length / 8
  if !r.en || r.hostfed then faultHere o.ctx .isaIllegal c
  else
    releaseFirst o.ctx (fun c =>
      if r.freeSlots < k then waitOn o.ctx (.ringSpace n k) c
      else stepPast o.ctx (fun y => y.setReg (opRd o) (BitVec.ofNat 64 r.tail)) (pushWords n ws c)) c

/-- RING.PUSH. -/
def seqRingPush (o : SeqOp) (c : Chip) : Chip :=
  seqIssue o (ringForm .reg .no .no true 0 o) (fun x => pushTo o (opRc o) x) c

/-- RING.PUSHR. -/
def seqRingPushr (o : SeqOp) (c : Chip) : Chip :=
  seqIssue o (ringForm .reg .reg .no false 0 o) (fun x => pushTo o ((x.reg (opRa o)).toNat % 32) x) c

/-- RING.TAIL. -/
def seqRingTail (o : SeqOp) (c : Chip) : Chip :=
  seqIssue o (ringForm .reg .no .no true 0 o) (fun _ c =>
    stepPast o.ctx (fun y => y.setReg (opRd o) (BitVec.ofNat 64 (ringOf c (32 * o.ctx + opRc o)).tail)) c) c

/-- RING.HEAD. -/
def seqRingHead (o : SeqOp) (c : Chip) : Chip :=
  seqIssue o (ringForm .reg .no .no true 0 o) (fun _ c =>
    stepPast o.ctx (fun y => y.setReg (opRd o) (BitVec.ofNat 64 (ringOf c (32 * o.ctx + opRc o)).head)) c) c

/-! ## Counters, fences and barriers (R105, R121, R165, R168, R171, R178, R179, Table 4.12) -/

/-- The virtual counter that a SYNC operation names. -/
def syncCtr (o : SeqOp) (x : Ctx) : Nat := if opCr o then (x.reg (opRb o)).toNat % 65536 else opCtr16 o

/-- The 48 bits of a value register. -/
def val48 (v : W64) : Nat := v.toNat % 2 ^ 48

/-- Uses a counter: `none` where it is untranslatable. -/
def useCtr (o : SeqOp) (x : Ctx) (f : Option Nat → Chip → Chip) (c : Chip) : Chip :=
  let (p, c) := translate (blameCtx o.ctx x.pc) o.ctx (syncCtr o x) c
  f p c

/-- WAIT. -/
def seqWait (o : SeqOp) (c : Chip) : Chip :=
  seqIssue o (syncForm .no .reg .either false false o) (fun x c =>
    let v := syncCtr o x
    let t := val48 (x.reg (opRa o))
    if v = noCtr then stepPast o.ctx id c
    else
      useCtr o x (fun p c =>
        if p.any fun p => reached c p t then stepPast o.ctx id c else waitOn o.ctx (.counter v p t) c) c) c

/-- TEST. -/
def seqTest (o : SeqOp) (c : Chip) : Chip :=
  seqIssue o (syncForm .pred .reg .either false false o) (fun x c =>
    let t := val48 (x.reg (opRa o))
    if syncCtr o x = noCtr then stepPast o.ctx (fun y => y.setPred (opRd o) true) c
    else
      useCtr o x (fun p c => stepPast o.ctx (fun y => y.setPred (opRd o) (p.any fun p => reached c p t)) c) c) c

/-- SIGNAL. -/
def seqSignal (o : SeqOp) (c : Chip) : Chip :=
  seqIssue o (syncForm .no .reg .either false false o) (fun x =>
    releaseFirst o.ctx fun c =>
      if syncCtr o x = noCtr then stepPast o.ctx id c
      else
        useCtr o x (fun p c =>
          stepPast o.ctx id (match p with
            | some p => addCounter p ((x.reg (opRa o)).toNat % 65536) c
            | none => c)) c) c

/-- SIGNALR: waits for a place in the hold queue (R174). -/
def seqSignalr (o : SeqOp) (c : Chip) : Chip :=
  seqIssue o (syncForm .no .reg .remote false false o) (fun x =>
    releaseFirst o.ctx fun c =>
      let b := x.reg (opRb o)
      let lcn := fld b 0 20
      if sigRoom c lcn then
        stepPast o.ctx id (raiseSignal lcn (fld b 20 12) (opCtr16 o) ((x.reg (opRa o)).toNat % 65536) c)
      else waitOn o.ctx (.memory .sigQueue) c) c

/-- CTRRD. -/
def seqCtrrd (o : SeqOp) (c : Chip) : Chip :=
  seqIssue o (syncForm .reg .no .either false false o) (fun x c =>
    if syncCtr o x = noCtr then stepPast o.ctx (fun y => y.setReg (opRd o) 0#64) c
    else
      useCtr o x (fun p c =>
        let v := match p with
          | some p => ctrRead c p
          | none => 0
        stepPast o.ctx (fun y => y.setReg (opRd o) (BitVec.ofNat 64 v)) c) c) c

/-- A fence: its kind is the FK of the encoding. -/
def fence (ld st : Bool) (o : SeqOp) (c : Chip) : Chip :=
  seqIssue o (syncForm .no .no .no false true o) (fun x =>
    if st && x.accs.any Acc.storing then waitOn o.ctx (.memory .stores)
    else if ld && !x.busy.isEmpty then waitOn o.ctx (.memory (.regs x.busy))
    else stepPast o.ctx id) c

/-- FENCE.LD: later loads wait until every earlier load and atomic has returned. -/
def seqFenceLd (o : SeqOp) (c : Chip) : Chip := fence true false o c
/-- FENCE.ST. -/
def seqFenceSt (o : SeqOp) (c : Chip) : Chip := fence false true o c
/-- FENCE.ALL. -/
def seqFenceAll (o : SeqOp) (c : Chip) : Chip := fence true true o c

/-- BARARR. -/
def seqBararr (o : SeqOp) (c : Chip) : Chip :=
  seqIssue o (syncForm .no .no .no true false o) (fun _ c => stepPast o.ctx id (barArrive o.ctx (opLine o) c)) c

/-- BARWAIT: on the generation of the latest BARARR; with none, or where it names the counter 0xFFFF, it completes at once. -/
def seqBarwait (o : SeqOp) (c : Chip) : Chip :=
  seqIssue o (syncForm .no .no .bar true false o) (fun x c =>
    match (if syncCtr o x = noCtr then none else SMap.get none x.barTarget (opLine o)) with
    | none => stepPast o.ctx id c
    | some t => if barDone c (opLine o) t then stepPast o.ctx id c else waitOn o.ctx (.barrier (opLine o) t) c) c

/-! ## Summaries (R108, R122, Table 4.13) -/

/-- Writes a summary to rd and RT. -/
def Ctx.takeSum (x : Ctx) (o : SeqOp) (s : Summary) : Ctx :=
  (x.setReg (opRd o) (BitVec.ofNat 64 s.value)).setReg (opRt o) (BitVec.ofNat 64 s.meta')

/-- FINITE of a META word (Table 4.5). -/
def Summary.finite (s : Summary) : Bool := s.meta'.testBit 20

/-- SUM.POP. -/
def seqSumPop (o : SeqOp) (c : Chip) : Chip :=
  seqIssue o (sumForm true true true o) (fun x =>
    match x.sums with
    | [] => waitOn o.ctx .summary
    | s :: rest => stepPast o.ctx fun y => ({ y with sums := rest }.takeSum o s).setPred (opPd o) s.finite) c

/-- SUM.TRY. -/
def seqSumTry (o : SeqOp) (c : Chip) : Chip :=
  seqIssue o (sumForm true true true o) (fun x =>
    match x.sums with
    | [] => stepPast o.ctx fun y => y.setPred (opPd o) false
    | s :: rest => stepPast o.ctx fun y => ({ y with sums := rest }.takeSum o s).setPred (opPd o) true) c

/-- SUM.PEEK. -/
def seqSumPeek (o : SeqOp) (c : Chip) : Chip :=
  seqIssue o (sumForm true true true o) (fun x =>
    match x.sums with
    | [] => stepPast o.ctx fun y => y.setPred (opPd o) false
    | s :: _ => stepPast o.ctx fun y => (y.takeSum o s).setPred (opPd o) true) c

/-- SUM.COUNT. -/
def seqSumCount (o : SeqOp) (c : Chip) : Chip :=
  seqIssue o (sumForm true false false o) (fun x =>
    stepPast o.ctx fun y => y.setReg (opRd o) (BitVec.ofNat 64 x.sums.length)) c

/-- SUM.DROP. -/
def seqSumDrop (o : SeqOp) (c : Chip) : Chip :=
  seqIssue o (sumForm false false false o) (fun x => stepPast o.ctx fun y => { y with sums := x.sums.drop 1 }) c

/-! ## System (R123, R124, Table 4.14) -/

/-- NOP. -/
def seqNop (o : SeqOp) (c : Chip) : Chip :=
  seqIssue o (sysForm .no .no .no .no false o) (fun _ => stepPast o.ctx id) c

/-- YIELD: the pipe passes the context over 16 times. -/
def seqYield (o : SeqOp) (c : Chip) : Chip :=
  seqIssue o (sysForm .no .no .no .no false o) (fun _ => stepPast o.ctx fun y => { y with passOver := 16 }) c

/-- EXIT: once every access of the context is over. -/
def seqExit (o : SeqOp) (c : Chip) : Chip :=
  seqIssue o (sysForm .no .no .no .no false o) (fun x =>
    if x.accs.isEmpty then freeCtx o.ctx else waitOn o.ctx (.memory .all)) c

/-- SPAWN. -/
def seqSpawnOp (o : SeqOp) (c : Chip) : Chip :=
  seqIssue o (sysForm .reg .reg .reg .reg false o) (fun x c =>
    let a := x.reg (opRa o)
    let named := if a = BitVec.allOnes 64 then none else some a.toNat
    let (r, c) := spawnCtx named (x.reg (opRb o)) (x.reg (opRc o)) c
    stepPast o.ctx (fun y => y.setReg (opRd o) ((r.map (BitVec.ofNat 64)).getD (BitVec.allOnes 64))) c) c

/-- CID. -/
def seqCid (o : SeqOp) (c : Chip) : Chip :=
  seqIssue o (sysForm .reg .no .no .no false o) (fun _ => stepPast o.ctx fun y => y.setReg (opRd o) (BitVec.ofNat 64 o.ctx)) c

/-- TIMERD. -/
def seqTimerd (o : SeqOp) (c : Chip) : Chip :=
  seqIssue o (sysForm .reg .no .no .no false o) (fun _ c =>
    stepPast o.ctx (fun y => y.setReg (opRd o) (BitVec.ofNat 64 (now c))) c) c

/-- SLEEPT. -/
def seqSleept (o : SeqOp) (c : Chip) : Chip :=
  seqIssue o (sysForm .no .reg .no .no false o) (fun x c =>
    let t := (x.reg (opRa o)).toNat
    if t ≤ now c then stepPast o.ctx id c else waitOn o.ctx (.time t) c) c

/-- NOTIFY. -/
def seqNotify (o : SeqOp) (c : Chip) : Chip :=
  seqIssue o (sysForm .no .reg .no .no false o) (fun x c =>
    stepPast o.ctx id { c with seq.notify := c.seq.notify ||| (1#64 <<< ((x.reg (opRa o)).toNat % 64)) }) c

/-- SWFAULT. -/
def seqSwfault (o : SeqOp) (c : Chip) : Chip :=
  seqIssue o (sysForm .no .reg .no .no false o) (fun _ => faultHere o.ctx .swFault) c

/-- IFLUSH. -/
def seqIflush (o : SeqOp) (c : Chip) : Chip :=
  seqIssue o (sysForm .no .no .no .no false o) (fun _ => waitOn o.ctx .flush) c

/-! ## Ends of waits -/

/-- A context that waits and has not been told to end. -/
def waitsNow (x : Ctx) : Bool := decide (x.st = .waiting) && !x.ending

/-- IFLUSH_DONE: every line is invalid, and the context goes on. -/
def iflushDone (n : Nat) (c : Chip) : Chip :=
  let x := ctxOf c n
  if waitsNow x && decide (x.wait = .flush) && isAwake c then wakePast n (flushIcache c) else c

/-- The SLEEPT deadline of a context has come. -/
def sleepOver (c : Chip) (n : Nat) : Bool :=
  let x := ctxOf c n
  waitsNow x && (match x.wait with
    | .time t => decide (t ≤ now c)
    | _ => false)

/-- The end of a SLEEPT in P0. -/
def sleepEnds (n : Nat) (c : Chip) : Chip := if sleepOver c n then wakePast n c else c

/-- A timed wait has lasted longer than its limit, and the TIME microsecond in which it reached it is over: what is met in that
microsecond still releases the context (R182, R183). DEDUCED (log 108). -/
def waitExpired (c : Chip) (n : Nat) : Bool :=
  let x := ctxOf c n
  match wdogLimit c n with
  | some us =>
    let ns := waitedNs c x
    waitsNow x && x.wait.timed && decide (1000 * us < ns) && decide ((now c - (ns - 1000 * us)) / 1000 < now c / 1000)
  | none => false

/-- A context at the end of a wait that its instruction does not repeat (R168, R179). -/
def Ctx.goPast (x : Ctx) : Ctx :=
  { x with st := .ready, wait := .none, waitFrom := 0, waitedBefore := 0, moved := false
           pc := if x.moved then x.pc else x.pc + 8 }

/-- A context at the end of a wait after which it tries its instruction again. -/
def Ctx.goOn (x : Ctx) : Ctx := { x with st := .ready, wait := .none, waitFrom := 0, waitedBefore := 0, moved := false }

/-- Ends the wait of a waiting context if it is over. -/
def releaseCtx (c : Chip) (x : Ctx) : Ctx :=
  if !waitsNow x then x
  else
    match x.wait with
    | .counter _ (some p) t => if reached c p t then x.goPast else x
    | .summary => if x.sums.isEmpty then x else x.goOn
    | .ringSpace n k => if k ≤ (ringOf c n).freeSlots then x.goOn else x
    | .memory m => if m.over c x then x.goOn else x
    | .barrier l t => if barDone c l t then x.goPast else x
    | _ => x

/-- WAIT_TIMEOUT in P0: the wait is abandoned and the context faults at the waiting instruction, unless what it waits for has come
by then (R183). -/
def timeOut (n : Nat) (c : Chip) : Chip :=
  if waitExpired c n then
    (if (releaseCtx c (ctxOf c n)).st = .ready then updCtx n (releaseCtx c) c else faultHere n .waitTimeout c)
  else c

end Sys2Proof.Machine
end

