-- ==== Sys2Proof/Machine/Held.lean ====
section
/-! DEFINITION. What has waited for the core to wake or to start (R461, R471, R499): the commands kept meanwhile, the ends of
exits and starts that let them go on, and the waits whose end wakes the core. -/

namespace Sys2Proof.Machine

/-- Handles a command that has waited. -/
def heldCommand (i : Instr) (c : Chip) : Chip :=
  match i with
  | .registerWrite p off v => regCommand p off v c
  | .wr n p => routePacket n i p c
  | .rd n p => routePacket n i p c
  | .amo n p => routePacket n i p c
  | .sig n p => routePacket n i p c
  | .hppRd ch q => hppRdIn ch q c
  | .hppWr ch q bs => hppWrIn ch q bs c
  | .hppPeer ch q p => hppPeerIn ch q p c
  | .regRd off => sbAccess off none i c
  | .regWr off v => sbAccess off (some v) i c
  | .regacc v _ w off => regaccGo v w off c
  | .waitTimeout n => timeOut n c
  | .sleeptDeadline n => sleepEnds n c
  | .rbDataRead p => (pageRead p 0x070 c).2
  | .doneQRead => (pageRead pRING 0x148 c).2
  | .detachReq => detach c
  | .detach => detach c
  | _ => c

/-- Handles every command that has waited, in order. -/
def runHeld (c : Chip) : Chip :=
  c.pwr.wakeCmds.foldl (fun c i => heldCommand i c) { c with pwr.wakeCmds := [] }

/-- The core leaves P1 or P2 if BASE is admitted, and handles what has waited. -/
def wakeExit (row : Nat) (c : Chip) : Chip :=
  let d := leaveState row c
  if asleep c && !asleep d then runHeld d else d

/-- BASE has ramped: the exit or the start that waited for it is over, and what has waited for that is handled (R464). -/
def baseRamped (c : Chip) : Chip :=
  if pwrRuns c ∧ baseRamps c ∧ c.pwr.rampEnd ≤ now c then
    let c := { c with pwr.ramp := none, pwr.rampEnd := 0 }
    runHeld (if isUp c then leftState (c.pwr.waking.getD 0) c else startGoes c)
  else c

/-- RAMP_DONE: of a unit in P0, of BASE on the way there. -/
def rampTurn (c : Chip) : Chip := if isAwake c then rampDone c else baseRamped c

/-- WAKE_EXIT_DONE: the exit latency of the wake event in progress has passed. -/
def wakeExitDone (c : Chip) : Chip :=
  match c.pwr.waking with
  | some row => if isUp c then wakeExit row c else c
  | none => c

/-- WAIT_TIMEOUT; in P1 and P2 the core wakes for it first (Table 19.4). -/
def waitTimeout (n : Nat) (c : Chip) : Chip :=
  if isUp c && waitExpired c n then (if asleep c then holdWake 4 (.waitTimeout n) c else timeOut n c) else c

/-- SLEEPT_DEADLINE; in P1 and P2 the core has begun its exit so early that it is in P0 at the deadline (Table 19.4). -/
def sleeptDeadline (n : Nat) (c : Chip) : Chip :=
  if isUp c && sleepOver c n then
    let c := wakeExit 2 c
    if asleep c then holdWake 2 (.sleeptDeadline n) c else sleepEnds n c
  else c

/-- What has waited for a start goes on once the core runs, and lane requests as soon as step 4 lets the lanes run (R499). -/
def startHeld (old c : Chip) : Chip :=
  let lanes (p : StartPhase) : Bool := p == .running || p == .cold 4 || p == .cold 5
  if lanes c.core.phase && !lanes old.core.phase then runHeld c else c

/-- DROGUE_ADMIT: in P0 the head of the queue; before that BASE, for which an exit or a start waits (R464, R465). -/
def drogueTurn (c : Chip) : Chip := if isAwake c then drogueAdmit c else if pwrRuns c && baseWaits c then admitBase c else c

/-- MARCH_TEST_DONE. -/
def marchDone (failing : List W64) (c : Chip) : Chip := startHeld c (marchTestDone failing c)

end Sys2Proof.Machine
end

