-- ==== Sys2Proof/Machine/Wrap.lean ====
section
/-! DEFINITION. The test wrapper (Integrating the Core, R504 to R506): its instruction register and data registers. -/

namespace Sys2Proof.Machine

/-- The wrapper takes instructions: the core is started or starting warm, or the wrapper has taken it; otherwise the wrapper is
held in WS_BYPASS (Table 21.1). -/
def wrapLive (c : Chip) : Bool :=
  match c.core.phase with
  | .running => true
  | .warm _ => true
  | .wrapper => true
  | _ => false

/-- Loads a non-intrusive instruction. -/
def wrapLoad (code : Nat) (c : Chip) : Chip := if wrapLive c then { c with wrap.instr := code } else c

/-- Loads an intrusive instruction: from then on only the wrapper answers, RETAIN_V is cleared, and what the outputs show without an
instruction that drives them is undefined (R505). -/
def wrapTake (code : Nat) (c : Chip) : Chip :=
  if wrapLive c then
    let (x, c) := takeFree c
    { c with wrap.instr := code, wrap.undef := x, core.phase := .wrapper, core.retainV := false }
  else c

/-- Selects the bypass bit; what shifting has left in it, which no command carries, is a free value. -/
def selectBypass (c : Chip) : Chip :=
  let (x, c) := takeFree c
  { c with wrap.bypass := x % 2 == 1 }

/-- The input pins that the state knows, as the boundary register captures them: BAR_IN[7:0] and PL_ACK. -/
def pinsIn (c : Chip) : Nat :=
  packNat (((rangeFrom 0 8).map fun l => (l, 1, b2n (SMap.get Line.reset c.sync.lines l).input)) ++ [(8, 1, b2n c.pwr.plAck)])

/-- WS_BYPASS, which every code outside Table 21.7 acts as. -/
def wsBypass (c : Chip) : Chip := if wrapLive c then selectBypass (wrapLoad 0x00 c) else c
/-- WS_EXTEST: the boundary register drives the outputs with what has been shifted into it, a free value since no command carries it, and
captures the inputs. -/
def wsExtest (c : Chip) : Chip :=
  if wrapLive c then
    let (x, d) := takeFree (wrapTake 0x01 c)
    { d with wrap.bndOut := x, wrap.bndIn := pinsIn c }
  else c
/-- WS_CLAMP: the outputs stay at the values of the boundary register. -/
def wsClamp (c : Chip) : Chip := if wrapLive c then selectBypass (wrapTake 0x02 c) else c
/-- WS_SAFE: the outputs take their held levels. -/
def wsSafe (c : Chip) : Chip := if wrapLive c then selectBypass (wrapTake 0x03 c) else c
/-- WS_INTEST. -/
def wsIntest (c : Chip) : Chip := wrapTake 0x04 c

/-- MBIST with GO: a march test begins, whose failing bank would be the one given. -/
def mbistGo (bank : Nat) (c : Chip) : Chip :=
  if wrapLive c then
    let d := wrapTake 0x10 c
    { d with wrap := { d.wrap with mbistGo := true, mbistDone := false, mbistFail := false, mbistBank := bank % 256 } }
  else c

/-- MBIST_DONE. -/
def mbistEnds (fail : Bool) (c : Chip) : Chip :=
  if c.wrap.instr = 0x10 ∧ c.wrap.mbistGo then
    { c with wrap := { c.wrap with mbistGo := false, mbistDone := true, mbistFail := fail } }
  else c

/-- REGACC. -/
def wrapRegacc (v : W64) (go write : Bool) (off : Nat) (c : Chip) : Chip := if wrapLive c then regacc v go write off c else c

/-- IMGREAD captures the image word of an index; a word past the image is nothing that the spec states. -/
def imgRead (i : Nat) (c : Chip) : Chip :=
  if !wrapLive c then c
  else
    let k := i % 65536
    let c := { c with wrap.instr := 0x12, wrap.imgIndex := k }
    match c.core.image[k]? with
    | some w => { c with wrap.imgWord := w.toNat }
    | none =>
      let (x, c) := takeFree c
      { c with wrap.imgWord := x % 2 ^ 32 }

/-- TW_WRSTN low: WS_BYPASS, the data registers as they are. -/
def twWrstn (c : Chip) : Chip := { c with wrap.instr := 0 }

end Sys2Proof.Machine
end

