-- ==== Sys2Proof/Machine/Settle.lean ====
section
/-! DEFINITION. What follows from a command without a command of its own, at once and whatever the command was: own pages answer
requests, completed descriptors retire, descriptors reach their wait step, summaries enter their FIFOs, waits that are over
end, requests leave, and the record of quiet is kept. -/

namespace Sys2Proof.Machine

/-! ## Requests to this core's own pages -/

/-- Answers a request of an engine to a control page of this core, word by word. -/
def servePage (r : Req) (c : Chip) : Chip :=
  let off := offOf r.addr
  if !pageRangeOk off r.len then deliver r (faultCode pTLK .addrUnmapped) [] c
  else
    match r.kind with
    | .rd =>
      let (bs, c) := pageReadWords (r.len / 8) off c
      deliver r 0 bs c
    | _ => deliver r 0 [] (pageWriteWords 0xFFFF (r.len / 8) off r.data c)

/-- A request to this core that host memory does not serve: one to a control page, or one whose LCN a SWAP has made this core's own
(R31, R420). -/
def toOwn (c : Chip) (r : Req) : Bool := isSelf c r.addr && !isHost c r.addr (max 1 r.len)

/-- What an access to this core's own offsets answers its maker. -/
def ownReply (r : Req) (x : Reply × Chip) : Chip :=
  match x with
  | (.done bs, c) => deliver r 0 bs c
  | (.refuse pg k, c) => deliver r (faultCode pg k) [] (noteRefusal pg k c)
  | (.host off, c) => { c with outbox := c.outbox ++ [{ r with addr := gaddr selfLcn off }] }

/-- Serves a request to this core. -/
def serveOwn (r : Req) (c : Chip) : Chip :=
  let off := offOf r.addr
  if regionOf off (max 1 r.len) = some .pages then servePage r c
  else
    match r.kind with
    | .rd => ownReply r (serveRd false off r.len c)
    | .wr => ownReply r (serveWr false false off r.len (cellsAt off r.data) c)
    | .amo =>
      let b (i k : Nat) : Nat := leNat ((r.data.drop i).take k)
      match serveAmo 5 (b 0 1) (b 1 1) off (b 8 8) (b 16 8) c with
      | (.ok old, c) => deliver r 0 (leBytes 8 old) c
      | (.error (pg, k), c) => deliver r (faultCode pg k) [] (noteRefusal pg k c)
    | .sig => deliver r 0 [] c

/-- Serves every request to this core, those first that have waited or been held. -/
def servePages (c : Chip) : Chip :=
  let keep (rs : List Req) : List Req := rs.filter fun r => !toOwn c r
  let mine := (c.tlk.heldReqs ++ c.tlk.waitReqs ++ c.outbox).filter (toOwn c)
  mine.foldl (fun c r => serveOwn r c)
    { c with tlk.heldReqs := keep c.tlk.heldReqs, tlk.waitReqs := keep c.tlk.waitReqs, outbox := keep c.outbox }

/-! ## Rings -/

/-- The rings that are not as reset left them. -/
def ringKeys (c : Chip) : List Nat := c.ring.rings.map Prod.fst

/-- Applies an operation to every ring. -/
def eachRing (f : Nat → Chip → Chip) (c : Chip) : Chip := (ringKeys c).foldl (fun c n => f n c) c

/-- Completed descriptors retire, then the first descriptors that have not issued reach step 2, then the moment at which its
conditions hold is marked (R139, R142). -/
def advanceRings (c : Chip) : Chip :=
  eachRing markReady (eachRing reachStep2 (eachRing (fun n c => retireFront n (ringOf c n).descs.length c) c))

/-! ## Summaries (R96, R108, R109) -/

/-- Entries of a summary FIFO (R108). -/
def fifoSize : Nat := 16

/-- Enters what a descriptor has produced into the FIFO of the context that owns its ring: as much as the FIFO holds, or nothing
but a count where the context is FREE. -/
def enterSums (n idx : Nat) (c : Chip) : Chip :=
  match (ringOf c n).find idx with
  | none => c
  | some d =>
    let x := ctxOf c (ringCtx n)
    if x.st = .free then
      putDesc n { d with sums := [] } { c with seq.sumDropped := satAdd 32 c.seq.sumDropped d.sums.length }
    else
      let k := fifoSize - x.sums.length
      putDesc n { d with sums := d.sums.drop k } (updCtx (ringCtx n) (fun x => { x with sums := x.sums ++ d.sums.take k }) c)

/-- The descriptors with summaries whose work and writes are over and that have no place yet: ring and index. -/
def newlyDue (c : Chip) : List (Nat × Nat) :=
  c.ring.rings.flatMap fun kr => (kr.2.descs.filter fun d =>
    !d.sums.isEmpty && d.due == 0 && decide (d.phase = .worked) && !d.owes && reqsOf c (.desc kr.1 d.idx) == 0).map
      fun d => (kr.1, d.idx)

/-- Gives a descriptor its place in the order of completion (R28, R110). -/
def takePlace (n idx : Nat) (c : Chip) : Chip :=
  match (ringOf c n).find idx with
  | none => c
  | some d => putDesc n { d with due := c.ring.dues + 1 } { c with ring.dues := c.ring.dues + 1 }

/-- The descriptors whose summaries may enter, in the order of completion. -/
def dueOrder (c : Chip) : List (Nat × Nat) :=
  ((c.ring.rings.flatMap fun kr => (kr.2.descs.filter fun d => !d.sums.isEmpty && d.due != 0).map fun d => (d.due, kr.1, d.idx)).foldl
    (fun (m : SMap (Nat × Nat)) x => SMap.insert x.2 m x.1) []).map Prod.snd

/-- Summaries enter their FIFOs in the order in which their descriptors complete (R28, R110). -/
def drainSums (c : Chip) : Chip :=
  let c := (newlyDue c).foldl (fun c p => takePlace p.1 p.2 c) c
  (dueOrder c).foldl (fun c p => enterSums p.1 p.2 c) c

/-! ## Contexts -/

/-- The SEQ page's quiesce request stops every context that runs or waits (Table 22.5). -/
def quiesceCtx (c : Chip) (x : Ctx) : Ctx :=
  if (pageOf c pSEQ).qreq && decide (x.st = .ready ∨ x.st = .waiting) && !x.ending && !x.stopping then
    { x with stopping := true, quiesceStop := true }
  else x

/-- A STOP, a KILL or an EXIT takes effect once the accesses that it waits for are over (R96, R97). -/
def endCtx (c : Chip) (x : Ctx) : Ctx :=
  if x.ending && x.accs.isEmpty then { Ctx.idle with startArg := x.startArg }
  else if x.stopping && !(x.accs.any Acc.loading) then
    { x with stopping := false, st := .stopped, waitedBefore := waitedNs c x }
  else x

/-- Stops, ends and releases every context for which it is time. -/
def wakeAll (c : Chip) : Chip :=
  { c with seq.ctxs := SMap.mapVal .idle (fun _ x => releaseCtx c (endCtx c (quiesceCtx c x))) c.seq.ctxs }

/-! ## Sleep (R461, Table 19.4) -/

/-- A release that is due while the core sleeps, by its row of Table 19.4. -/
def releaseDue (c : Chip) : Option Nat :=
  let met (x : Ctx) : Bool := waitsNow x && (match x.wait with
    | .counter _ (some p) t => reached c p t
    | _ => false)
  let barred (x : Ctx) : Bool := waitsNow x && (match x.wait with
    | .barrier l t => barDone c l t
    | _ => false)
  if (c.seq.ctxs.any fun p => met p.2) || (c.ring.rings.any fun kr => (readyToIssue c kr.1).isSome) then some 1
  else if c.seq.ctxs.any fun p => barred p.2 then some 3
  else none

/-- In P0 contexts go on; in P1 and P2 a release that is due wakes the core first. -/
def settleCtxs (c : Chip) : Chip :=
  if isAwake c then wakeAll c
  else
    match releaseDue c with
    | some row => beginWake row c
    | none => c

/-! ## Quiet (R184, R467) -/

/-- Keeps the moment at which the present quiet began; the end of quiet reclaims what has been offered or lent. -/
def noteQuiet (c : Chip) : Chip :=
  if isUp c && isQuiet c then { c with sync.quietSince := some (c.sync.quietSince.getD (now c)) }
  else reclaim { c with sync.quietSince := none }

/-! ## All of it -/

/-- What blocks do of themselves while the core is in P0. -/
def settleBlocks (c : Chip) : Chip :=
  if isAwake c then warmWaiting (detachAdvance (keepGated (drainSums (advanceRings (noteLatchWait (noteJournals (commitWrites (servePages c)))))))) else servePages c

/-- What leaves the core: answers, requests, signals and trace records, then what is left of ACK and credits. -/
def settleLinks (c : Chip) : Chip := returnGrant (sendAcks (flushEvents (sendAll (answerProxies c))))

/-- What follows in the blocks and on the links. -/
def settleFirst (c : Chip) : Chip :=
  match c.core.phase with
  | .running => settleLinks (settleBlocks c)
  | .warm _ => settleLinks (servePages c)
  | .cold _ => settleLinks c
  | _ => c

/-- What follows for the contexts, and the record of quiet. -/
def settleLast (c : Chip) : Chip := if isUp c then noteQuiet (settleCtxs c) else c

/-- Everything that follows from a command. -/
def settle (c : Chip) : Chip := settleLast (settleFirst c)

end Sys2Proof.Machine
end

