-- ==== Sys2Proof/Machine/Run.lean ====
section
/-! DEFINITION. How every command runs: its effect on the core and then what follows from it, with the states of the core in
which each kind of command acts (R456 to R461, R471, R493, R505). -/

namespace Sys2Proof.Machine

/-- What a command answers. -/
abbrev Out := Host.Outcome State Fault Refusal

/-- Runs a command that acts in every state, the undefined one too. -/
def runAlways (f : Chip → Chip) (s : State) : Out := .next { s with chip := settle (f s.chip) }

/-- Runs a command; while the state is undefined nothing is known of its effect (R493). -/
def run (f : Chip → Chip) (s : State) : Out :=
  if s.chip.core.phase = .undefined then .fault .stateUndefined else runAlways f s

/-- Acts in P0 only: the work of blocks whose clocks P1 and P2 stop (R459). -/
def inP0 (f : Chip → Chip) (c : Chip) : Chip := if isAwake c then f c else c

/-- Acts in P0, P1 and P2: the always-on domain, the links and the host port (R459). -/
def inUp (f : Chip → Chip) (c : Chip) : Chip := if isUp c then f c else c

/-- Acts in P0, P1, P2 and during a warm start: what a link or the host port does. -/
def onLink (f : Chip → Chip) (c : Chip) : Chip := if isUp c || inWarm c then f c else c

/-- Acts while the lanes of the host port run (R499): an item that comes while they stand still is none. -/
def onLanes (f : Chip → Chip) (c : Chip) : Chip := if hpAwake c then f c else c

/-- Acts while the host port holds its state, whether or not its lanes run: also from step 4 of a cold start on. -/
def onHport (f : Chip → Chip) (c : Chip) : Chip := if isUp c || inWarm c || hpAwake c then f c else c

/-- A write of one register with its effect; in P1 and P2 a write to a page that is not always on wakes the core first
(Table 19.4). -/
def regWrite (p off : Nat) (v : W64) (f : Chip → Chip) (c : Chip) : Chip :=
  if !isUp c then c
  else if asleep c && !pageAlwaysOn p then holdWake 5 (.registerWrite p off v) c
  else f c

/-- A read of one register that changes state. -/
def regRead (p off : Nat) (i : Instr) (c : Chip) : Chip :=
  if !isUp c then c
  else if asleep c && !pageAlwaysOn p then holdWake 5 i c
  else (pageRead p off c).2

end Sys2Proof.Machine
end

