-- ==== Sys2Proof/Machine/RowsAlu.lean ====
section
/-! DEFINITION. What each command does: arithmetic instructions of the sequencer (R115). One meaning for each. -/

namespace Sys2Proof.Machine

/-- ADD (R115). -/
def execAdd (o : SeqOp) (s : State) : Out := run (seqAdd o) s

/-- SUB (R115). -/
def execSub (o : SeqOp) (s : State) : Out := run (seqSub o) s

/-- MUL (R115). -/
def execMul (o : SeqOp) (s : State) : Out := run (seqMul o) s

/-- MULHU (R115). -/
def execMulhu (o : SeqOp) (s : State) : Out := run (seqMulhu o) s

/-- MULHS (R115). -/
def execMulhs (o : SeqOp) (s : State) : Out := run (seqMulhs o) s

/-- DIVU (R115). -/
def execDivu (o : SeqOp) (s : State) : Out := run (seqDivu o) s

/-- DIVS (R115). -/
def execDivs (o : SeqOp) (s : State) : Out := run (seqDivs o) s

/-- REMU (R115). -/
def execRemu (o : SeqOp) (s : State) : Out := run (seqRemu o) s

/-- REMS (R115). -/
def execRems (o : SeqOp) (s : State) : Out := run (seqRems o) s

/-- AND (R115). -/
def execAnd (o : SeqOp) (s : State) : Out := run (seqAnd o) s

/-- OR (R115). -/
def execOr (o : SeqOp) (s : State) : Out := run (seqOr o) s

/-- XOR (R115). -/
def execXor (o : SeqOp) (s : State) : Out := run (seqXor o) s

/-- ANDN (R115). -/
def execAndn (o : SeqOp) (s : State) : Out := run (seqAndn o) s

/-- SHL (R115). -/
def execShl (o : SeqOp) (s : State) : Out := run (seqShl o) s

/-- SHR (R115). -/
def execShr (o : SeqOp) (s : State) : Out := run (seqShr o) s

/-- SAR (R115). -/
def execSar (o : SeqOp) (s : State) : Out := run (seqSar o) s

/-- ROL (R115). -/
def execRol (o : SeqOp) (s : State) : Out := run (seqRol o) s

/-- MIN (R115). -/
def execMin (o : SeqOp) (s : State) : Out := run (seqMin o) s

/-- MAX (R115). -/
def execMax (o : SeqOp) (s : State) : Out := run (seqMax o) s

/-- MINU (R115). -/
def execMinu (o : SeqOp) (s : State) : Out := run (seqMinu o) s

/-- MAXU (R115). -/
def execMaxu (o : SeqOp) (s : State) : Out := run (seqMaxu o) s

/-- CLZ (R115). -/
def execClz (o : SeqOp) (s : State) : Out := run (seqClz o) s

/-- CTZ (R115). -/
def execCtz (o : SeqOp) (s : State) : Out := run (seqCtz o) s

/-- POPC (R115). -/
def execPopc (o : SeqOp) (s : State) : Out := run (seqPopc o) s

/-- SEL (R115). -/
def execSel (o : SeqOp) (s : State) : Out := run (seqSel o) s

/-- MADD (R115). -/
def execMadd (o : SeqOp) (s : State) : Out := run (seqMadd o) s

/-- BFX (R115). -/
def execBfx (o : SeqOp) (s : State) : Out := run (seqBfx o) s

/-- BFI (R115). -/
def execBfi (o : SeqOp) (s : State) : Out := run (seqBfi o) s

/-- CMPEQ (R115). -/
def execCmpeq (o : SeqOp) (s : State) : Out := run (seqCmpeq o) s

/-- CMPNE (R115). -/
def execCmpne (o : SeqOp) (s : State) : Out := run (seqCmpne o) s

/-- CMPLT (R115). -/
def execCmplt (o : SeqOp) (s : State) : Out := run (seqCmplt o) s

/-- CMPLE (R115). -/
def execCmple (o : SeqOp) (s : State) : Out := run (seqCmple o) s

/-- CMPLTU (R115). -/
def execCmpltu (o : SeqOp) (s : State) : Out := run (seqCmpltu o) s

/-- CMPLEU (R115). -/
def execCmpleu (o : SeqOp) (s : State) : Out := run (seqCmpleu o) s

/-- PAND (R115). -/
def execPand (o : SeqOp) (s : State) : Out := run (seqPand o) s

/-- POR (R115). -/
def execPor (o : SeqOp) (s : State) : Out := run (seqPor o) s

/-- PXOR (R115). -/
def execPxor (o : SeqOp) (s : State) : Out := run (seqPxor o) s

/-- PANDN (R115). -/
def execPandn (o : SeqOp) (s : State) : Out := run (seqPandn o) s

/-- MOVP (R115). -/
def execMovp (o : SeqOp) (s : State) : Out := run (seqMovp o) s

/-- MOVTP (R115). -/
def execMovtp (o : SeqOp) (s : State) : Out := run (seqMovtp o) s

/-- FADD (R115). -/
def execFadd (o : SeqOp) (s : State) : Out := run (seqFadd o) s

/-- FSUB (R115). -/
def execFsub (o : SeqOp) (s : State) : Out := run (seqFsub o) s

/-- FMUL (R115). -/
def execFmul (o : SeqOp) (s : State) : Out := run (seqFmul o) s

/-- FDIV (R115). -/
def execFdiv (o : SeqOp) (s : State) : Out := run (seqFdiv o) s

/-- FSQRT (R115). -/
def execFsqrt (o : SeqOp) (s : State) : Out := run (seqFsqrt o) s

/-- FMA (R115). -/
def execFma (o : SeqOp) (s : State) : Out := run (seqFma o) s

/-- FMIN (R115). -/
def execFmin (o : SeqOp) (s : State) : Out := run (seqFmin o) s

/-- FMAX (R115). -/
def execFmax (o : SeqOp) (s : State) : Out := run (seqFmax o) s

/-- FCMPLT (R115). -/
def execFcmplt (o : SeqOp) (s : State) : Out := run (seqFcmplt o) s

/-- FCMPLE (R115). -/
def execFcmple (o : SeqOp) (s : State) : Out := run (seqFcmple o) s

/-- FCMPEQ (R115). -/
def execFcmpeq (o : SeqOp) (s : State) : Out := run (seqFcmpeq o) s

/-- FCVTI (R115). -/
def execFcvti (o : SeqOp) (s : State) : Out := run (seqFcvti o) s

/-- ICVTF (R115). -/
def execIcvtf (o : SeqOp) (s : State) : Out := run (seqIcvtf o) s

/-- FISFIN (R115). -/
def execFisfin (o : SeqOp) (s : State) : Out := run (seqFisfin o) s

/-- MOVI (R115). -/
def execMovi (o : SeqOp) (s : State) : Out := run (seqMovi o) s

/-- ORHI (R115). -/
def execOrhi (o : SeqOp) (s : State) : Out := run (seqOrhi o) s

end Sys2Proof.Machine
end

