-- ==== Sys2Proof/Machine/RowsHost.lean ====
section
/-! DEFINITION. What each command does: the host port: lanes, sideband, detach. One meaning for each. -/

namespace Sys2Proof.Machine

/-- HPP_RD (R427). -/
def execHppRd (ch : Nat) (q : HppReq) (s : State) : Out := run (hppRd ch q) s

/-- HPP_WR (R427). -/
def execHppWr (ch : Nat) (q : HppReq) (beats : List HppBeat) (s : State) : Out := run (hppWr ch q beats) s

/-- HPP_PEER (R427). -/
def execHppPeer (ch : Nat) (q : HppReq) (p : Packet) (s : State) : Out := run (hppPeer ch q p) s

/-- HPP_RESPONSE (R428). -/
def execHppResponse (ch tag status : Nat) (data : List Byte) (s : State) : Out := run (onLanes (hppResponse ch tag status data)) s

/-- HPORT_TIMEOUT (R428). -/
def execHportTimeout (ch tag : Nat) (s : State) : Out := run (onHport (hportTimeout ch tag)) s

/-- HPP_CREDIT (R429). -/
def execHppCredit (ch : Nat) (beat : Bool) (s : State) : Out := run (onLanes (hppCredit ch beat)) s

/-- HELLO (R432). -/
def execHello (word : Nat) (s : State) : Out := run (hello word) s

/-- IMG_DATA (R430). -/
def execImgData (words : List W32) (s : State) : Out := run (imgData words) s

/-- IMG_END (R503). -/
def execImgEnd (s : State) : Out := run imgEnd s

/-- IMAGE_TIMEOUT (R503). -/
def execImageTimeout (s : State) : Out := run imageTimeout s

/-- REG_RD (R431). -/
def execRegRd (off : Nat) (s : State) : Out := run (sbAccess off none (.regRd off)) s

/-- REG_WR (R431). -/
def execRegWr (off : Nat) (data : W64) (s : State) : Out := run (sbAccess off (some data) (.regWr off data)) s

/-- DETACH_REQ (R433). -/
def execDetachReq (s : State) : Out := run (inUp fun c => if asleep c then holdWake 5 .detachReq c else detach c) s

/-- DETACH (R433). -/
def execDetach (s : State) : Out := run (inUp fun c => if asleep c then holdWake 5 .detach c else detach c) s

/-- DETACH_COMPLETE (R433). -/
def execDetachComplete (s : State) : Out := run detachComplete s

/-- DETACH_TIMEOUT (R433). -/
def execDetachTimeout (s : State) : Out := run detachTimeout s

end Sys2Proof.Machine
end

