-- ==== Sys2Proof/Machine/RowsLink.lean ====
section
/-! DEFINITION. What each command does: the tether ports, their packets and routes, and the work of TLK descriptors. One meaning for each. -/

namespace Sys2Proof.Machine

/-- TLK_PORT_CTRLn as written with EN and RETRAIN, its other fields as they stand (Table 17.12). -/
def portWord (x : Port) (en re : Bool) : W64 := pack [(0, 1, b2n en), (1, 1, b2n x.v12), (2, 2, x.role), (4, 1, b2n re)]

/-- A write of TLK_PORT_CTRLn. -/
def portReg (n : Nat) (v : Port → W64) (f : Chip → Chip) (c : Chip) : Chip :=
  if n < Config.ports then regWrite pTLK (0x108 + 8 * n) (v (portOf c n)) f c else c

/-- A write that clears the counts of a TLK or HPORT register (R435). -/
def clearCounts (page off : Nat) (c : Chip) : Chip :=
  if page = pTLK then tlkClear off c else if page = pHPORT ∧ off = 0x118 then hportErrClear c else c

/-- PUT (R424). -/
def execPut (d : DescRef) (s : State) : Out := run (inP0 (tlkPut d)) s

/-- RESHARD (R396). -/
def execReshard (d : DescRef) (s : State) : Out := run (inP0 (tlkReshard d)) s

/-- RESHARD_PUSH (R396). -/
def execReshardPush (d : DescRef) (s : State) : Out := run (inP0 (rshPush d)) s

/-- RESHARD_ANNOUNCE (R396). -/
def execReshardAnnounce (d : DescRef) (s : State) : Out := run (inP0 (rshAnnounce d)) s

/-- RESHARD_COPY (R396). -/
def execReshardCopy (d : DescRef) (s : State) : Out := run (inP0 (rshCopy d)) s

/-- LGUARD_WRITE (R400). -/
def execLguardWrite (v : W64) (s : State) : Out := run (regWrite pTLK 0x618 v (lguardWrite v)) s

/-- LGUARD_STAT_CLEAR (R400). -/
def execLguardStatClear (s : State) : Out := run (regWrite pTLK 0x620 0#64 lguardStatClear) s

/-- TRAINING_WORD (R406). -/
def execTrainingWord (port lane : Nat) (mark : Nat) (good : Nat) (st : Nat) (s : State) : Out := run (onLink (trainingWord port lane mark good st)) s

/-- TRAINING_TIMEOUT (R406). -/
def execTrainingTimeout (port : Nat) (s : State) : Out := run (onLink (trainingTimeout port)) s

/-- LANE_LOCK_LOSS (R405). -/
def execLaneLockLoss (port lane : Nat) (s : State) : Out := run (onLink (laneLockLoss port lane)) s

/-- ACK_TIMEOUT (R405). -/
def execAckTimeout (port : Nat) (s : State) : Out := run (onLink (ackTimeout port)) s

/-- FLIT_DATA (R404). -/
def execFlitData (port : Nat) (f : FlitIn) (s : State) : Out := run (onLink (flitData port f)) s

/-- FLIT_IDLE (R404). -/
def execFlitIdle (port : Nat) (f : FlitIn) (s : State) : Out := run (onLink (flitIdle port f)) s

/-- FLIT_REPLAY (R404). -/
def execFlitReplay (port : Nat) (f : FlitIn) (s : State) : Out := run (onLink (flitReplay port f)) s

/-- NEGOTIATE (R417). -/
def execNegotiate (port : Nat) (p : Packet) (s : State) : Out := run (onLink (namedPacket port tyNEGOTIATE p)) s

/-- WR (R415). -/
def execWr (port : Nat) (p : Packet) (s : State) : Out := run (onLink (namedPacket port tyWR p)) s

/-- RD (R415). -/
def execRd (port : Nat) (p : Packet) (s : State) : Out := run (onLink (namedPacket port tyRD p)) s

/-- AMO (R415). -/
def execAmo (port : Nat) (p : Packet) (s : State) : Out := run (onLink (namedPacket port tyAMO p)) s

/-- SIG (R173). -/
def execSig (port : Nat) (p : Packet) (s : State) : Out := run (onLink (namedPacket port tySIG p)) s

/-- WRACK (R416). -/
def execWrack (port : Nat) (p : Packet) (s : State) : Out := run (onLink (namedPacket port tyWRACK p)) s

/-- RDDATA (R416). -/
def execRddata (port : Nat) (p : Packet) (s : State) : Out := run (onLink (namedPacket port tyRDDATA p)) s

/-- AMORSP (R416). -/
def execAmorsp (port : Nat) (p : Packet) (s : State) : Out := run (onLink (namedPacket port tyAMORSP p)) s

/-- SIGACK (R416). -/
def execSigack (port : Nat) (p : Packet) (s : State) : Out := run (onLink (namedPacket port tySIGACK p)) s

/-- TIME_SYNC (R422). -/
def execTimeSync (port : Nat) (p : Packet) (s : State) : Out := run (onLink (namedPacket port tyTIMESYNC p)) s

/-- TIME_REPLY (R422). -/
def execTimeReply (port : Nat) (p : Packet) (s : State) : Out := run (onLink (namedPacket port tyTIMEREPLY p)) s

/-- CLOSE (R433). -/
def execClose (port : Nat) (p : Packet) (s : State) : Out := run (onLink (namedPacket port tyCLOSE p)) s

/-- RESP_TIMEOUT (R416). -/
def execRespTimeout (tag : Nat) (s : State) : Out := run (onLink (respTimeout tag)) s

/-- ROUTE_HOLD_TIMEOUT (R414). -/
def execRouteHoldTimeout (k : Nat) (s : State) : Out := run (onLink (routeHoldTimeout k)) s

/-- TIME_SYNC_SEND (R422). -/
def execTimeSyncSend (port : Nat) (s : State) : Out := run (onLink (timeSyncSend port)) s

/-- TIME_EXCHANGE_TIMEOUT (R422). -/
def execTimeExchangeTimeout (s : State) : Out := run (onLink timeExchangeTimeout) s

/-- SWAP (R420). -/
def execSwap (epoch : Nat) (s : State) : Out := run (regWrite pTLK 0x180 (pack [(0, 2, 1), (32, 32, epoch)]) (routeSwap (epoch % 2 ^ 32))) s

/-- ROUTE_COPY (R435). -/
def execRouteCopy (s : State) : Out := run (regWrite pTLK 0x180 2#64 routeCopy) s

/-- ROUTE_CLEAR (R435). -/
def execRouteClear (s : State) : Out := run (regWrite pTLK 0x180 3#64 routeClear) s

/-- PORT_ENABLE (R406). -/
def execPortEnable (port : Nat) (s : State) : Out := run (portReg port (fun x => portWord x true false) (portEnable port)) s

/-- PORT_DISABLE (R433). -/
def execPortDisable (port : Nat) (s : State) : Out := run (portReg port (fun x => portWord x false false) (portDisable port)) s

/-- RETRAIN (R407). -/
def execRetrain (port : Nat) (s : State) : Out := run (portReg port (fun x => portWord x x.en true) (retrain port)) s

/-- TLK_COUNT_CLEAR (R435). -/
def execTlkCountClear (page off : Nat) (s : State) : Out := run (regWrite page off 0#64 (clearCounts page off)) s

end Sys2Proof.Machine
end

