-- ==== Sys2Proof/Machine/RowsLmem.lean ====
section
/-! DEFINITION. What each command does: local memory: scrub, write-back, arbitration and errors. One meaning for each. -/

namespace Sys2Proof.Machine

/-- SCRUB_READ (R194). -/
def execScrubRead (bank : Nat) (s : State) : Out := run (inP0 (scrubRead bank)) s

/-- ECC_WRITEBACK (R191). -/
def execEccWriteback (word : Nat) (s : State) : Out := run (inP0 (eccWriteback word)) s

/-- LMEM_ARB_WRITE (R201). -/
def execLmemArbWrite (v : W64) (s : State) : Out := run (regWrite pLMEM 0x108 v (lmemArbWrite v)) s

/-- LMEM_ARB_APPLY (R201). -/
def execLmemArbApply (s : State) : Out := run (inP0 lmemArbApply) s

/-- ECC_STAT_CLEAR (R202). -/
def execEccStatClear (s : State) : Out := run (regWrite pLMEM 0x110 0#64 eccStatClear) s

/-- ECC_INJECT_WRITE (R202). -/
def execEccInjectWrite (v : W64) (s : State) : Out := run (regWrite pLMEM 0x120 v (eccInjectWrite v)) s

/-- LMEM_ECC_ERROR (R192). -/
def execLmemEccError (word cls : Nat) (d : DescRef) (s : State) : Out := run (inP0 (lmemEccError word cls d)) s

end Sys2Proof.Machine
end

