-- ==== Sys2Proof/Machine/RowsMatrix.lean ====
section
/-! DEFINITION. What each command does: the work of MXA and MVP descriptors. One meaning for each. -/

namespace Sys2Proof.Machine

/-- STREAM (R231). -/
def execStream (d : DescRef) (s : State) : Out := run (inP0 (mxaStream 1 d)) s

/-- TAPS (R249). -/
def execTaps (d : DescRef) (s : State) : Out := run (inP0 (mxaStream 2 d)) s

/-- MXA_START (R236). -/
def execMxaStart (d : DescRef) (s : State) : Out := run (inP0 (startRow 1 d)) s

/-- ARRAY_FLIP (R239). -/
def execArrayFlip (array : Nat) (s : State) : Out := run (inP0 (arrayFlip array)) s

/-- FORCE7_WRITE (R253). -/
def execForce7Write (v : W64) (s : State) : Out := run (regWrite pMXA 0x100 v (mxaCfgWrite v)) s

/-- FORCE7_APPLY (R253). -/
def execForce7Apply (s : State) : Out := run (inP0 force7Apply) s

/-- PRODUCT (R285). -/
def execProduct (d : DescRef) (s : State) : Out := run (inP0 (mvpProduct d)) s

/-- MVP_START (R287). -/
def execMvpStart (d : DescRef) (s : State) : Out := run (inP0 (startRow 2 d)) s

end Sys2Proof.Machine
end

