-- ==== Sys2Proof/Machine/RowsMove.lean ====
section
/-! DEFINITION. What each command does: the work of DMA and XPB descriptors. One meaning for each. -/

namespace Sys2Proof.Machine

/-- COPYB (R206). -/
def execCopyb (d : DescRef) (s : State) : Out := run (inP0 (dmaCopyb d)) s

/-- COPY (R206). -/
def execCopy (d : DescRef) (s : State) : Out := run (inP0 (dmaCopy d)) s

/-- PERMUTE (R205). -/
def execPermute (d : DescRef) (s : State) : Out := run (inP0 (dmaPermute d)) s

/-- GATHER (R214). -/
def execGather (d : DescRef) (s : State) : Out := run (inP0 (dmaGather d)) s

/-- SCATTER (R215). -/
def execScatter (d : DescRef) (s : State) : Out := run (inP0 (dmaScatter d)) s

/-- FILL (R216). -/
def execFill (d : DescRef) (s : State) : Out := run (inP0 (dmaFill d)) s

/-- SPLIT64 (R209). -/
def execSplit64 (d : DescRef) (s : State) : Out := run (inP0 (dmaSplit d)) s

/-- TRANSPOSE (R225). -/
def execTranspose (d : DescRef) (s : State) : Out := run (inP0 (xpbTranspose d)) s

/-- DMA_STAGE_WRITE (R226). -/
def execDmaStageWrite (v : W64) (s : State) : Out := run (regWrite pDMA 0x108 v (dmaStageWrite v)) s

/-- BUFFER_WAIT_START (R26). -/
def execBufferWaitStart (d : DescRef) (s : State) : Out := run (inP0 (bufferWait d)) s

end Sys2Proof.Machine
end

