-- ==== Sys2Proof/Machine/RowsPage.lean ====
section
/-! DEFINITION. What each command does: registers that every page has, and register writes without a row of their own. One meaning for each. -/

namespace Sys2Proof.Machine

/-- A write of PG_CTRL, as EN and QREQ. -/
def pageReg (p : Nat) (v : PageHdr → Bool × Bool) (f : Chip → Chip) (c : Chip) : Chip :=
  let w := v (pageOf c p)
  if p < 20 then regWrite p 0x050 (pack [(0, 1, b2n w.1), (1, 1, b2n w.2)]) f c else c

/-- REGISTER_WRITE (R21). -/
def execRegisterWrite (page off : Nat) (v : W64) (s : State) : Out := run (regCommand page off v) s

/-- QUIESCE_REQUEST (R22). -/
def execQuiesceRequest (page : Nat) (s : State) : Out := run (pageReg page (fun h => (h.en, true)) (quiesceRequest page)) s

/-- QUIESCE_CLEAR (R22). -/
def execQuiesceClear (page : Nat) (s : State) : Out := run (pageReg page (fun h => (h.en, false)) (quiesceClear page)) s

/-- PG_EN_WRITE (R510). -/
def execPgEnWrite (page : Nat) (en : Bool) (s : State) : Out := run (pageReg page (fun h => (en, h.qreq)) (pgEnWrite page en)) s

/-- RB_DATA_READ (R484). -/
def execRbDataRead (page : Nat) (s : State) : Out := run (fun c => if page < 20 then regRead page 0x070 (.rbDataRead page) c else c) s

/-- RB_DATA_WRITE (R485). -/
def execRbDataWrite (page : Nat) (v : W64) (s : State) : Out := run (fun c => if page < 20 then regWrite page 0x070 v (rbDataWrite page v) c else c) s

end Sys2Proof.Machine
end

