-- ==== Sys2Proof/Machine/RowsPower.lean ====
section
/-! DEFINITION. What each command does: power states, operating points, the drogue, supplies and starts. One meaning for each. -/

namespace Sys2Proof.Machine

/-- PWR_HOLD (R461). -/
def execPwrHold (s : State) : Out := run (regWrite pPWR 0x110 1#64 pwrHold) s

/-- PWR_RELEASE (R460). -/
def execPwrRelease (s : State) : Out := run (regWrite pPWR 0x110 2#64 pwrRelease) s

/-- PWR_OFF (R460). -/
def execPwrOff (s : State) : Out := run (regWrite pPWR 0x110 3#64 pwrOff) s

/-- DVFS_POINT_WRITE (R458). -/
def execDvfsPointWrite (v : W64) (s : State) : Out := run (regWrite pPWR 0x118 v (dvfsPointWrite v)) s

/-- DVFS_STEP_DONE (R458). -/
def execDvfsStepDone (s : State) : Out := run (inUp dvfsStepDone) s

/-- LAT_TOL_WRITE (R462). -/
def execLatTolWrite (v : W64) (s : State) : Out := run (regWrite pPWR 0x100 v (latTolWrite v)) s

/-- P1_ENTRY (R460). -/
def execP1Entry (s : State) : Out := run (inUp p1Entry) s

/-- P2_ENTRY (R460). -/
def execP2Entry (s : State) : Out := run (inUp p2Entry) s

/-- WAKE_EXIT_DONE (R461). -/
def execWakeExitDone (s : State) : Out := run wakeExitDone s

/-- BLOCK_GATE (R463). -/
def execBlockGate (unit : Nat) (s : State) : Out := run (inP0 (blockGate unit)) s

/-- DROGUE_ADMIT (R464). -/
def execDrogueAdmit (s : State) : Out := run drogueTurn s

/-- RAMP_DONE (R464). -/
def execRampDone (s : State) : Out := run rampTurn s

/-- ZGATE_HALF_REQUEST (R466). -/
def execZgateHalfRequest (array : Nat) (s : State) : Out := run (inP0 (zgateHalfRequest array)) s

/-- LEND_OFFER (R467). -/
def execLendOffer (s : State) : Out := run (inUp lendOffer) s

/-- PL_ACK_RISE (R467). -/
def execPlAckRise (s : State) : Out := run plAckRise s

/-- PL_ACK_FALL (R467). -/
def execPlAckFall (s : State) : Out := run plAckFall s

/-- RECLAIM_LATE (R467). -/
def execReclaimLate (s : State) : Out := run (onLink reclaimLate) s

/-- UNDERVOLTAGE (R456). -/
def execUndervoltage (s : State) : Out := run undervoltage s

/-- UV_RECOVER (R456). -/
def execUvRecover (s : State) : Out := run uvRecover s

/-- POWER_LOSS (R456). -/
def execPowerLoss (s : State) : Out := runAlways powerLoss s

/-- OVERVOLTAGE (R489). -/
def execOvervoltage (s : State) : Out := run overvoltage s

/-- POWER_ON (R488). -/
def execPowerOn (s : State) : Out := run powerOnEdge s

/-- PORST_ASSERT (R490). -/
def execPorstAssert (s : State) : Out := runAlways porstAssert s

/-- PORST_RELEASE (R468). -/
def execPorstRelease (s : State) : Out := runAlways porstRelease s

/-- WRST_RELEASE (R471). -/
def execWrstRelease (s : State) : Out := run warmRequest s

/-- WAKE_N (R492). -/
def execWakeN (s : State) : Out := run wakeN s

/-- START_CMD_WARM (R471). -/
def execStartCmdWarm (s : State) : Out := run warmRequest s

/-- START_CMD_COLD (R468). -/
def execStartCmdCold (s : State) : Out := run startCmdCold s

/-- RAIL_POWER_GOOD (R468). -/
def execRailPowerGood (s : State) : Out := run railPowerGood s

/-- REGULATOR_TIMEOUT (R468). -/
def execRegulatorTimeout (rail : Nat) (s : State) : Out := run (regulatorTimeout rail) s

/-- COLD_START_RETRY (R469). -/
def execColdStartRetry (s : State) : Out := run coldStartRetry s

/-- MARCH_TEST_DONE (R197). -/
def execMarchTestDone (failing : List W64) (s : State) : Out := run (marchDone failing) s

/-- PLL_LOCK (R468). -/
def execPllLock (s : State) : Out := run pllLock s

/-- PLL_LOCK_TIMEOUT (R468). -/
def execPllLockTimeout (s : State) : Out := run pllLockTimeout s

/-- RAIL_OUT_OF_BAND (R470). -/
def execRailOutOfBand (rail : Nat) (s : State) : Out := run (railOutOfBand rail) s

/-- REFCLK_STOP (R493). -/
def execRefclkStop (s : State) : Out := run refclkStop s

end Sys2Proof.Machine
end

