-- ==== Sys2Proof/Machine/RowsRing.lean ====
section
/-! DEFINITION. What each command does: rings and descriptors: fetch, issue, completion, and the registers of the RING page. One meaning for each. -/

namespace Sys2Proof.Machine

/-- A command of RING_CMD names a ring that exists. -/
def onRing (n : Nat) (f : Chip → Chip) (c : Chip) : Chip := if n < Config.rings then f c else c

/-- DESCRIPTOR_FETCH (R139). -/
def execDescriptorFetch (ring : Nat) (s : State) : Out := run (inP0 (ringFetch ring)) s

/-- DESCRIPTOR_ISSUE (R145). -/
def execDescriptorIssue (ring : Nat) (s : State) : Out := run (inP0 (descriptorIssue ring)) s

/-- DESCRIPTOR_COMPLETE (R142). -/
def execDescriptorComplete (d : DescRef) (s : State) : Out := run (inP0 (descriptorComplete d)) s

/-- NOP (R138). -/
def execNop (d : DescRef) (s : State) : Out := run (inP0 (descNop d)) s

/-- SEQ_INTERNAL_SPAWN (R138). -/
def execSeqInternalSpawn (d : DescRef) (s : State) : Out := run (inP0 (seqSpawn d)) s

/-- DOORBELL (R135). -/
def execDoorbell (v : W64) (s : State) : Out := run (regWrite pRING 0x140 v (doorbell v)) s

/-- RING_CFG_WRITE (R128). -/
def execRingCfgWrite (v : W64) (s : State) : Out := run (regWrite pRING 0x110 v (ringCfgWrite v)) s

/-- RING_BASE_WRITE (R128). -/
def execRingBaseWrite (v : W64) (s : State) : Out := run (regWrite pRING 0x108 v (ringBaseWrite v)) s

/-- RING_RESUME (R148). -/
def execRingResume (ring : Nat) (s : State) : Out := run (regWrite pRING 0x138 (pack [(0, 15, ring), (16, 4, 1)]) (onRing ring (ringResume ring))) s

/-- RING_SKIP (R148). -/
def execRingSkip (ring : Nat) (s : State) : Out := run (regWrite pRING 0x138 (pack [(0, 15, ring), (16, 4, 2)]) (onRing ring (ringRetire false ring))) s

/-- RING_SKIP_SIGNAL (R148). -/
def execRingSkipSignal (ring : Nat) (s : State) : Out := run (regWrite pRING 0x138 (pack [(0, 15, ring), (16, 4, 3)]) (onRing ring (ringRetire true ring))) s

/-- SETIDX (R157). -/
def execSetidx (ring : Nat) (value : Nat) (s : State) : Out := run (regWrite pRING 0x138 (pack [(0, 15, ring), (16, 4, 4), (32, 32, value)]) (onRing ring (setIdx ring (value % 2 ^ 32)))) s

/-- DONE_Q_READ (R155). -/
def execDoneQRead (s : State) : Out := run (regRead pRING 0x148 .doneQRead) s

end Sys2Proof.Machine
end

