-- ==== Sys2Proof/Machine/RowsSeq.lean ====
section
/-! DEFINITION. What each command does: the other instructions of the sequencer, the ends of their waits, and the commands of the SEQ page. One meaning for each. -/

namespace Sys2Proof.Machine

/-- LD (R116). -/
def execLd (o : SeqOp) (s : State) : Out := run (seqLd o) s

/-- ST (R116). -/
def execSt (o : SeqOp) (s : State) : Out := run (seqSt o) s

/-- AMOADD (R116). -/
def execAmoadd (o : SeqOp) (s : State) : Out := run (seqAmoadd o) s

/-- AMOSWAP (R116). -/
def execAmoswap (o : SeqOp) (s : State) : Out := run (seqAmoswap o) s

/-- AMOCAS (R116). -/
def execAmocas (o : SeqOp) (s : State) : Out := run (seqAmocas o) s

/-- AMOMAXU (R116). -/
def execAmomaxu (o : SeqOp) (s : State) : Out := run (seqAmomaxu o) s

/-- B (R118). -/
def execB (o : SeqOp) (s : State) : Out := run (seqB o) s

/-- BL (R118). -/
def execBl (o : SeqOp) (s : State) : Out := run (seqBl o) s

/-- JR (R118). -/
def execJr (o : SeqOp) (s : State) : Out := run (seqJr o) s

/-- JLR (R118). -/
def execJlr (o : SeqOp) (s : State) : Out := run (seqJlr o) s

/-- DBNZ (R118). -/
def execDbnz (o : SeqOp) (s : State) : Out := run (seqDbnz o) s

/-- BZ (R118). -/
def execBz (o : SeqOp) (s : State) : Out := run (seqBz o) s

/-- BNZ (R118). -/
def execBnz (o : SeqOp) (s : State) : Out := run (seqBnz o) s

/-- RING_PUT (R119). -/
def execRingPut (o : SeqOp) (s : State) : Out := run (seqRingPut o) s

/-- RING_PUT2 (R119). -/
def execRingPut2 (o : SeqOp) (s : State) : Out := run (seqRingPut2 o) s

/-- RING_GETW (R119). -/
def execRingGetw (o : SeqOp) (s : State) : Out := run (seqRingGetw o) s

/-- RING_CLR (R119). -/
def execRingClr (o : SeqOp) (s : State) : Out := run (seqRingClr o) s

/-- RING_PUSH (R133). -/
def execRingPush (o : SeqOp) (s : State) : Out := run (seqRingPush o) s

/-- RING_PUSHR (R133). -/
def execRingPushr (o : SeqOp) (s : State) : Out := run (seqRingPushr o) s

/-- RING_TAIL (R119). -/
def execRingTail (o : SeqOp) (s : State) : Out := run (seqRingTail o) s

/-- RING_HEAD (R119). -/
def execRingHead (o : SeqOp) (s : State) : Out := run (seqRingHead o) s

/-- WAIT (R121). -/
def execWait (o : SeqOp) (s : State) : Out := run (seqWait o) s

/-- TEST (R121). -/
def execTest (o : SeqOp) (s : State) : Out := run (seqTest o) s

/-- SIGNAL (R160). -/
def execSignal (o : SeqOp) (s : State) : Out := run (seqSignal o) s

/-- SIGNALR (R171). -/
def execSignalr (o : SeqOp) (s : State) : Out := run (seqSignalr o) s

/-- CTRRD (R121). -/
def execCtrrd (o : SeqOp) (s : State) : Out := run (seqCtrrd o) s

/-- FENCE_LD (R105). -/
def execFenceLd (o : SeqOp) (s : State) : Out := run (seqFenceLd o) s

/-- FENCE_ST (R105). -/
def execFenceSt (o : SeqOp) (s : State) : Out := run (seqFenceSt o) s

/-- FENCE_ALL (R105). -/
def execFenceAll (o : SeqOp) (s : State) : Out := run (seqFenceAll o) s

/-- BARARR (R178). -/
def execBararr (o : SeqOp) (s : State) : Out := run (seqBararr o) s

/-- BARWAIT (R179). -/
def execBarwait (o : SeqOp) (s : State) : Out := run (seqBarwait o) s

/-- SUM_POP (R122). -/
def execSumPop (o : SeqOp) (s : State) : Out := run (seqSumPop o) s

/-- SUM_TRY (R122). -/
def execSumTry (o : SeqOp) (s : State) : Out := run (seqSumTry o) s

/-- SUM_PEEK (R122). -/
def execSumPeek (o : SeqOp) (s : State) : Out := run (seqSumPeek o) s

/-- SUM_COUNT (R122). -/
def execSumCount (o : SeqOp) (s : State) : Out := run (seqSumCount o) s

/-- SUM_DROP (R122). -/
def execSumDrop (o : SeqOp) (s : State) : Out := run (seqSumDrop o) s

/-- SYS_NOP (R123). -/
def execSysNop (o : SeqOp) (s : State) : Out := run (seqNop o) s

/-- YIELD (R123). -/
def execYield (o : SeqOp) (s : State) : Out := run (seqYield o) s

/-- EXIT (R96). -/
def execExit (o : SeqOp) (s : State) : Out := run (seqExit o) s

/-- SPAWN (R123). -/
def execSpawn (o : SeqOp) (s : State) : Out := run (seqSpawnOp o) s

/-- CID (R123). -/
def execCid (o : SeqOp) (s : State) : Out := run (seqCid o) s

/-- TIMERD (R123). -/
def execTimerd (o : SeqOp) (s : State) : Out := run (seqTimerd o) s

/-- SLEEPT (R123). -/
def execSleept (o : SeqOp) (s : State) : Out := run (seqSleept o) s

/-- PGRD (R124). -/
def execPgrd (o : SeqOp) (s : State) : Out := run (seqPgrd o) s

/-- PGWR (R124). -/
def execPgwr (o : SeqOp) (s : State) : Out := run (seqPgwr o) s

/-- NOTIFY (R124). -/
def execNotify (o : SeqOp) (s : State) : Out := run (seqNotify o) s

/-- SWFAULT (R123). -/
def execSwfault (o : SeqOp) (s : State) : Out := run (seqSwfault o) s

/-- IFLUSH (R101). -/
def execIflush (o : SeqOp) (s : State) : Out := run (seqIflush o) s

/-- LOAD_RETURN (R117). -/
def execLoadReturn (ctx tag : Nat) (s : State) : Out := run (inUp (loadReturn ctx tag)) s

/-- STORE_ACK (R104). -/
def execStoreAck (ctx tag : Nat) (s : State) : Out := run (inUp (storeAck ctx tag)) s

/-- FETCH_FILL (R100). -/
def execFetchFill (ctx : Nat) (s : State) : Out := run (inP0 (fetchFill ctx)) s

/-- IFLUSH_DONE (R123). -/
def execIflushDone (ctx : Nat) (s : State) : Out := run (iflushDone ctx) s

/-- SLEEPT_DEADLINE (R123). -/
def execSleeptDeadline (ctx : Nat) (s : State) : Out := run (sleeptDeadline ctx) s

/-- WAIT_TIMEOUT (R183). -/
def execWaitTimeout (ctx : Nat) (s : State) : Out := run (waitTimeout ctx) s

/-- CTX_START (R97). -/
def execCtxStart (s : State) : Out := run (regWrite pSEQ 0x110 1#64 (ctxCommand ctxStart)) s

/-- CTX_STOP (R97). -/
def execCtxStop (s : State) : Out := run (regWrite pSEQ 0x110 2#64 (ctxCommand ctxStop)) s

/-- CTX_RESUME (R97). -/
def execCtxResume (s : State) : Out := run (regWrite pSEQ 0x110 3#64 (ctxCommand ctxResume)) s

/-- CTX_KILL (R97). -/
def execCtxKill (s : State) : Out := run (regWrite pSEQ 0x110 4#64 (ctxCommand ctxKill)) s

/-- CTX_PC_WRITE (R125). -/
def execCtxPcWrite (v : W64) (s : State) : Out := run (regWrite pSEQ 0x120 v (ctxPcWrite v)) s

/-- CTX_REGDATA_WRITE (R97). -/
def execCtxRegdataWrite (v : W64) (s : State) : Out := run (regWrite pSEQ 0x130 v (regdataWrite v)) s

/-- ICACHE_FLUSH (R125). -/
def execIcacheFlush (s : State) : Out := run (regWrite pSEQ 0x148 1#64 flushIcache) s

/-- SPAWN_FAIL_CLEAR (R515). -/
def execSpawnFailClear (s : State) : Out := run (regWrite pSEQ 0x158 0#64 fun c => { c with seq.spawnFail := 0 }) s

end Sys2Proof.Machine
end

