-- ==== Sys2Proof/Machine/RowsSync.lean ====
section
/-! DEFINITION. What each command does: counters, maps, signals, watches and bridle lines: the SYNC page. One meaning for each. -/

namespace Sys2Proof.Machine

/-- CTR_VAL_WRITE (R162). -/
def execCtrValWrite (v : W64) (s : State) : Out := run (regWrite pSYNC 0x138 v (ctrValWrite v)) s

/-- CTR_ADD_WRITE (R160). -/
def execCtrAddWrite (v : W64) (s : State) : Out := run (regWrite pSYNC 0x140 v (ctrAddWrite v)) s

/-- COUNTER_ECC (R163). -/
def execCounterEcc (ctr : Nat) (s : State) : Out := run (inUp fun c => if ctr < Config.counters then counterEcc ctr c else c) s

/-- VMAP_WRITE (R165). -/
def execVmapWrite (v : W64) (s : State) : Out := run (regWrite pSYNC 0x118 v (vmapWrite v)) s

/-- VMAP_INV_ENTRY (R167). -/
def execVmapInvEntry (ctx vctr : Nat) (s : State) : Out := run (regWrite pSYNC 0x128 (pack [(0, 16, ctx), (16, 16, vctr)]) (invEntry (ctx % 65536) (vctr % 65536))) s

/-- VMAP_INV_CTX (R167). -/
def execVmapInvCtx (ctx : Nat) (s : State) : Out := run (regWrite pSYNC 0x128 (pack [(0, 16, ctx), (32, 1, 1)]) (invCtx (ctx % 65536))) s

/-- VMAP_INV_GLOBAL (R167). -/
def execVmapInvGlobal (s : State) : Out := run (regWrite pSYNC 0x128 (pack [(33, 1, 1)]) (invGlobal)) s

/-- RSIG_STAT_CLEAR (R185). -/
def execRsigStatClear (s : State) : Out := run (regWrite pSYNC 0x160 0#64 (rsigStatClear)) s

/-- WATCH_WRITE (R185). -/
def execWatchWrite (w : Nat) (v : W64) (s : State) : Out := run (regWrite pSYNC (0x190 + 8 * w) v (fun c => if w < 8 then watchWrite w v c else c)) s

/-- WATCH_CTL_WRITE (R185). -/
def execWatchCtlWrite (v : W64) (s : State) : Out := run (regWrite pSYNC 0x1D0 v (watchCtlWrite v)) s

/-- COMPAT_SIGNAL_APPLY (R176). -/
def execCompatSignalApply (k : Nat) (s : State) : Out := run (inUp (compatApply k)) s

/-- BAR_ENABLE (R180). -/
def execBarEnable (v : W64) (s : State) : Out := run (regWrite pSYNC 0x178 (v ||| 1#64) (barCfgWrite (v ||| 1#64))) s

/-- BAR_DISABLE (R180). -/
def execBarDisable (v : W64) (s : State) : Out := run (regWrite pSYNC 0x178 (v &&& ~~~(1#64)) (barCfgWrite (v &&& ~~~(1#64)))) s

/-- BAR_IN_RISE (R177). -/
def execBarInRise (line : Nat) (s : State) : Out := run (onLink (barInRise line)) s

/-- BAR_HOLD_EXPIRE (R177). -/
def execBarHoldExpire (line : Nat) (s : State) : Out := run (onLink (barHoldExpire line)) s

/-- BAR_IN_LOW (R177). -/
def execBarInLow (line : Nat) (s : State) : Out := run (onLink (barInLow line)) s

end Sys2Proof.Machine
end

