-- ==== Sys2Proof/Machine/RowsTime.lean ====
section
/-! DEFINITION. What each command does: the time base and trace. One meaning for each. -/

namespace Sys2Proof.Machine

/-- TPULSE_EDGE (R475). -/
def execTpulseEdge (s : State) : Out := run (onLink tpulseEdge) s

/-- TPULSE_ARM (R475). -/
def execTpulseArm (v : W64) (s : State) : Out := run (regWrite pTIME 0x110 v (tpulseArm v)) s

/-- HOLDOVER_EXPIRE (R477). -/
def execHoldoverExpire (s : State) : Out := run (onLink holdoverExpire) s

/-- TIME_MARK (R478). -/
def execTimeMark (v : W64) (who : Nat) (s : State) : Out := run (regWrite pTIME 0x128 v (timeMark v (who % 2 ^ 16))) s

/-- TIME_STAT_CLEAR (R486). -/
def execTimeStatClear (s : State) : Out := run (regWrite pTIME 0x120 0#64 timeStatClear) s

/-- TRACE_CFG_WRITE (R486). -/
def execTraceCfgWrite (v : W64) (s : State) : Out := run (regWrite pTIME 0x140 v (traceCfgWrite v)) s

/-- TRACE_HEAD_WRITE (R486). -/
def execTraceHeadWrite (v : W64) (s : State) : Out := run (regWrite pTIME 0x148 v (traceHeadWrite v)) s

/-- TRACE_STAT_CLEAR (R486). -/
def execTraceStatClear (s : State) : Out := run (regWrite pTIME 0x158 0#64 (traceStatWrite 0#64)) s

/-- TRACE_RECORD_ACK (R479). -/
def execTraceRecordAck (ring : Nat) (s : State) : Out := run (onLink fun c => if ring < 8 then traceAck ring c else c) s

end Sys2Proof.Machine
end

