-- ==== Sys2Proof/Machine/RowsTrain.lean ====
section
/-! DEFINITION. What each command does: the work of WVM and SNAP descriptors. One meaning for each. -/

namespace Sys2Proof.Machine

/-- OPEN_TAKE: an OPEN that has started takes the regions whose slots are free now (R378). -/
def openTakes (q : DescRef) (c : Chip) : Chip := wvmOpen q c

/-- PIN_WAIT_START: a checked descriptor whose pins did not fit tries again to start (R374). -/
def pinStart (q : DescRef) (c : Chip) : Chip := startRow (ringOf c q.ring).cls q c

/-- A write of one of the four registers of the selected stream (R436). -/
def streamReg (off : Nat) (v : W64) (c : Chip) : Chip :=
  if off = 0x130 ∨ off = 0x138 ∨ off = 0x140 ∨ off = 0x148 then snapStreamWrite off v c else c

/-- REGISTER (R371). -/
def execRegisterRgn (d : DescRef) (s : State) : Out := run (inP0 (wvmRegister d)) s

/-- RELEASE (R382). -/
def execRelease (d : DescRef) (s : State) : Out := run (inP0 (wvmRelease d)) s

/-- OPEN (R378). -/
def execOpenStep (d : DescRef) (s : State) : Out := run (inP0 (wvmOpen d)) s

/-- OPEN_TAKE (R378). -/
def execOpenTake (d : DescRef) (s : State) : Out := run (inP0 (openTakes d)) s

/-- COMMIT (R379). -/
def execCommit (d : DescRef) (s : State) : Out := run (inP0 (wvmCommit d)) s

/-- SKIP (R379). -/
def execSkip (d : DescRef) (s : State) : Out := run (inP0 (wvmSkip d)) s

/-- PIN (R375). -/
def execPin (d : DescRef) (s : State) : Out := run (inP0 (wvmPin d)) s

/-- PIN_WAIT_START (R374). -/
def execPinWaitStart (d : DescRef) (s : State) : Out := run (inP0 (pinStart d)) s

/-- UNPIN (R375). -/
def execUnpin (d : DescRef) (s : State) : Out := run (inP0 (wvmUnpin d)) s

/-- THAW (R381). -/
def execThaw (d : DescRef) (s : State) : Out := run (inP0 (wvmThaw d)) s

/-- BEGIN (R438). -/
def execBegin (d : DescRef) (s : State) : Out := run (inP0 (snapBegin d)) s

/-- JOURNAL (R442). -/
def execJournal (d : DescRef) (s : State) : Out := run (inP0 (snapJournal d)) s

/-- TRICKLE (R443). -/
def execTrickle (d : DescRef) (s : State) : Out := run (inP0 (snapTrickle d)) s

/-- SNAP_CLOSE (R446). -/
def execSnapClose (d : DescRef) (s : State) : Out := run (inP0 (snapClose d)) s

/-- DIGEST (R445). -/
def execDigest (d : DescRef) (s : State) : Out := run (inP0 (snapDigest d)) s

/-- RESTORE (R448). -/
def execRestore (d : DescRef) (s : State) : Out := run (inP0 (snapRestore d)) s

/-- ABANDON (R439). -/
def execAbandon (d : DescRef) (s : State) : Out := run (inP0 (snapAbandon d)) s

/-- WVM_HOLD (R379). -/
def execWvmHold (s : State) : Out := run (inP0 wvmHold) s

/-- SNAP_LATCH_COPY (R438). -/
def execSnapLatchCopy (s : State) : Out := run (inP0 snapLatchCopy) s

/-- WVM_STEP_WRITE (R387). -/
def execWvmStepWrite (v : W64) (s : State) : Out := run (regWrite pWVM 0x100 v (wvmStepWrite v)) s

/-- TEE_BLOCK_ACK (R441). -/
def execTeeBlockAck (k : Nat) (s : State) : Out := run (inUp (teeBlockAck k)) s

/-- TRICKLE_REGION_DONE (R443). -/
def execTrickleRegionDone (region : Nat) (s : State) : Out := run (inP0 (trickleRegionDone region)) s

/-- SNAP_STREAM_WRITE (R436). -/
def execSnapStreamWrite (off : Nat) (v : W64) (s : State) : Out := run (regWrite pSNAP off v (streamReg off v)) s

/-- SNAP_STAT_CLEAR (R454). -/
def execSnapStatClear (s : State) : Out := run (regWrite pSNAP 0x160 0#64 snapStatClear) s

/-- MTBF_WRITE (R447). -/
def execMtbfWrite (v : W64) (s : State) : Out := run (regWrite pSNAP 0x178 v (mtbfWrite v)) s

end Sys2Proof.Machine
end

