-- ==== Sys2Proof/Machine/RowsVector.lean ====
section
/-! DEFINITION. What each command does: the work of VEC and RDU descriptors and the scale tracker. One meaning for each. -/

namespace Sys2Proof.Machine

/-- TAPPED_RUN_START: a checked RUN whose outputs an LREDUCE takes (R349). -/
def tappedStart (q : DescRef) (c : Chip) : Chip := startRow 3 q c

/-- FWD_ROW (R304). -/
def execFwdRow (chain : Nat) (s : State) : Out := run (inP0 (fwdRow chain)) s

/-- RUN (R295). -/
def execRun (d : DescRef) (s : State) : Out := run (inP0 (vecRun d)) s

/-- TREDUCE (R321). -/
def execTreduce (d : DescRef) (s : State) : Out := run (inP0 (vecTreduce d)) s

/-- VEC_START (R324). -/
def execVecStart (d : DescRef) (s : State) : Out := run (inP0 (startRow 3 d)) s

/-- TAPPED_RUN_START (R349). -/
def execTappedRunStart (d : DescRef) (s : State) : Out := run (inP0 (tappedStart d)) s

/-- LREDUCE (R350). -/
def execLreduce (d : DescRef) (s : State) : Out := run (inP0 (rduLreduce d)) s

/-- CREDUCE (R353). -/
def execCreduce (d : DescRef) (s : State) : Out := run (inP0 (rduCreduce d)) s

/-- CREDUCE_PIECE (R353). -/
def execCreducePiece (d : DescRef) (s : State) : Out := run (inP0 (rduCreducePiece d)) s

/-- XREDUCE (R358). -/
def execXreduce (d : DescRef) (s : State) : Out := run (inP0 (rduXreduce d)) s

/-- SCT_TAP (R361). -/
def execSctTap (k : Nat) (s : State) : Out := run (inP0 (sctTap k)) s

/-- SLOT_CFG_WRITE (R365). -/
def execSlotCfgWrite (v : W64) (s : State) : Out := run (regWrite pSCT 0x110 v (slotCfgWrite v)) s

/-- SLOT_SCALE_WRITE (R365). -/
def execSlotScaleWrite (v : W64) (s : State) : Out := run (regWrite pSCT 0x118 v (slotScaleWrite v)) s

/-- CLR_HIST (R365). -/
def execClrHist (s : State) : Out := run (regWrite pSCT 0x130 1#64 sctClrHist) s

/-- CLR_PEND (R365). -/
def execClrPend (s : State) : Out := run (regWrite pSCT 0x130 2#64 sctClrPend) s

/-- SCT_STAT_CLEAR (R365). -/
def execSctStatClear (s : State) : Out := run (regWrite pSCT 0x138 0#64 sctStatClear) s

end Sys2Proof.Machine
end

