-- ==== Sys2Proof/Machine/RowsWrap.lean ====
section
/-! DEFINITION. What each command does: the test wrapper. One meaning for each. -/

namespace Sys2Proof.Machine

/-- WS_BYPASS (R504). -/
def execWsBypass (s : State) : Out := run wsBypass s

/-- WS_EXTEST (R505). -/
def execWsExtest (s : State) : Out := run wsExtest s

/-- WS_CLAMP (R505). -/
def execWsClamp (s : State) : Out := run wsClamp s

/-- WS_SAFE (R505). -/
def execWsSafe (s : State) : Out := run wsSafe s

/-- WS_INTEST (R505). -/
def execWsIntest (s : State) : Out := run wsIntest s

/-- MBIST (R505). -/
def execMbist (bank : Nat) (s : State) : Out := run (mbistGo bank) s

/-- MBIST_DONE (R504). -/
def execMbistDone (fail : Bool) (s : State) : Out := run (mbistEnds fail) s

/-- REGACC (R506). -/
def execRegacc (v : W64) (go : Bool) (write : Bool) (off : Nat) (s : State) : Out := run (wrapRegacc v go write off) s

/-- IMGREAD (R504). -/
def execImgread (index : Nat) (s : State) : Out := run (imgRead index) s

/-- TW_WRSTN (R504). -/
def execTwWrstn (s : State) : Out := run twWrstn s

end Sys2Proof.Machine
end

