-- ==== Sys2Proof/Machine/Dispatch.lean ====
section
/-! DEFINITION. The one place where a command is given its meaning: one arm per command of the table. -/

namespace Sys2Proof.Machine

/-- The effect of a command on everything but the queue. -/
def exec (i : Instr) (s : State) : Host.Outcome State Fault Refusal :=
  match i with
  | .add o => Sys2Proof.Machine.execAdd o s
  | .sub o => Sys2Proof.Machine.execSub o s
  | .mul o => Sys2Proof.Machine.execMul o s
  | .mulhu o => Sys2Proof.Machine.execMulhu o s
  | .mulhs o => Sys2Proof.Machine.execMulhs o s
  | .divu o => Sys2Proof.Machine.execDivu o s
  | .divs o => Sys2Proof.Machine.execDivs o s
  | .remu o => Sys2Proof.Machine.execRemu o s
  | .rems o => Sys2Proof.Machine.execRems o s
  | .and o => Sys2Proof.Machine.execAnd o s
  | .or o => Sys2Proof.Machine.execOr o s
  | .xor o => Sys2Proof.Machine.execXor o s
  | .andn o => Sys2Proof.Machine.execAndn o s
  | .shl o => Sys2Proof.Machine.execShl o s
  | .shr o => Sys2Proof.Machine.execShr o s
  | .sar o => Sys2Proof.Machine.execSar o s
  | .rol o => Sys2Proof.Machine.execRol o s
  | .min o => Sys2Proof.Machine.execMin o s
  | .max o => Sys2Proof.Machine.execMax o s
  | .minu o => Sys2Proof.Machine.execMinu o s
  | .maxu o => Sys2Proof.Machine.execMaxu o s
  | .clz o => Sys2Proof.Machine.execClz o s
  | .ctz o => Sys2Proof.Machine.execCtz o s
  | .popc o => Sys2Proof.Machine.execPopc o s
  | .sel o => Sys2Proof.Machine.execSel o s
  | .madd o => Sys2Proof.Machine.execMadd o s
  | .bfx o => Sys2Proof.Machine.execBfx o s
  | .bfi o => Sys2Proof.Machine.execBfi o s
  | .cmpeq o => Sys2Proof.Machine.execCmpeq o s
  | .cmpne o => Sys2Proof.Machine.execCmpne o s
  | .cmplt o => Sys2Proof.Machine.execCmplt o s
  | .cmple o => Sys2Proof.Machine.execCmple o s
  | .cmpltu o => Sys2Proof.Machine.execCmpltu o s
  | .cmpleu o => Sys2Proof.Machine.execCmpleu o s
  | .pand o => Sys2Proof.Machine.execPand o s
  | .por o => Sys2Proof.Machine.execPor o s
  | .pxor o => Sys2Proof.Machine.execPxor o s
  | .pandn o => Sys2Proof.Machine.execPandn o s
  | .movp o => Sys2Proof.Machine.execMovp o s
  | .movtp o => Sys2Proof.Machine.execMovtp o s
  | .fadd o => Sys2Proof.Machine.execFadd o s
  | .fsub o => Sys2Proof.Machine.execFsub o s
  | .fmul o => Sys2Proof.Machine.execFmul o s
  | .fdiv o => Sys2Proof.Machine.execFdiv o s
  | .fsqrt o => Sys2Proof.Machine.execFsqrt o s
  | .fma o => Sys2Proof.Machine.execFma o s
  | .fmin o => Sys2Proof.Machine.execFmin o s
  | .fmax o => Sys2Proof.Machine.execFmax o s
  | .fcmplt o => Sys2Proof.Machine.execFcmplt o s
  | .fcmple o => Sys2Proof.Machine.execFcmple o s
  | .fcmpeq o => Sys2Proof.Machine.execFcmpeq o s
  | .fcvti o => Sys2Proof.Machine.execFcvti o s
  | .icvtf o => Sys2Proof.Machine.execIcvtf o s
  | .fisfin o => Sys2Proof.Machine.execFisfin o s
  | .movi o => Sys2Proof.Machine.execMovi o s
  | .orhi o => Sys2Proof.Machine.execOrhi o s
  | .ld o => Sys2Proof.Machine.execLd o s
  | .st o => Sys2Proof.Machine.execSt o s
  | .amoadd o => Sys2Proof.Machine.execAmoadd o s
  | .amoswap o => Sys2Proof.Machine.execAmoswap o s
  | .amocas o => Sys2Proof.Machine.execAmocas o s
  | .amomaxu o => Sys2Proof.Machine.execAmomaxu o s
  | .loadReturn ctx tag => Sys2Proof.Machine.execLoadReturn ctx tag s
  | .storeAck ctx tag => Sys2Proof.Machine.execStoreAck ctx tag s
  | .fetchFill ctx => Sys2Proof.Machine.execFetchFill ctx s
  | .b o => Sys2Proof.Machine.execB o s
  | .bl o => Sys2Proof.Machine.execBl o s
  | .jr o => Sys2Proof.Machine.execJr o s
  | .jlr o => Sys2Proof.Machine.execJlr o s
  | .dbnz o => Sys2Proof.Machine.execDbnz o s
  | .bz o => Sys2Proof.Machine.execBz o s
  | .bnz o => Sys2Proof.Machine.execBnz o s
  | .ringPut o => Sys2Proof.Machine.execRingPut o s
  | .ringPut2 o => Sys2Proof.Machine.execRingPut2 o s
  | .ringGetw o => Sys2Proof.Machine.execRingGetw o s
  | .ringClr o => Sys2Proof.Machine.execRingClr o s
  | .ringPush o => Sys2Proof.Machine.execRingPush o s
  | .ringPushr o => Sys2Proof.Machine.execRingPushr o s
  | .ringTail o => Sys2Proof.Machine.execRingTail o s
  | .ringHead o => Sys2Proof.Machine.execRingHead o s
  | .wait o => Sys2Proof.Machine.execWait o s
  | .test o => Sys2Proof.Machine.execTest o s
  | .signal o => Sys2Proof.Machine.execSignal o s
  | .signalr o => Sys2Proof.Machine.execSignalr o s
  | .ctrrd o => Sys2Proof.Machine.execCtrrd o s
  | .fenceLd o => Sys2Proof.Machine.execFenceLd o s
  | .fenceSt o => Sys2Proof.Machine.execFenceSt o s
  | .fenceAll o => Sys2Proof.Machine.execFenceAll o s
  | .bararr o => Sys2Proof.Machine.execBararr o s
  | .barwait o => Sys2Proof.Machine.execBarwait o s
  | .sumPop o => Sys2Proof.Machine.execSumPop o s
  | .sumTry o => Sys2Proof.Machine.execSumTry o s
  | .sumPeek o => Sys2Proof.Machine.execSumPeek o s
  | .sumCount o => Sys2Proof.Machine.execSumCount o s
  | .sumDrop o => Sys2Proof.Machine.execSumDrop o s
  | .sysNop o => Sys2Proof.Machine.execSysNop o s
  | .yield o => Sys2Proof.Machine.execYield o s
  | .exit o => Sys2Proof.Machine.execExit o s
  | .spawn o => Sys2Proof.Machine.execSpawn o s
  | .cid o => Sys2Proof.Machine.execCid o s
  | .timerd o => Sys2Proof.Machine.execTimerd o s
  | .sleept o => Sys2Proof.Machine.execSleept o s
  | .pgrd o => Sys2Proof.Machine.execPgrd o s
  | .pgwr o => Sys2Proof.Machine.execPgwr o s
  | .notify o => Sys2Proof.Machine.execNotify o s
  | .swfault o => Sys2Proof.Machine.execSwfault o s
  | .iflush o => Sys2Proof.Machine.execIflush o s
  | .iflushDone ctx => Sys2Proof.Machine.execIflushDone ctx s
  | .sleeptDeadline ctx => Sys2Proof.Machine.execSleeptDeadline ctx s
  | .waitTimeout ctx => Sys2Proof.Machine.execWaitTimeout ctx s
  | .ctxPcWrite v => Sys2Proof.Machine.execCtxPcWrite v s
  | .ctxRegdataWrite v => Sys2Proof.Machine.execCtxRegdataWrite v s
  | .descriptorFetch ring => Sys2Proof.Machine.execDescriptorFetch ring s
  | .descriptorIssue ring => Sys2Proof.Machine.execDescriptorIssue ring s
  | .descriptorComplete d => Sys2Proof.Machine.execDescriptorComplete d s
  | .nop d => Sys2Proof.Machine.execNop d s
  | .seqInternalSpawn d => Sys2Proof.Machine.execSeqInternalSpawn d s
  | .doorbell v => Sys2Proof.Machine.execDoorbell v s
  | .ringCfgWrite v => Sys2Proof.Machine.execRingCfgWrite v s
  | .ringBaseWrite v => Sys2Proof.Machine.execRingBaseWrite v s
  | .ringResume ring => Sys2Proof.Machine.execRingResume ring s
  | .ringSkip ring => Sys2Proof.Machine.execRingSkip ring s
  | .ringSkipSignal ring => Sys2Proof.Machine.execRingSkipSignal ring s
  | .setidx ring value => Sys2Proof.Machine.execSetidx ring value s
  | .ctrValWrite v => Sys2Proof.Machine.execCtrValWrite v s
  | .ctrAddWrite v => Sys2Proof.Machine.execCtrAddWrite v s
  | .counterEcc ctr => Sys2Proof.Machine.execCounterEcc ctr s
  | .vmapWrite v => Sys2Proof.Machine.execVmapWrite v s
  | .vmapInvEntry ctx vctr => Sys2Proof.Machine.execVmapInvEntry ctx vctr s
  | .vmapInvCtx ctx => Sys2Proof.Machine.execVmapInvCtx ctx s
  | .watchWrite w v => Sys2Proof.Machine.execWatchWrite w v s
  | .watchCtlWrite v => Sys2Proof.Machine.execWatchCtlWrite v s
  | .compatSignalApply k => Sys2Proof.Machine.execCompatSignalApply k s
  | .barEnable v => Sys2Proof.Machine.execBarEnable v s
  | .barDisable v => Sys2Proof.Machine.execBarDisable v s
  | .barInRise line => Sys2Proof.Machine.execBarInRise line s
  | .barHoldExpire line => Sys2Proof.Machine.execBarHoldExpire line s
  | .barInLow line => Sys2Proof.Machine.execBarInLow line s
  | .scrubRead bank => Sys2Proof.Machine.execScrubRead bank s
  | .eccWriteback word => Sys2Proof.Machine.execEccWriteback word s
  | .lmemArbWrite v => Sys2Proof.Machine.execLmemArbWrite v s
  | .eccInjectWrite v => Sys2Proof.Machine.execEccInjectWrite v s
  | .copyb d => Sys2Proof.Machine.execCopyb d s
  | .copy d => Sys2Proof.Machine.execCopy d s
  | .permute d => Sys2Proof.Machine.execPermute d s
  | .gather d => Sys2Proof.Machine.execGather d s
  | .scatter d => Sys2Proof.Machine.execScatter d s
  | .fill d => Sys2Proof.Machine.execFill d s
  | .split64 d => Sys2Proof.Machine.execSplit64 d s
  | .dmaStageWrite v => Sys2Proof.Machine.execDmaStageWrite v s
  | .transpose d => Sys2Proof.Machine.execTranspose d s
  | .stream d => Sys2Proof.Machine.execStream d s
  | .taps d => Sys2Proof.Machine.execTaps d s
  | .arrayFlip array => Sys2Proof.Machine.execArrayFlip array s
  | .force7Write v => Sys2Proof.Machine.execForce7Write v s
  | .product d => Sys2Proof.Machine.execProduct d s
  | .run d => Sys2Proof.Machine.execRun d s
  | .treduce d => Sys2Proof.Machine.execTreduce d s
  | .lreduce d => Sys2Proof.Machine.execLreduce d s
  | .creduce d => Sys2Proof.Machine.execCreduce d s
  | .xreduce d => Sys2Proof.Machine.execXreduce d s
  | .sctTap k => Sys2Proof.Machine.execSctTap k s
  | .slotCfgWrite v => Sys2Proof.Machine.execSlotCfgWrite v s
  | .slotScaleWrite v => Sys2Proof.Machine.execSlotScaleWrite v s
  | .registerRgn d => Sys2Proof.Machine.execRegisterRgn d s
  | .release d => Sys2Proof.Machine.execRelease d s
  | .openStep d => Sys2Proof.Machine.execOpenStep d s
  | .commit d => Sys2Proof.Machine.execCommit d s
  | .skip d => Sys2Proof.Machine.execSkip d s
  | .pin d => Sys2Proof.Machine.execPin d s
  | .unpin d => Sys2Proof.Machine.execUnpin d s
  | .thaw d => Sys2Proof.Machine.execThaw d s
  | .wvmStepWrite v => Sys2Proof.Machine.execWvmStepWrite v s
  | .put d => Sys2Proof.Machine.execPut d s
  | .reshard d => Sys2Proof.Machine.execReshard d s
  | .lguardWrite v => Sys2Proof.Machine.execLguardWrite v s
  | .trainingWord port lane mark good st => Sys2Proof.Machine.execTrainingWord port lane mark good st s
  | .trainingTimeout port => Sys2Proof.Machine.execTrainingTimeout port s
  | .laneLockLoss port lane => Sys2Proof.Machine.execLaneLockLoss port lane s
  | .ackTimeout port => Sys2Proof.Machine.execAckTimeout port s
  | .flitData port f => Sys2Proof.Machine.execFlitData port f s
  | .flitIdle port f => Sys2Proof.Machine.execFlitIdle port f s
  | .flitReplay port f => Sys2Proof.Machine.execFlitReplay port f s
  | .negotiate port p => Sys2Proof.Machine.execNegotiate port p s
  | .wr port p => Sys2Proof.Machine.execWr port p s
  | .rd port p => Sys2Proof.Machine.execRd port p s
  | .amo port p => Sys2Proof.Machine.execAmo port p s
  | .sig port p => Sys2Proof.Machine.execSig port p s
  | .wrack port p => Sys2Proof.Machine.execWrack port p s
  | .rddata port p => Sys2Proof.Machine.execRddata port p s
  | .amorsp port p => Sys2Proof.Machine.execAmorsp port p s
  | .sigack port p => Sys2Proof.Machine.execSigack port p s
  | .respTimeout tag => Sys2Proof.Machine.execRespTimeout tag s
  | .routeHoldTimeout k => Sys2Proof.Machine.execRouteHoldTimeout k s
  | .timeSyncSend port => Sys2Proof.Machine.execTimeSyncSend port s
  | .timeSync port p => Sys2Proof.Machine.execTimeSync port p s
  | .timeReply port p => Sys2Proof.Machine.execTimeReply port p s
  | .close port p => Sys2Proof.Machine.execClose port p s
  | .swap epoch => Sys2Proof.Machine.execSwap epoch s
  | .portEnable port => Sys2Proof.Machine.execPortEnable port s
  | .portDisable port => Sys2Proof.Machine.execPortDisable port s
  | .retrain port => Sys2Proof.Machine.execRetrain port s
  | .tlkCountClear page off => Sys2Proof.Machine.execTlkCountClear page off s
  | .hppRd ch q => Sys2Proof.Machine.execHppRd ch q s
  | .hppWr ch q beats => Sys2Proof.Machine.execHppWr ch q beats s
  | .hppPeer ch q p => Sys2Proof.Machine.execHppPeer ch q p s
  | .hppResponse ch tag status data => Sys2Proof.Machine.execHppResponse ch tag status data s
  | .hportTimeout ch tag => Sys2Proof.Machine.execHportTimeout ch tag s
  | .hppCredit ch beat => Sys2Proof.Machine.execHppCredit ch beat s
  | .hello word => Sys2Proof.Machine.execHello word s
  | .imgData words => Sys2Proof.Machine.execImgData words s
  | .regRd off => Sys2Proof.Machine.execRegRd off s
  | .regWr off data => Sys2Proof.Machine.execRegWr off data s
  | .begin d => Sys2Proof.Machine.execBegin d s
  | .journal d => Sys2Proof.Machine.execJournal d s
  | .trickle d => Sys2Proof.Machine.execTrickle d s
  | .snapClose d => Sys2Proof.Machine.execSnapClose d s
  | .digest d => Sys2Proof.Machine.execDigest d s
  | .restore d => Sys2Proof.Machine.execRestore d s
  | .abandon d => Sys2Proof.Machine.execAbandon d s
  | .snapStreamWrite off v => Sys2Proof.Machine.execSnapStreamWrite off v s
  | .mtbfWrite v => Sys2Proof.Machine.execMtbfWrite v s
  | .dvfsPointWrite v => Sys2Proof.Machine.execDvfsPointWrite v s
  | .latTolWrite v => Sys2Proof.Machine.execLatTolWrite v s
  | .blockGate unit => Sys2Proof.Machine.execBlockGate unit s
  | .regulatorTimeout rail => Sys2Proof.Machine.execRegulatorTimeout rail s
  | .marchTestDone failing => Sys2Proof.Machine.execMarchTestDone failing s
  | .tpulseArm v => Sys2Proof.Machine.execTpulseArm v s
  | .timeMark v who => Sys2Proof.Machine.execTimeMark v who s
  | .traceCfgWrite v => Sys2Proof.Machine.execTraceCfgWrite v s
  | .traceHeadWrite v => Sys2Proof.Machine.execTraceHeadWrite v s
  | .traceRecordAck ring => Sys2Proof.Machine.execTraceRecordAck ring s
  | .quiesceRequest page => Sys2Proof.Machine.execQuiesceRequest page s
  | .quiesceClear page => Sys2Proof.Machine.execQuiesceClear page s
  | .pgEnWrite page en => Sys2Proof.Machine.execPgEnWrite page en s
  | .rbDataRead page => Sys2Proof.Machine.execRbDataRead page s
  | .rbDataWrite page v => Sys2Proof.Machine.execRbDataWrite page v s
  | .mbist bank => Sys2Proof.Machine.execMbist bank s
  | .mbistDone fail => Sys2Proof.Machine.execMbistDone fail s
  | .regacc v go write off => Sys2Proof.Machine.execRegacc v go write off s
  | .imgread index => Sys2Proof.Machine.execImgread index s
  | .registerWrite page off v => Sys2Proof.Machine.execRegisterWrite page off v s
  | .lmemEccError word cls d => Sys2Proof.Machine.execLmemEccError word cls d s
  | .railOutOfBand rail => Sys2Proof.Machine.execRailOutOfBand rail s
  | .bufferWaitStart d => Sys2Proof.Machine.execBufferWaitStart d s
  | .mxaStart d => Sys2Proof.Machine.execMxaStart d s
  | .fwdRow chain => Sys2Proof.Machine.execFwdRow chain s
  | .vecStart d => Sys2Proof.Machine.execVecStart d s
  | .tappedRunStart d => Sys2Proof.Machine.execTappedRunStart d s
  | .creducePiece d => Sys2Proof.Machine.execCreducePiece d s
  | .openTake d => Sys2Proof.Machine.execOpenTake d s
  | .pinWaitStart d => Sys2Proof.Machine.execPinWaitStart d s
  | .reshardPush d => Sys2Proof.Machine.execReshardPush d s
  | .reshardAnnounce d => Sys2Proof.Machine.execReshardAnnounce d s
  | .reshardCopy d => Sys2Proof.Machine.execReshardCopy d s
  | .teeBlockAck k => Sys2Proof.Machine.execTeeBlockAck k s
  | .trickleRegionDone region => Sys2Proof.Machine.execTrickleRegionDone region s
  | .zgateHalfRequest array => Sys2Proof.Machine.execZgateHalfRequest array s
  | .mvpStart d => Sys2Proof.Machine.execMvpStart d s
  | .ctxStart => Sys2Proof.Machine.execCtxStart s
  | .ctxStop => Sys2Proof.Machine.execCtxStop s
  | .ctxResume => Sys2Proof.Machine.execCtxResume s
  | .ctxKill => Sys2Proof.Machine.execCtxKill s
  | .icacheFlush => Sys2Proof.Machine.execIcacheFlush s
  | .spawnFailClear => Sys2Proof.Machine.execSpawnFailClear s
  | .doneQRead => Sys2Proof.Machine.execDoneQRead s
  | .vmapInvGlobal => Sys2Proof.Machine.execVmapInvGlobal s
  | .rsigStatClear => Sys2Proof.Machine.execRsigStatClear s
  | .lmemArbApply => Sys2Proof.Machine.execLmemArbApply s
  | .eccStatClear => Sys2Proof.Machine.execEccStatClear s
  | .force7Apply => Sys2Proof.Machine.execForce7Apply s
  | .clrHist => Sys2Proof.Machine.execClrHist s
  | .clrPend => Sys2Proof.Machine.execClrPend s
  | .sctStatClear => Sys2Proof.Machine.execSctStatClear s
  | .wvmHold => Sys2Proof.Machine.execWvmHold s
  | .snapLatchCopy => Sys2Proof.Machine.execSnapLatchCopy s
  | .lguardStatClear => Sys2Proof.Machine.execLguardStatClear s
  | .timeExchangeTimeout => Sys2Proof.Machine.execTimeExchangeTimeout s
  | .routeCopy => Sys2Proof.Machine.execRouteCopy s
  | .routeClear => Sys2Proof.Machine.execRouteClear s
  | .imgEnd => Sys2Proof.Machine.execImgEnd s
  | .imageTimeout => Sys2Proof.Machine.execImageTimeout s
  | .detachReq => Sys2Proof.Machine.execDetachReq s
  | .detach => Sys2Proof.Machine.execDetach s
  | .detachComplete => Sys2Proof.Machine.execDetachComplete s
  | .detachTimeout => Sys2Proof.Machine.execDetachTimeout s
  | .snapStatClear => Sys2Proof.Machine.execSnapStatClear s
  | .pwrHold => Sys2Proof.Machine.execPwrHold s
  | .pwrRelease => Sys2Proof.Machine.execPwrRelease s
  | .pwrOff => Sys2Proof.Machine.execPwrOff s
  | .dvfsStepDone => Sys2Proof.Machine.execDvfsStepDone s
  | .p1Entry => Sys2Proof.Machine.execP1Entry s
  | .p2Entry => Sys2Proof.Machine.execP2Entry s
  | .wakeExitDone => Sys2Proof.Machine.execWakeExitDone s
  | .drogueAdmit => Sys2Proof.Machine.execDrogueAdmit s
  | .rampDone => Sys2Proof.Machine.execRampDone s
  | .lendOffer => Sys2Proof.Machine.execLendOffer s
  | .plAckRise => Sys2Proof.Machine.execPlAckRise s
  | .plAckFall => Sys2Proof.Machine.execPlAckFall s
  | .reclaimLate => Sys2Proof.Machine.execReclaimLate s
  | .undervoltage => Sys2Proof.Machine.execUndervoltage s
  | .uvRecover => Sys2Proof.Machine.execUvRecover s
  | .powerLoss => Sys2Proof.Machine.execPowerLoss s
  | .overvoltage => Sys2Proof.Machine.execOvervoltage s
  | .powerOn => Sys2Proof.Machine.execPowerOn s
  | .porstAssert => Sys2Proof.Machine.execPorstAssert s
  | .porstRelease => Sys2Proof.Machine.execPorstRelease s
  | .wrstRelease => Sys2Proof.Machine.execWrstRelease s
  | .wakeN => Sys2Proof.Machine.execWakeN s
  | .startCmdWarm => Sys2Proof.Machine.execStartCmdWarm s
  | .startCmdCold => Sys2Proof.Machine.execStartCmdCold s
  | .railPowerGood => Sys2Proof.Machine.execRailPowerGood s
  | .coldStartRetry => Sys2Proof.Machine.execColdStartRetry s
  | .pllLock => Sys2Proof.Machine.execPllLock s
  | .pllLockTimeout => Sys2Proof.Machine.execPllLockTimeout s
  | .tpulseEdge => Sys2Proof.Machine.execTpulseEdge s
  | .holdoverExpire => Sys2Proof.Machine.execHoldoverExpire s
  | .timeStatClear => Sys2Proof.Machine.execTimeStatClear s
  | .traceStatClear => Sys2Proof.Machine.execTraceStatClear s
  | .wsBypass => Sys2Proof.Machine.execWsBypass s
  | .wsExtest => Sys2Proof.Machine.execWsExtest s
  | .wsClamp => Sys2Proof.Machine.execWsClamp s
  | .wsSafe => Sys2Proof.Machine.execWsSafe s
  | .wsIntest => Sys2Proof.Machine.execWsIntest s
  | .twWrstn => Sys2Proof.Machine.execTwWrstn s
  | .refclkStop => Sys2Proof.Machine.execRefclkStop s

end Sys2Proof.Machine
end

