-- ==== Sys2Proof/Machine/Tick.lean ====
section
/-! DEFINITION. Instruction words of the sequencer (R111, Tables 4.6 to 4.14), and what the core does of itself when no command
waits: the time base counts, the pipes fetch and issue, and what contexts wait for arrives. -/

namespace Sys2Proof.Machine

/-! ## Instruction words -/

/-- Classes ALU and ALUI (Table 4.8). -/
def aluInstr (op : Nat) (o : SeqOp) : Option Instr :=
  match op with
  | 0x00 => some (.add o)
  | 0x01 => some (.sub o)
  | 0x02 => some (.mul o)
  | 0x03 => some (.mulhu o)
  | 0x04 => some (.mulhs o)
  | 0x05 => some (.divu o)
  | 0x06 => some (.divs o)
  | 0x07 => some (.remu o)
  | 0x08 => some (.rems o)
  | 0x09 => some (.and o)
  | 0x0A => some (.or o)
  | 0x0B => some (.xor o)
  | 0x0C => some (.andn o)
  | 0x0D => some (.shl o)
  | 0x0E => some (.shr o)
  | 0x0F => some (.sar o)
  | 0x10 => some (.rol o)
  | 0x11 => some (.min o)
  | 0x12 => some (.max o)
  | 0x13 => some (.minu o)
  | 0x14 => some (.maxu o)
  | 0x15 => some (.clz o)
  | 0x16 => some (.ctz o)
  | 0x17 => some (.popc o)
  | 0x18 => some (.sel o)
  | 0x19 => some (.madd o)
  | 0x1A => some (.bfx o)
  | 0x1B => some (.bfi o)
  | 0x20 => some (.cmpeq o)
  | 0x21 => some (.cmpne o)
  | 0x22 => some (.cmplt o)
  | 0x23 => some (.cmple o)
  | 0x24 => some (.cmpltu o)
  | 0x25 => some (.cmpleu o)
  | 0x28 => some (.pand o)
  | 0x29 => some (.por o)
  | 0x2A => some (.pxor o)
  | 0x2B => some (.pandn o)
  | 0x2C => some (.movp o)
  | 0x2D => some (.movtp o)
  | 0x30 => some (.fadd o)
  | 0x31 => some (.fsub o)
  | 0x32 => some (.fmul o)
  | 0x33 => some (.fdiv o)
  | 0x34 => some (.fsqrt o)
  | 0x35 => some (.fma o)
  | 0x36 => some (.fmin o)
  | 0x37 => some (.fmax o)
  | 0x38 => some (.fcmplt o)
  | 0x39 => some (.fcmple o)
  | 0x3A => some (.fcmpeq o)
  | 0x3B => some (.fcvti o)
  | 0x3C => some (.icvtf o)
  | 0x3D => some (.fisfin o)
  | 0x3E => some (.movi o)
  | 0x3F => some (.orhi o)
  | _ => none

/-- Class LS (Table 4.9). -/
def lsInstr (op : Nat) (o : SeqOp) : Option Instr :=
  match op with
  | 0x00 => some (.ld o)
  | 0x01 => some (.st o)
  | 0x02 => some (.amoadd o)
  | 0x03 => some (.amoswap o)
  | 0x04 => some (.amocas o)
  | 0x05 => some (.amomaxu o)
  | _ => none

/-- Class BR (Table 4.10). -/
def brInstr (op : Nat) (o : SeqOp) : Option Instr :=
  match op with
  | 0x00 => some (.b o)
  | 0x01 => some (.bl o)
  | 0x02 => some (.jr o)
  | 0x03 => some (.jlr o)
  | 0x04 => some (.dbnz o)
  | 0x05 => some (.bz o)
  | 0x06 => some (.bnz o)
  | _ => none

/-- Class RING (Table 4.11). -/
def ringInstr (op : Nat) (o : SeqOp) : Option Instr :=
  match op with
  | 0x00 => some (.ringPut o)
  | 0x01 => some (.ringPut2 o)
  | 0x02 => some (.ringGetw o)
  | 0x03 => some (.ringClr o)
  | 0x04 => some (.ringPush o)
  | 0x05 => some (.ringPushr o)
  | 0x06 => some (.ringTail o)
  | 0x07 => some (.ringHead o)
  | _ => none

/-- Class SYNC (Table 4.12); FENCE is three commands by its FK. -/
def syncInstr (op : Nat) (o : SeqOp) : Option Instr :=
  match op with
  | 0x00 => some (.wait o)
  | 0x01 => some (.test o)
  | 0x02 => some (.signal o)
  | 0x03 => some (.signalr o)
  | 0x04 => some (.ctrrd o)
  | 0x05 =>
    match opFk o with
    | 0 => some (.fenceLd o)
    | 1 => some (.fenceSt o)
    | 2 => some (.fenceAll o)
    | _ => none
  | 0x06 => some (.bararr o)
  | 0x07 => some (.barwait o)
  | _ => none

/-- Class SUM (Table 4.13). -/
def sumInstr (op : Nat) (o : SeqOp) : Option Instr :=
  match op with
  | 0x00 => some (.sumPop o)
  | 0x01 => some (.sumTry o)
  | 0x02 => some (.sumPeek o)
  | 0x03 => some (.sumCount o)
  | 0x04 => some (.sumDrop o)
  | _ => none

/-- Class SYS (Table 4.14). -/
def sysInstr (op : Nat) (o : SeqOp) : Option Instr :=
  match op with
  | 0x00 => some (.sysNop o)
  | 0x01 => some (.yield o)
  | 0x02 => some (.exit o)
  | 0x03 => some (.spawn o)
  | 0x04 => some (.cid o)
  | 0x05 => some (.timerd o)
  | 0x06 => some (.sleept o)
  | 0x07 => some (.pgrd o)
  | 0x08 => some (.pgwr o)
  | 0x09 => some (.notify o)
  | 0x0A => some (.swfault o)
  | 0x0B => some (.iflush o)
  | _ => none

/-- The instruction that a word spells for a context; `none` for a reserved CLASS or an OP that its class does not list. -/
def seqDecode (n : Nat) (w : W64) : Option Instr :=
  let o : SeqOp :=
    { ctx := n, alui := fld w 60 4 == 1, gp := BitVec.ofNat 3 (fld w 51 3), gn := bitAt w 50
      rd := BitVec.ofNat 5 (fld w 45 5), ra := BitVec.ofNat 5 (fld w 40 5), low := BitVec.ofNat 40 (fld w 0 40) }
  let op := fld w 54 6
  match fld w 60 4 with
  | 0 => aluInstr op o
  | 1 => aluInstr op o
  | 2 => lsInstr op o
  | 3 => brInstr op o
  | 4 => ringInstr op o
  | 5 => syncInstr op o
  | 6 => sumInstr op o
  | 7 => sysInstr op o
  | _ => none

/-! ## Fetch and issue (R98, R100, R101, R113) -/

/-- A cached line is given up for what memory holds now. Where its bytes in LMEM have changed, it goes on wholly as it was or it is
read again, which of the two the spec does not say; it stays at that until LMEM changes again (R101). A line outside LMEM may have
changed, so that either can happen at each fetch. DESIGN CHOICE (log 21). -/
def lineGoes (line : Nat) (ws : List W64) (c : Chip) : Bool × Chip :=
  match lineLocal c line with
  | none =>
    if SMap.get [] c.seq.icacheKept line = ws then (false, { c with seq.icacheKept := SMap.erase c.seq.icacheKept line })
    else
      let (k, c) := takeFree c
      if k % 2 = 0 then (false, c) else (true, { c with seq.icache := SMap.erase c.seq.icache line })
  | some off =>
    let cur := leWords 8 (lmemBytes c off 64)
    if cur = ws ∨ SMap.get [] c.seq.icacheKept line = cur then (false, c)
    else
      let (k, c) := takeFree c
      if k % 2 = 0 then (false, { c with seq.icacheKept := SMap.set [] c.seq.icacheKept line cur })
      else (true, { c with seq.icache := SMap.erase c.seq.icache line, seq.icacheKept := SMap.erase c.seq.icacheKept line })

/-- Fetches the next instruction of a context: the instruction, a fault, or a miss. -/
def fetchOne (n : Nat) (c : Chip) : Option Instr × Chip :=
  let x := ctxOf c n
  match pcFault x.pc with
  | some k => (none, faultHere n k c)
  | none =>
    match c.seq.icache.find? fun p => p.1 == lineOf x.pc with
    | none => (none, fetchMiss n (lineOf x.pc) c)
    | some p =>
      let (gone, c) := lineGoes p.1 p.2 c
      if gone then (none, fetchMiss n p.1 c)
      else
        match seqDecode n (nth 0#64 p.2 (x.pc.toNat / 8 % 8)) with
        | some i => (some i, c)
        | none => (none, faultHere n .isaIllegal (issued n c))

/-- The context that a pipe issues from: the first READY one at or after the one it last issued from, those that yielded only when
there is no other. -/
def pipePick (c : Chip) (p : Nat) : Option Nat :=
  let ready := c.seq.ctxs.filter fun x => x.1 % Config.pipes == p && canIssue c x.1
  let fresh := ready.filter fun x => x.2.passOver == 0
  let pool := (if fresh.isEmpty then ready else fresh).map Prod.fst
  let last := SMap.get 0 c.seq.lastIssued p
  match pool.find? fun n => decide (last ≤ n) with
  | some n => some n
  | none => pool.head?

/-- Every pipe fetches once: the instructions that issue. -/
def fetchPipes : List Nat → Chip → List Instr × Chip
  | [], c => ([], c)
  | p :: ps, c =>
    match pipePick c p with
    | none => fetchPipes ps c
    | some n =>
      let (i, c) := fetchOne n c
      let (is, c) := fetchPipes ps c
      (i.toList ++ is, c)

/-! ## What has become due -/

/-- Answers that have come back for an access of a context. -/
def accDue (n : Nat) (a : Acc) : List Instr :=
  if a.res = .pending then []
  else (if a.loading then [.loadReturn n a.tag] else []) ++ (if a.storing then [.storeAck n a.tag] else [])

/-- The end of a wait that is due. -/
def waitDue (c : Chip) (n : Nat) (x : Ctx) : List Instr :=
  if !waitsNow x then []
  else
    match x.wait with
    | .fetch _ => [.fetchFill n]
    | .flush => [.iflushDone n]
    | .time t => if t ≤ now c then [.sleeptDeadline n] else []
    | _ => if waitExpired c n then [.waitTimeout n] else []

/-- The commands by which what contexts wait for reaches them. -/
def ctxDue (c : Chip) : List Instr :=
  c.seq.ctxs.flatMap fun p => p.2.accs.flatMap (accDue p.1) ++ waitDue c p.1 p.2

/-! ## A tick -/

/-- The time base runs while REFCLK drives it: in every start and while the core is up. -/
def ticks (c : Chip) : Bool :=
  match c.core.phase with
  | .running => true
  | .warm _ => true
  | .cold _ => true
  | _ => false

/-- A REFCLK cycle of the bridle lines in HOLD (R177). -/
def holdLines (c : Chip) : Chip :=
  { c with sync.lines := SMap.mapVal .reset (fun _ x => if x.st = .hold then { x with held := x.held + 1 } else x) c.sync.lines }

/-- A count of cycles under a key grows (R202, Tables 9.16 and 12.15). -/
def growAt (m : SMap Nat) (k : Nat) (c : Chip) : SMap Nat × Chip :=
  let (x, c) := growCount (SMap.get 0 m k) c
  (SMap.set 0 m k x, c)

/-- The cycles of one class of counts that wait for arbitration: how many they are, the spec does not say. -/
def countWaits (c : Chip) : Chip :=
  let c := countAlts c
  let c := if (mvpNow c).isSome then
      let (x, c) := growCount c.mvp.wstall c
      { c with mvp.wstall := x }
    else c
  let c := ((rangeFrom 0 Config.chains).filter fun n => !chainFree c n).foldl (fun c n =>
    let (m, c) := growAt c.vec.lstalls n c
    { c with vec.lstalls := m }) c
  (rangeFrom 0 7).foldl (fun c k =>
    let (m, c) := growAt c.lmem.stalls k c
    { c with lmem.stalls := m }) c

/-- The core cycles since a TIME in P0: the scrub pass that runs (R194), the wait for a piece (Table 14.12) and arrays that stall for
a load (R239) count them all. -/
def countCycles (t : Nat) (c : Chip) : Chip :=
  let n := cyclesIn c t (now c)
  let c := { c with lmem.passCycles := if c.lmem.scrubEn then c.lmem.passCycles + n else c.lmem.passCycles
                    rdu.pwait := if unitState c false = 2 then (c.rdu.pwait + n) % 2 ^ 48 else c.rdu.pwait
                    mxa.arrays := SMap.mapVal .reset
                      (fun k a => if loadStalls c k then { a with lstall := (a.lstall + n) % 2 ^ 48 } else a) c.mxa.arrays }
  countWaits c

/-- A rising edge of REFCLK: TIME counts, and the signals that REFCLK times move on (R473, R496, R497). -/
def refEdge (c : Chip) : Chip := lendTick (holdLines (advanceTime c))

/-- Time passes while no command waits: to the next edge of REFCLK, or in P0 by some ns before it (R474). -/
def timePasses (c : Chip) : Chip :=
  if isAwake c then
    match withinPeriod c with
    | (true, c) => c
    | (false, c) => refEdge c
  else if ticks c then refEdge c
  else c

/-- Time in which no command waits: TIME counts, and what the sequencer would do of itself is put on the queue. -/
def tick (c : Chip) : List Instr × Chip :=
  let t := now c
  let c := timePasses c
  if isAwake c then
    let c := countCycles t c
    let due := ctxDue c
    let r := fetchPipes (rangeFrom 0 Config.pipes) c
    (due ++ r.1, settle r.2)
  else ([], if isUp c then settle c else c)

end Sys2Proof.Machine
end

