-- ==== Sys2Proof/Machine/Pins.lean ====
section
/-! DEFINITION. The levels of the output signals (Integrating the Core, Table 21.1), as the state gives them: what is held in
reset, in P3 and in a cold start, interrupt lines, bridle lines, the envelope, the host port and the tether PHYs (R487, R495 to R501). -/

namespace Sys2Proof.Machine

/-- The outputs whose function begins at step 6 of a cold start are at their held levels (R487). -/
def outputsHeld (c : Chip) : Bool := !(isUp c || inWarm c)

/-- The cells of the boundary register for the outputs that the state gives levels, by their first bit. The order is the model's own
(log 60). -/
inductive PinCell where
  | irq (k : Nat) | bar (l : Nat) | plReq | plAmt (b : Nat) | phyEn (p : Nat)

/-- The bit of a cell. -/
def PinCell.bit : PinCell → Nat
  | .irq k => k
  | .bar l => 4 + l
  | .plReq => 12
  | .plAmt b => 13 + b
  | .phyEn p => 21 + p

/-- An output: its functional level, its held level, and what the wrapper makes of it: EXTEST and CLAMP drive its boundary cell, SAFE
its held level, and without them the level of a core that the wrapper has taken is undefined (R487, R505). -/
def outLevel (c : Chip) (cell : PinCell) (held level : Bool) : Bool :=
  if c.core.phase = .wrapper then
    (if c.wrap.instr = 1 ∨ c.wrap.instr = 2 then c.wrap.bndOut.testBit cell.bit
     else if c.wrap.instr = 3 then held
     else c.wrap.undef.testBit cell.bit)
  else if outputsHeld c then held
  else level

/-- The level of IRQ_N[k], high while held (R487, R495). -/
def irqN (c : Chip) (k : Nat) : Bool := outLevel c (.irq k) true (!irqLow c k)

/-- The level of BAR_OUT[l], high while held (R177, R496). -/
def barOut (c : Chip) (l : Nat) : Bool := outLevel c (.bar l) true (SMap.get Line.reset c.sync.lines l).out

/-- The level of PL_REQ and the value of PL_AMT: low and 0 while held (R497). -/
def plReqOut (c : Chip) : Bool := outLevel c .plReq false c.pwr.plReq
def plAmtOut (c : Chip) : Nat :=
  packNat ((rangeFrom 0 8).map fun b => (b, 1, b2n (outLevel c (.plAmt b) false (c.pwr.plAmt.testBit b))))

/-- The sideband runs: from step 2 of a cold start on, and HP_SB_IREADY is low otherwise (R487, R500). -/
def sbRuns (c : Chip) : Bool :=
  match c.core.phase with
  | .running => true
  | .warm _ => true
  | .cold k => decide (2 ≤ k)
  | _ => false

/-- TL_PHYEN[p]: the port is enabled and its outputs are not held (R487, R501). -/
def phyEn (c : Chip) (p : Nat) : Bool := outLevel c (.phyEn p) false (portOf c p).en

end Sys2Proof.Machine
end

