-- ==== Sys2Proof/Safety.lean ====
section
/-! DEFINITION. The terms in which statements are made: what it is for a command to complete, when an instruction issues, when
nothing is left to follow from a command, and what every step leaves of the contexts. -/

namespace Sys2Proof.Machine

/-- A command completes, its effect being `c` and then everything that follows from it at once; the queue stays. -/
def Answers (i : Instr) (s : State) (c : Chip) : Prop := exec i s = .next { s with chip := settle c }

/-- The core is in P0. -/
def Awake (s : State) : Prop := isAwake s.chip = true

/-! ## Instructions of the sequencer -/

/-- The operands and the form of a sequencer instruction (Tables 4.6 to 4.14); other commands have none. -/
def formOf (i : Instr) : Option (SeqOp × SeqForm) :=
  match i with
  | .add o => some (o, (alu2 true .reg).form o)
  | .sub o => some (o, (alu2 false .reg).form o)
  | .mul o => some (o, (alu2 true .reg).form o)
  | .mulhu o => some (o, (alu2 false .reg).form o)
  | .mulhs o => some (o, (alu2 false .reg).form o)
  | .divu o => some (o, (alu2 false .reg).form o)
  | .divs o => some (o, (alu2 false .reg).form o)
  | .remu o => some (o, (alu2 false .reg).form o)
  | .rems o => some (o, (alu2 false .reg).form o)
  | .and o => some (o, (alu2 true .reg).form o)
  | .or o => some (o, (alu2 true .reg).form o)
  | .xor o => some (o, (alu2 true .reg).form o)
  | .andn o => some (o, (alu2 false .reg).form o)
  | .shl o => some (o, (alu2 true .reg).form o)
  | .shr o => some (o, (alu2 true .reg).form o)
  | .sar o => some (o, (alu2 true .reg).form o)
  | .rol o => some (o, (alu2 false .reg).form o)
  | .min o => some (o, (alu2 false .reg).form o)
  | .max o => some (o, (alu2 false .reg).form o)
  | .minu o => some (o, (alu2 false .reg).form o)
  | .maxu o => some (o, (alu2 false .reg).form o)
  | .clz o => some (o, (alu1 .reg).form o)
  | .ctz o => some (o, (alu1 .reg).form o)
  | .popc o => some (o, (alu1 .reg).form o)
  | .sel o => some (o, (alu3).form o)
  | .madd o => some (o, (alu3).form o)
  | .bfx o => some (o, (alu3).form o)
  | .bfi o => some (o, (alu3).form o)
  | .cmpeq o => some (o, (alu2 true .pred).form o)
  | .cmpne o => some (o, (alu2 true .pred).form o)
  | .cmplt o => some (o, (alu2 true .pred).form o)
  | .cmple o => some (o, (alu2 true .pred).form o)
  | .cmpltu o => some (o, (alu2 true .pred).form o)
  | .cmpleu o => some (o, (alu2 true .pred).form o)
  | .pand o => some (o, aluP.form o)
  | .por o => some (o, aluP.form o)
  | .pxor o => some (o, aluP.form o)
  | .pandn o => some (o, aluP.form o)
  | .movp o => some (o, AluForm.form ⟨true, false, .reg, .no, .no, .no, 40⟩ o)
  | .movtp o => some (o, (alu1 .no).form o)
  | .fadd o => some (o, (alu2 false .reg).form o)
  | .fsub o => some (o, (alu2 false .reg).form o)
  | .fmul o => some (o, (alu2 false .reg).form o)
  | .fdiv o => some (o, (alu2 false .reg).form o)
  | .fsqrt o => some (o, (alu1 .reg).form o)
  | .fma o => some (o, (alu3).form o)
  | .fmin o => some (o, (alu2 false .reg).form o)
  | .fmax o => some (o, (alu2 false .reg).form o)
  | .fcmplt o => some (o, (alu2 false .pred).form o)
  | .fcmple o => some (o, (alu2 false .pred).form o)
  | .fcmpeq o => some (o, (alu2 false .pred).form o)
  | .fcvti o => some (o, (alu1 .reg).form o)
  | .icvtf o => some (o, (alu1 .reg).form o)
  | .fisfin o => some (o, (alu1 .pred).form o)
  | .movi o => some (o, AluForm.form ⟨false, true, .reg, .no, .no, .no, 40⟩ o)
  | .orhi o => some (o, AluForm.form ⟨false, true, .reg, .reg, .no, .no, 24⟩ o)
  | .ld o => some (o, lsForm true o)
  | .st o => some (o, lsForm false o)
  | .amoadd o => some (o, amoForm false o)
  | .amoswap o => some (o, amoForm false o)
  | .amocas o => some (o, amoForm true o)
  | .amomaxu o => some (o, amoForm false o)
  | .b o => some (o, brForm .no .no true o)
  | .bl o => some (o, brForm .reg .no true o)
  | .jr o => some (o, brForm .no .reg false o)
  | .jlr o => some (o, brForm .reg .reg false o)
  | .dbnz o => some (o, brForm .reg .reg true o)
  | .bz o => some (o, brForm .no .reg true o)
  | .bnz o => some (o, brForm .no .reg true o)
  | .ringPut o => some (o, ringForm .no .reg .no false 24 o)
  | .ringPut2 o => some (o, ringForm .no .reg .reg false 23 o)
  | .ringGetw o => some (o, ringForm .reg .no .no false 24 o)
  | .ringClr o => some (o, ringForm .no .no .no false 0 o)
  | .ringPush o => some (o, ringForm .reg .no .no true 0 o)
  | .ringPushr o => some (o, ringForm .reg .reg .no false 0 o)
  | .ringTail o => some (o, ringForm .reg .no .no true 0 o)
  | .ringHead o => some (o, ringForm .reg .no .no true 0 o)
  | .wait o => some (o, syncForm .no .reg .either false false o)
  | .test o => some (o, syncForm .pred .reg .either false false o)
  | .signal o => some (o, syncForm .no .reg .either false false o)
  | .signalr o => some (o, syncForm .no .reg .remote false false o)
  | .ctrrd o => some (o, syncForm .reg .no .either false false o)
  | .fenceLd o => some (o, syncForm .no .no .no false true o)
  | .fenceSt o => some (o, syncForm .no .no .no false true o)
  | .fenceAll o => some (o, syncForm .no .no .no false true o)
  | .bararr o => some (o, syncForm .no .no .no true false o)
  | .barwait o => some (o, syncForm .no .no .bar true false o)
  | .sumPop o => some (o, sumForm true true true o)
  | .sumTry o => some (o, sumForm true true true o)
  | .sumPeek o => some (o, sumForm true true true o)
  | .sumCount o => some (o, sumForm true false false o)
  | .sumDrop o => some (o, sumForm false false false o)
  | .sysNop o => some (o, sysForm .no .no .no .no false o)
  | .yield o => some (o, sysForm .no .no .no .no false o)
  | .exit o => some (o, sysForm .no .no .no .no false o)
  | .spawn o => some (o, sysForm .reg .reg .reg .reg false o)
  | .cid o => some (o, sysForm .reg .no .no .no false o)
  | .timerd o => some (o, sysForm .reg .no .no .no false o)
  | .sleept o => some (o, sysForm .no .reg .no .no false o)
  | .pgrd o => some (o, { sysForm .reg .reg .no .no true o with load := true })
  | .pgwr o => some (o, { sysForm .no .reg .reg .no true o with store := true })
  | .notify o => some (o, sysForm .no .reg .no .no false o)
  | .swfault o => some (o, sysForm .no .reg .no .no false o)
  | .iflush o => some (o, sysForm .no .no .no .no false o)
  | _ => none

/-- An instruction issues (R99, R112, R113): its context can issue and its PC can be fetched from, its fields are legal, its
guard is true, and neither a register that it needs nor a limit on accesses holds it. -/
structure Issues (o : SeqOp) (f : SeqForm) (c : Chip) : Prop where
  can : canIssue c o.ctx = true
  fetch : pcFault (ctxOf c o.ctx).pc = none
  legal : f.legal = true
  guard : guardOn o (ctxOf c o.ctx) = true
  free : hazard (ctxOf c o.ctx) f = none

/-- Wherever it issues, an instruction completes with an effect that is a function of its operands, its context, and the core as
they are once it has issued. -/
def FiresWith (i : Instr) (g : SeqOp → Ctx → Chip → Chip) : Prop :=
  ∀ o f, formOf i = some (o, f) → ∀ s, Issues o f s.chip →
    Answers i s (g o (ctxOf (issued o.ctx s.chip) o.ctx) (issued o.ctx s.chip))

/-- Wherever it issues, an instruction completes with an effect on the core. -/
def Fires (i : Instr) (g : Ctx → Chip → Chip) : Prop := FiresWith i fun _ => g

/-- Wherever it issues, an instruction changes its own context and moves on to the next instruction. -/
def Moves (i : Instr) (g : Ctx → Ctx → Ctx) : Prop := FiresWith i fun o x => stepPast o.ctx (g x)

/-- Wherever it issues, an instruction writes a value to rd and moves on. -/
def Sets (i : Instr) (v : Ctx → W64) : Prop := FiresWith i fun o x => stepPast o.ctx fun y => y.setReg (opRd o) (v x)

/-- Wherever it issues, an instruction writes a predicate to pd and moves on. -/
def Tests (i : Instr) (v : Ctx → Bool) : Prop := FiresWith i fun o x => stepPast o.ctx fun y => y.setPred (opRd o) (v x)

/-- Instructions whose whole effect is a register and the PC. -/
def registerInstrs : List (SeqOp → Instr) :=
  [.add, .sub, .mul, .mulhu, .mulhs, .divu, .divs, .remu, .rems, .and, .or, .xor, .andn, .shl, .shr, .sar, .rol, .min, .max,
   .minu, .maxu, .clz, .ctz, .popc, .sel, .madd, .bfx, .bfi, .movp, .fadd, .fsub, .fmul, .fdiv, .fsqrt, .fma, .fmin, .fmax,
   .fcvti, .icvtf, .movi, .orhi, .ringGetw, .ringTail, .ringHead, .sumCount, .cid, .timerd]

/-- Instructions whose whole effect is a predicate and the PC. -/
def predicateInstrs : List (SeqOp → Instr) :=
  [.cmpeq, .cmpne, .cmplt, .cmple, .cmpltu, .cmpleu, .pand, .por, .pxor, .pandn, .fcmplt, .fcmple, .fcmpeq, .fisfin]

/-! ## Commands to blocks -/

/-- Wherever a condition on the core holds, its state being defined, a command completes with an effect. -/
def Takes (i : Instr) (h : Chip → Prop) (f : Chip → Chip) : Prop :=
  ∀ s, s.chip.core.phase ≠ .undefined → h s.chip → Answers i s (f s.chip)

/-- In P0, and where a condition holds, a command completes with an effect. -/
def Acts (i : Instr) (h : Chip → Prop) (f : Chip → Chip) : Prop := Takes i (fun c => isAwake c = true ∧ h c) f

/-- In P0 a command completes with an effect, whatever else the core holds. -/
def Does (i : Instr) (f : Chip → Chip) : Prop := Acts i (fun _ => True) f

/-- While the core runs, in P0, P1 or P2, a command completes with an effect, where a condition holds. -/
def Runs (i : Instr) (h : Chip → Prop) (f : Chip → Chip) : Prop := Takes i (fun c => isUp c = true ∧ h c) f

/-- While the links run, in P0, P1, P2 and during a warm start, a command completes with an effect, where a condition holds. -/
def Links (i : Instr) (h : Chip → Prop) (f : Chip → Chip) : Prop := Takes i (fun c => (isUp c || inWarm c) = true ∧ h c) f

/-! ## Descriptors -/

/-- A started descriptor of a class and an opcode, in a core that is in P0. -/
structure Running (c : Chip) (q : DescRef) (cls opc : Nat) (d : Desc) : Prop where
  awake : isAwake c = true
  found : descOf c q = some d
  cls : (ringOf c q.ring).cls = cls
  opc : d.opc = opc
  phase : d.phase = .running

/-- Bytes at resolved addresses are at hand for a descriptor: in storage of the core without an error, or come back already. -/
def AtHand (c : Chip) (lc : Nat) (q : DescRef) (as : List Nat) : Prop := engineFetch lc vcData q.ring q.idx as c = (.ready, c)

/-- A checked descriptor of a class, in a core that is in P0. -/
structure Checked (c : Chip) (q : DescRef) (cls : Nat) (d : Desc) : Prop where
  awake : isAwake c = true
  found : descOf c q = some d
  cls : (ringOf c q.ring).cls = cls
  phase : d.phase = .checked

/-- The command for the work of a started descriptor completes with an effect, where a condition holds. -/
def Works (i : Instr) (q : DescRef) (cls opc : Nat) (h : Chip → Desc → Prop) (f : Desc → Chip → Chip) : Prop :=
  ∀ s d, Running s.chip q cls opc d → h s.chip d → Answers i s (f d s.chip)

/-- The command completes once the bytes that the descriptor reads, given by name, are at hand in a requestor class. -/
def WorksOn (i : Instr) (q : DescRef) (cls opc lc : Nat) (names : Chip → Desc → List Nat) (f : Desc → Chip → Chip) : Prop :=
  Works i q cls opc (fun c d => AtHand c lc q ((names c d).map (mapAddr c d.rmap))) f

/-! ## When nothing is left to follow -/

/-- The wait of a context is over (R104, R108, R133, R168, R179). -/
def Ctx.due (c : Chip) (x : Ctx) : Bool :=
  waitsNow x && (match x.wait with
    | .counter _ (some p) t => reached c p t
    | .summary => !x.sums.isEmpty
    | .ringSpace n k => decide (k ≤ (ringOf c n).freeSlots)
    | .memory m => m.over c x
    | .barrier l t => barDone c l t
    | _ => false)

/-- A context has nothing left to do at once: its wait is not over; a KILL or EXIT waits for an access (R96) and a STOP for a load
or atomic (R97); and a quiesced SEQ page lets it run no further (Table 22.5). -/
structure Ctx.Settled (c : Chip) (x : Ctx) : Prop where
  waits : x.due c = false
  ends : x.ending = true → x.accs ≠ []
  stops : x.stopping = true → x.accs.any Acc.loading = true
  quiet : (pageOf c pSEQ).qreq = true → (x.st = .ready ∨ x.st = .waiting) → x.ending = true ∨ x.stopping = true

/-- In P0 every context is settled, and the table of contexts is in its canonical form. -/
def AllSettled (s : State) : Prop :=
  isAwake s.chip = true → SMap.wf Ctx.idle s.chip.seq.ctxs = true ∧ ∀ p ∈ s.chip.seq.ctxs, p.2.Settled s.chip

/-- A ring does nothing of itself: its first descriptor has not completed, and its first unissued one is halted or disabled with
the ring, or stands at step 2 with the moment recorded at which its conditions held, if they hold. -/
structure Ring.Still (c : Chip) (r : Ring) : Prop where
  front : ∀ d rest, r.descs = d :: rest → d.phase ≠ .completed
  next : ∀ d, r.nextIssue = some d →
    (r.halted = true ∨ r.en = false ∨ d.atStep2 = true ∨ d.phase ≠ .waiting) ∧
    (step2Holds c r d = true → d.tReady ≠ none)
  sums : ∀ d ∈ r.descs, d.sums = []

/-- Nothing is left to follow from an earlier command, in a core in P0 with a READY context: no request, signal, answer, event or
trace record waits to go out, no link owes its peer an ACK or credits, no ring can move, no write waits for other bytes, no journal
for its end, no COMMIT for a latch copy, no unit is kept gated, no start or detach waits, and no context is due. -/
structure Calm (c : Chip) : Prop where
  running : c.core.phase = .running
  p0 : c.pwr.state = 0
  outbox : c.outbox = []
  waiting : c.tlk.waitReqs = []
  held : c.tlk.heldReqs = []
  signals : c.sync.held = []
  proxies : c.tlk.proxies = []
  events : c.events = []
  firsts : c.firsts = []
  records : c.time.waiting = []
  acks : ∀ n, (portOf c n).flows = true → (portOf c n).owing true = false
  credits : c.hport.owed = []
  responses : c.hport.rspWait = []
  warm : c.core.warmWaits = false
  detach : c.hport.detachFrom = none
  gates : ∀ u, unitKept c u = false
  moves : ∀ q ∈ c.pwr.queue, unitOf q.unit ≠ 11
  rings : ∀ kr ∈ c.ring.rings, (ringOf c kr.1).Still c ∧ ∀ d ∈ kr.2.descs, d.sums = [] ∧ d.owes = false
  journals : classDescs c 6 (fun d => decide (d.phase = .running ∧ d.opc = 2 ∧ d.prog = 1)) = []
  latch : c.snap.latCopy = true → c.wvm.wants = none
  sequencer : (pageOf c pSEQ).qreq = false
  contexts : ∀ p ∈ c.seq.ctxs, p.2.due c = false ∧ p.2.ending = false ∧ p.2.stopping = false
  canonical : SMap.wf Ctx.idle c.seq.ctxs = true
  busy : ∃ p ∈ c.seq.ctxs, p.2.st = .ready
  quiet : c.sync.quietSince = none
  lend : c.pwr.lend ≠ 1 ∧ c.pwr.lend ≠ 2

/-! ## Words of the sequencer -/

/-- The word of a class, an operation and operands (Table 4.6). -/
def seqWord (cls op : Nat) (o : SeqOp) : W64 :=
  BitVec.ofNat 4 cls ++ BitVec.ofNat 6 op ++ o.gp ++ BitVec.ofBool o.gn ++ o.rd ++ o.ra ++ o.low

/-- CLASS and OP of a sequencer instruction (Tables 4.6 and 4.8 to 4.14). -/
def seqCode (i : Instr) : Option (Nat × Nat) :=
  match i with
  | .add o => some (b2n o.alui, 0x00)
  | .sub o => some (b2n o.alui, 0x01)
  | .mul o => some (b2n o.alui, 0x02)
  | .mulhu o => some (b2n o.alui, 0x03)
  | .mulhs o => some (b2n o.alui, 0x04)
  | .divu o => some (b2n o.alui, 0x05)
  | .divs o => some (b2n o.alui, 0x06)
  | .remu o => some (b2n o.alui, 0x07)
  | .rems o => some (b2n o.alui, 0x08)
  | .and o => some (b2n o.alui, 0x09)
  | .or o => some (b2n o.alui, 0x0A)
  | .xor o => some (b2n o.alui, 0x0B)
  | .andn o => some (b2n o.alui, 0x0C)
  | .shl o => some (b2n o.alui, 0x0D)
  | .shr o => some (b2n o.alui, 0x0E)
  | .sar o => some (b2n o.alui, 0x0F)
  | .rol o => some (b2n o.alui, 0x10)
  | .min o => some (b2n o.alui, 0x11)
  | .max o => some (b2n o.alui, 0x12)
  | .minu o => some (b2n o.alui, 0x13)
  | .maxu o => some (b2n o.alui, 0x14)
  | .clz o => some (b2n o.alui, 0x15)
  | .ctz o => some (b2n o.alui, 0x16)
  | .popc o => some (b2n o.alui, 0x17)
  | .sel o => some (b2n o.alui, 0x18)
  | .madd o => some (b2n o.alui, 0x19)
  | .bfx o => some (b2n o.alui, 0x1A)
  | .bfi o => some (b2n o.alui, 0x1B)
  | .cmpeq o => some (b2n o.alui, 0x20)
  | .cmpne o => some (b2n o.alui, 0x21)
  | .cmplt o => some (b2n o.alui, 0x22)
  | .cmple o => some (b2n o.alui, 0x23)
  | .cmpltu o => some (b2n o.alui, 0x24)
  | .cmpleu o => some (b2n o.alui, 0x25)
  | .pand o => some (b2n o.alui, 0x28)
  | .por o => some (b2n o.alui, 0x29)
  | .pxor o => some (b2n o.alui, 0x2A)
  | .pandn o => some (b2n o.alui, 0x2B)
  | .movp o => some (b2n o.alui, 0x2C)
  | .movtp o => some (b2n o.alui, 0x2D)
  | .fadd o => some (b2n o.alui, 0x30)
  | .fsub o => some (b2n o.alui, 0x31)
  | .fmul o => some (b2n o.alui, 0x32)
  | .fdiv o => some (b2n o.alui, 0x33)
  | .fsqrt o => some (b2n o.alui, 0x34)
  | .fma o => some (b2n o.alui, 0x35)
  | .fmin o => some (b2n o.alui, 0x36)
  | .fmax o => some (b2n o.alui, 0x37)
  | .fcmplt o => some (b2n o.alui, 0x38)
  | .fcmple o => some (b2n o.alui, 0x39)
  | .fcmpeq o => some (b2n o.alui, 0x3A)
  | .fcvti o => some (b2n o.alui, 0x3B)
  | .icvtf o => some (b2n o.alui, 0x3C)
  | .fisfin o => some (b2n o.alui, 0x3D)
  | .movi o => some (b2n o.alui, 0x3E)
  | .orhi o => some (b2n o.alui, 0x3F)
  | .ld _ => some (2, 0x00)
  | .st _ => some (2, 0x01)
  | .amoadd _ => some (2, 0x02)
  | .amoswap _ => some (2, 0x03)
  | .amocas _ => some (2, 0x04)
  | .amomaxu _ => some (2, 0x05)
  | .b _ => some (3, 0x00)
  | .bl _ => some (3, 0x01)
  | .jr _ => some (3, 0x02)
  | .jlr _ => some (3, 0x03)
  | .dbnz _ => some (3, 0x04)
  | .bz _ => some (3, 0x05)
  | .bnz _ => some (3, 0x06)
  | .ringPut _ => some (4, 0x00)
  | .ringPut2 _ => some (4, 0x01)
  | .ringGetw _ => some (4, 0x02)
  | .ringClr _ => some (4, 0x03)
  | .ringPush _ => some (4, 0x04)
  | .ringPushr _ => some (4, 0x05)
  | .ringTail _ => some (4, 0x06)
  | .ringHead _ => some (4, 0x07)
  | .wait _ => some (5, 0x00)
  | .test _ => some (5, 0x01)
  | .signal _ => some (5, 0x02)
  | .signalr _ => some (5, 0x03)
  | .ctrrd _ => some (5, 0x04)
  | .fenceLd _ | .fenceSt _ | .fenceAll _ => some (5, 0x05)
  | .bararr _ => some (5, 0x06)
  | .barwait _ => some (5, 0x07)
  | .sumPop _ => some (6, 0x00)
  | .sumTry _ => some (6, 0x01)
  | .sumPeek _ => some (6, 0x02)
  | .sumCount _ => some (6, 0x03)
  | .sumDrop _ => some (6, 0x04)
  | .sysNop _ => some (7, 0x00)
  | .yield _ => some (7, 0x01)
  | .exit _ => some (7, 0x02)
  | .spawn _ => some (7, 0x03)
  | .cid _ => some (7, 0x04)
  | .timerd _ => some (7, 0x05)
  | .sleept _ => some (7, 0x06)
  | .pgrd _ => some (7, 0x07)
  | .pgwr _ => some (7, 0x08)
  | .notify _ => some (7, 0x09)
  | .swfault _ => some (7, 0x0A)
  | .iflush _ => some (7, 0x0B)
  | _ => none

/-- The word of a sequencer instruction. -/
def seqEncode (i : Instr) : Option W64 :=
  match formOf i, seqCode i with
  | some (o, _), some (cls, op) => some (seqWord cls op o)
  | _, _ => none

end Sys2Proof.Machine
end

