-- ==== Sys2Proof/WellFormed.lean ====
section
/-! DEFINITION. Well-formed commands: operands within the widths and numbers that the core has. A command that is not is one that
nothing outside the core can send. -/

namespace Sys2Proof

/-- An instruction of a context that exists; class ALUI only of arithmetic. -/
def SeqOp.wf (arith : Bool) (o : SeqOp) : Bool := decide (o.ctx < Config.contexts) && (arith || !o.alui)

/-- A descriptor of a ring that exists. -/
def DescRef.wf (d : DescRef) : Bool := decide (d.ring < Config.rings ∧ d.idx < 2 ^ 32)

/-- A packet whose fields fit the header (Table 17.3). -/
def Packet.wf (p : Packet) : Bool :=
  decide (p.ty < 2 ^ 8 ∧ p.vc < 4 ∧ p.hops < 16 ∧ p.dst < 2 ^ 20 ∧ p.src < 2 ^ 20 ∧ p.tag < 2 ^ 16 ∧ p.status < 2 ^ 16)
    && decide (p.rEpoch < 2 ^ 32 ∧ p.lEpoch < 2 ^ 32 ∧ p.addr < 2 ^ 44 ∧ p.len < 2 ^ 13)
    && (p.payload.length == p.len || (p.ty == 2 && p.payload.isEmpty))

/-- A codeword of 2,880 bits on 8 or 4 lanes (R401, R403). -/
def FlitIn.wf (f : FlitIn) : Bool :=
  (f.lanes.length == 8 || f.lanes.length == 4) && f.lanes.all fun x => decide (x < 2 ^ (2880 / f.lanes.length))

/-- A lane request whose fields fit (Table 17.9). -/
def HppReq.wf (q : HppReq) : Bool := decide (q.tag < 1024 ∧ q.lines < 64 ∧ q.lcn < 2 ^ 20 ∧ q.addr < 2 ^ 44)

/-- The beats of a write: one of 64 bytes for each line. -/
def beatsOk (q : HppReq) (bs : List HppBeat) : Bool := bs.length == q.lines + 1 && bs.all fun b => b.bytes.length == 64

/-- A page that exists and an offset of a register in it (R18, R19). -/
def pageOff (page off : Nat) : Bool := decide (page < 20 ∧ off < 0x10000 ∧ off % 8 = 0)

/-- A well-formed command. -/
def Instr.wf (i : Instr) : Bool :=
  match i with
  | .add o | .sub o | .mul o | .mulhu o | .mulhs o | .divu o | .divs o | .remu o | .rems o | .and o | .or o | .xor o
  | .andn o | .shl o | .shr o | .sar o | .rol o | .min o | .max o | .minu o | .maxu o | .clz o | .ctz o | .popc o
  | .sel o | .madd o | .bfx o | .bfi o | .cmpeq o | .cmpne o | .cmplt o | .cmple o | .cmpltu o | .cmpleu o | .pand o
  | .por o | .pxor o | .pandn o | .movp o | .movtp o | .fadd o | .fsub o | .fmul o | .fdiv o | .fsqrt o | .fma o
  | .fmin o | .fmax o | .fcmplt o | .fcmple o | .fcmpeq o | .fcvti o | .icvtf o | .fisfin o | .movi o | .orhi o => o.wf true
  | .ld o | .st o | .amoadd o | .amoswap o | .amocas o | .amomaxu o | .b o | .bl o | .jr o | .jlr o | .dbnz o | .bz o
  | .bnz o | .ringPut o | .ringPut2 o | .ringGetw o | .ringClr o | .ringPush o | .ringPushr o | .ringTail o
  | .ringHead o | .wait o | .test o | .signal o | .signalr o | .ctrrd o
  | .bararr o | .barwait o | .sumPop o | .sumTry o | .sumPeek o | .sumCount o | .sumDrop o | .sysNop o | .yield o
  | .exit o | .spawn o | .cid o | .timerd o | .sleept o | .pgrd o | .pgwr o | .notify o | .swfault o | .iflush o => o.wf false
  | .fenceLd o => o.wf false && decide (o.low.toNat / 2 ^ 13 % 4 = 0)
  | .fenceSt o => o.wf false && decide (o.low.toNat / 2 ^ 13 % 4 = 1)
  | .fenceAll o => o.wf false && decide (o.low.toNat / 2 ^ 13 % 4 = 2)
  | .loadReturn ctx _ | .storeAck ctx _ => decide (ctx < Config.contexts)
  | .fetchFill ctx | .iflushDone ctx | .sleeptDeadline ctx | .waitTimeout ctx | .vmapInvCtx ctx => decide (ctx < Config.contexts)
  | .ctxStart | .ctxStop | .ctxResume | .ctxKill | .icacheFlush | .spawnFailClear | .doneQRead | .detachReq
  | .vmapInvGlobal | .rsigStatClear | .lmemArbApply | .eccStatClear | .force7Apply | .clrHist | .clrPend
  | .sctStatClear | .wvmHold | .snapLatchCopy | .lguardStatClear | .timeExchangeTimeout | .routeCopy | .routeClear
  | .imgEnd | .imageTimeout | .detach | .detachComplete | .detachTimeout | .snapStatClear | .pwrHold | .pwrRelease
  | .pwrOff | .dvfsStepDone | .p1Entry | .p2Entry | .wakeExitDone | .drogueAdmit | .rampDone | .lendOffer
  | .plAckRise | .plAckFall | .reclaimLate | .undervoltage | .uvRecover | .powerLoss | .overvoltage | .powerOn
  | .porstAssert | .porstRelease | .wrstRelease | .wakeN | .startCmdWarm | .startCmdCold | .railPowerGood
  | .coldStartRetry | .pllLock | .pllLockTimeout | .tpulseEdge | .holdoverExpire | .timeStatClear | .traceStatClear
  | .wsBypass | .wsExtest | .wsClamp | .wsSafe | .wsIntest | .twWrstn | .refclkStop => true
  | .ctxPcWrite _ | .ctxRegdataWrite _ | .doorbell _ | .ringCfgWrite _ | .ringBaseWrite _ | .ctrValWrite _
  | .ctrAddWrite _ | .vmapWrite _ | .watchCtlWrite _ | .barEnable _ | .barDisable _ | .lmemArbWrite _
  | .eccInjectWrite _ | .dmaStageWrite _ | .force7Write _ | .slotCfgWrite _ | .slotScaleWrite _ | .wvmStepWrite _
  | .lguardWrite _ | .mtbfWrite _ | .dvfsPointWrite _ | .latTolWrite _ | .tpulseArm _ | .traceCfgWrite _
  | .traceHeadWrite _ => true
  | .registerWrite page off _ => pageOff page off
  | .regRd off => decide (off < 2 ^ 44)
  | .regWr off _ => decide (off < 2 ^ 44)
  | .regacc _ _ _ off => decide (off < 2 ^ 44)
  | .rbDataRead page | .quiesceRequest page | .quiesceClear page => decide (page < 20)
  | .descriptorFetch ring | .descriptorIssue ring | .ringResume ring | .ringSkip ring | .ringSkipSignal ring
  | .traceRecordAck ring => decide (ring < Config.rings)
  | .descriptorComplete d | .nop d | .seqInternalSpawn d | .copyb d | .copy d | .permute d | .gather d | .scatter d
  | .fill d | .split64 d | .transpose d | .bufferWaitStart d | .stream d | .taps d | .mxaStart d | .product d
  | .run d | .treduce d | .vecStart d | .tappedRunStart d | .lreduce d | .creduce d | .creducePiece d | .xreduce d
  | .registerRgn d | .release d | .openStep d | .openTake d | .commit d | .skip d | .pin d | .pinWaitStart d
  | .unpin d | .thaw d | .put d | .reshard d | .reshardPush d | .reshardAnnounce d | .reshardCopy d | .begin d
  | .journal d | .trickle d | .snapClose d | .digest d | .restore d | .abandon d | .mvpStart d => d.wf
  | .setidx ring value => decide (ring < Config.rings ∧ value < 2 ^ 32)
  | .counterEcc ctr => decide (ctr < Config.counters)
  | .vmapInvEntry ctx vctr => decide (ctx < Config.contexts ∧ vctr < 2 ^ 16)
  | .watchWrite w _ => decide (w < 8)
  | .compatSignalApply _ | .sctTap _ | .routeHoldTimeout _ | .teeBlockAck _ => true
  | .barInRise line | .barHoldExpire line | .barInLow line => decide (line < 8)
  | .scrubRead bank | .mbist bank => decide (bank < Config.banks)
  | .eccWriteback word => decide (8 * word < Config.lmemBytes)
  | .arrayFlip array | .zgateHalfRequest array => decide (array < Config.arrays)
  | .fwdRow chain => decide (chain < Config.chains)
  | .trainingWord port lane mark good stw => decide (port < Config.ports ∧ lane < 8 ∧ mark < 2 ^ 32 ∧ good < 2 ^ 8 ∧ stw < 2 ^ 8)
  | .trainingTimeout port | .ackTimeout port | .timeSyncSend port | .portEnable port | .portDisable port
  | .retrain port => decide (port < Config.ports)
  | .laneLockLoss port lane => decide (port < Config.ports ∧ lane < 8)
  | .flitData port f | .flitIdle port f | .flitReplay port f => decide (port < Config.ports) && f.wf
  | .negotiate port p | .wr port p | .rd port p | .amo port p | .sig port p | .wrack port p | .rddata port p
  | .amorsp port p | .sigack port p | .timeSync port p | .timeReply port p | .close port p => decide (port < Config.ports) && p.wf
  | .respTimeout tag => decide (tag < 2 ^ 16)
  | .swap epoch => decide (epoch < 2 ^ 32)
  | .tlkCountClear page off => pageOff page off
  | .hppRd ch q => decide (ch < Config.channels) && q.wf
  | .hppWr ch q beats => decide (ch < Config.channels) && q.wf && beatsOk q beats
  | .hppPeer ch q p => decide (ch < Config.channels) && q.wf && p.wf
  | .hppResponse ch tag status _ => decide (ch < Config.channels ∧ tag < 1024 ∧ status < 2 ^ 16)
  | .hportTimeout ch tag => decide (ch < Config.channels ∧ tag < 1024)
  | .hppCredit ch _ => decide (ch < Config.channels)
  | .hello word => decide (word < 2 ^ 32)
  | .imgData _ => true
  | .trickleRegionDone region => decide (region < 2048)
  | .snapStreamWrite off _ => pageOff 18 off
  | .blockGate unit => decide (1 ≤ unit ∧ unit ≤ 12)
  | .regulatorTimeout rail | .railOutOfBand rail => decide (rail < 3)
  | .marchTestDone _ => true
  | .timeMark _ who => decide (who < 2 ^ 16)
  | .pgEnWrite page _ => decide (page < 20)
  | .rbDataWrite page _ => decide (page < 20)
  | .mbistDone _ => true
  | .imgread index => decide (index < 2 ^ 16)
  | .lmemEccError word cls d => decide (8 * word < Config.lmemBytes ∧ cls < 6) && d.wf

end Sys2Proof
end

