-- ==== Sys2Proof/Certificates/Slice0/Obligations.lean ====
section
/-! DEFINITION. The statements, for the provers: what a step does, what each command does where it completes, what commands leave
alone, and what every step keeps. -/

open Sys2Proof Sys2Proof.Machine

/-! ## The machine -/

/-- A step with a command waiting is that command's effect with the queue's rest. -/
def Obligations.StepRunsFrontCommand : Prop :=
  ∀ (i : Instr) (rest : List Instr) (c : Chip), step ⟨c, i :: rest⟩ = exec i ⟨c, rest⟩

/-- The model's own choice (log 3): with no command waiting, a step is a tick, which fetches only in P0. How far time goes in P0
is a free value (log 116). -/
def Obligations.EmptyQueueTicks : Prop :=
  (∀ c : Chip, ∃ t, step ⟨c, []⟩ = .next t ∧ t.chip = (tick c).2 ∧ t.pending = (tick c).1) ∧
  (∀ c : Chip, isUp c = false → ticks c = true → step ⟨c, []⟩ = .next ⟨lendTick (holdLines (advanceTime c)), []⟩) ∧
  (∀ c : Chip, isUp c = false → ticks c = false → step ⟨c, []⟩ = .next ⟨c, []⟩)

/-- R493: once REFCLK has stopped outside P3 the state is undefined until PORST_N, and nothing can be said of any other command;
PORST_N and the loss of the supply still act. -/
def Obligations.UndefinedUntilPorst : Prop :=
  (∀ s, s.chip.core.phase ≠ .p3 → s.chip.core.phase ≠ .unpowered → s.chip.core.phase ≠ .undefined →
    ∃ t, exec .refclkStop s = .next t ∧ t.chip.core.phase = .undefined) ∧
  (∀ i s, s.chip.core.phase = .undefined → i ≠ .porstAssert → i ≠ .porstRelease → i ≠ .powerLoss →
    exec i s = .fault .stateUndefined) ∧
  (∀ s, s.chip.core.phase = .undefined →
    (∃ t, exec .porstAssert s = .next t ∧ t.chip = freshChip s.chip) ∧
    (∃ t, exec .powerLoss s = .next t ∧ t.chip = { freshChip { s.chip with pwr.uvNow := false } with core.phase := .unpowered }) ∧
    exec .porstRelease s = .next s)

/-- While the state is defined every command answers a next state, none is refused, and the queue is as it was. That a command
which cannot act in the present state answers too, and only settles, is the model's reading (log 70). -/
def Obligations.EveryCommandAnswers : Prop :=
  ∀ i s, s.chip.core.phase ≠ .undefined → ∃ t, exec i s = .next t ∧ t.pending = s.pending

/-- What power-on reset leaves (Tables 4.18, 5.9, 6.17, 7.4, 19.9 and 20.7, and R195): registers at the reset values that the
tables give, storage zero, and no command waiting. -/
def Obligations.ResetValues : Prop :=
  State.reset.pending = [] ∧ State.reset.chip.core.phase = .powerOn ∧
  (∀ a, Mem.get State.reset.chip.lmem.mem a = 0#8) ∧
  (∀ n, ctrOf State.reset.chip n = ⟨0, false⟩) ∧
  (ctxOf State.reset.chip 0).st = .ready ∧ (ctxOf State.reset.chip 0).pc = 0#64 ∧
  (∀ n, n ≠ 0 → (ctxOf State.reset.chip n).st = .free) ∧ (∀ n r, (ctxOf State.reset.chip n).reg r = 0#64) ∧
  (∀ n, (ringOf State.reset.chip n).en = false ∧ (ringOf State.reset.chip n).head = 0 ∧ (ringOf State.reset.chip n).tail = 0) ∧
  (∀ p, (pageOf State.reset.chip p).fault = 0#20 ∧ (pageOf State.reset.chip p).qreq = false) ∧
  State.reset.chip.sync.wdog = 10000000 ∧ State.reset.chip.pwr.latTol = 1000 ∧ State.reset.chip.core.retainV = false

/-! ## Issue of sequencer instructions -/

/-- R112: what an instruction does whose guard is false, and when a guard is true. -/
def Obligations.FalseGuardOnlyAdvances : Prop :=
  (∀ i o f, formOf i = some (o, f) → ∀ s, canIssue s.chip o.ctx = true → pcFault (ctxOf s.chip o.ctx).pc = none →
    f.legal = true → guardOn o (ctxOf s.chip o.ctx) = false →
    Answers i s (updCtx o.ctx (fun x => { x with pc := x.pc + 8 }) (issued o.ctx s.chip))) ∧
  (∀ (o : SeqOp) (x : Ctx), guardOn o x = true ↔
    (x.pred o.gp.toNat = true ∧ o.gn = false) ∨ (x.pred o.gp.toNat = false ∧ o.gn = true)) ∧
  (∀ (o : SeqOp) (x : Ctx), o.gp = 0#3 → (guardOn o x = true ↔ o.gn = false))

/-- R113 and R114: illegal fields fault the context at the instruction, whatever the guard, and leave its registers, predicates,
staging words and summaries. R99: a context whose instruction needs a register that an earlier load or atomic has not yet
written, or an access beyond the 8 loads and 16 stores and atomics that may be outstanding, is descheduled with reason MEMORY
and stays at the instruction. -/
def Obligations.FaultsAndHazardsAtIssue : Prop :=
  (∀ i o f, formOf i = some (o, f) → ∀ s, canIssue s.chip o.ctx = true → pcFault (ctxOf s.chip o.ctx).pc = none →
    f.legal = false →
    Answers i s (recordFault pSEQ .isaIllegal (faultCode pSEQ .isaIllegal) o.ctx 0xFFFF (ctxOf (issued o.ctx s.chip) o.ctx).pc
      (setCtx o.ctx { ctxOf (issued o.ctx s.chip) o.ctx with
        st := .faulted, wait := .none, fault := 0x103, late := false, stopping := false } (issued o.ctx s.chip)))) ∧
  ((∀ i o f w, formOf i = some (o, f) → ∀ s, canIssue s.chip o.ctx = true → pcFault (ctxOf s.chip o.ctx).pc = none →
    f.legal = true → guardOn o (ctxOf s.chip o.ctx) = true → hazard (ctxOf s.chip o.ctx) f = some w →
    Answers i s (setCtx o.ctx { ctxOf s.chip o.ctx with
      st := .waiting, wait := .memory w, waitFrom := now s.chip, waitedBefore := 0, moved := false } s.chip)) ∧
  (∀ (x : Ctx) (f : SeqForm), hazard x f = none ↔
    (∀ r ∈ f.regs, r ≠ 0 → ∀ a ∈ x.accs, a.loading = true → a.rd ≠ r) ∧
    (f.load = true → x.loads < 8) ∧ (f.store = true → x.stores < 16)))

/-- R93: s0 reads zero and p0 reads true whatever is written, and a write of another register or predicate reads back. -/
def Obligations.ScalarRegisters : Prop :=
  ∀ x : Ctx,
    (∀ v, (x.setReg 0 v) = x) ∧ x.reg 0 = 0#64 ∧ (∀ v, x.setPred 0 v = x) ∧ x.pred 0 = true ∧
    (∀ r v, r ≠ 0 → (x.setReg r v).reg r = v) ∧
    (∀ r r' v, r' ≠ r → (x.setReg r v).reg r' = x.reg r') ∧
    (∀ p v, p ≠ 0 → p < 8 → (x.setPred p v).pred p = v) ∧
    (∀ p p' v, p' ≠ p → (x.setPred p v).pred p' = x.pred p')

/-! ## Sequencer instructions -/

/-- The integer operations of Table 4.8 (R115): a is s[RA], b is s[RB] or, in class ALUI, IMM40 sign-extended, c is s[RC].
Comparisons and predicate operations of Table 4.8 (R115). FP64 operations of Table 4.8 (R115): on the exact values of the
operands, rounded once to nearest, ties to even. -/
def Obligations.ArithmeticInstructions : Prop :=
  (∀ o : SeqOp, let a (x : Ctx) : W64 := x.reg (opRa o); let b (x : Ctx) : W64 := aluB o x; let k (x : Ctx) : W64 := x.reg (opRc o)
  let p (x : Ctx) : Nat := (b x).toNat % 64; let w (x : Ctx) : Nat := min ((k x).toNat % 128) (64 - p x)
  Sets (.add o) (fun x => a x + b x) ∧ Sets (.sub o) (fun x => a x - b x) ∧ Sets (.mul o) (fun x => a x * b x) ∧
  Sets (.mulhu o) (fun x => BitVec.ofNat 64 ((a x).toNat * (b x).toNat / 2 ^ 64)) ∧
  Sets (.mulhs o) (fun x => BitVec.ofInt 64 ((a x).toInt * (b x).toInt / 2 ^ 64)) ∧
  Sets (.divu o) (fun x => if b x = 0#64 then 0xFFFFFFFFFFFFFFFF#64 else a x / b x) ∧
  Sets (.divs o) (fun x => if b x = 0#64 then 0xFFFFFFFFFFFFFFFF#64 else BitVec.ofInt 64 ((a x).toInt.tdiv (b x).toInt)) ∧
  Sets (.remu o) (fun x => if b x = 0#64 then a x else a x % b x) ∧
  Sets (.rems o) (fun x => if b x = 0#64 then a x else BitVec.ofInt 64 ((a x).toInt.tmod (b x).toInt)) ∧
  Sets (.and o) (fun x => a x &&& b x) ∧ Sets (.or o) (fun x => a x ||| b x) ∧ Sets (.xor o) (fun x => a x ^^^ b x) ∧
  Sets (.andn o) (fun x => a x &&& ~~~(b x)) ∧
  Sets (.shl o) (fun x => a x <<< p x) ∧ Sets (.shr o) (fun x => a x >>> p x) ∧ Sets (.sar o) (fun x => (a x).sshiftRight (p x)) ∧
  Sets (.rol o) (fun x => (a x).rotateLeft (p x)) ∧
  Sets (.min o) (fun x => if (a x).toInt ≤ (b x).toInt then a x else b x) ∧
  Sets (.max o) (fun x => if (a x).toInt ≤ (b x).toInt then b x else a x) ∧
  Sets (.minu o) (fun x => if (a x).toNat ≤ (b x).toNat then a x else b x) ∧
  Sets (.maxu o) (fun x => if (a x).toNat ≤ (b x).toNat then b x else a x) ∧
  Sets (.clz o) (fun x => BitVec.ofNat 64 (if a x = 0#64 then 64 else 63 - Nat.log2 (a x).toNat)) ∧
  Sets (.ctz o) (fun x => BitVec.ofNat 64 (((List.range 64).takeWhile fun i => !(a x).getLsbD i).length)) ∧
  Sets (.popc o) (fun x => BitVec.ofNat 64 (((List.range 64).filter fun i => (a x).getLsbD i).length)) ∧
  Sets (.sel o) (fun x => if k x ≠ 0#64 then a x else b x) ∧ Sets (.madd o) (fun x => a x * b x + k x) ∧
  Sets (.bfx o) (fun x => BitVec.ofNat 64 ((a x).toNat / 2 ^ p x % 2 ^ w x)) ∧
  Sets (.bfi o) (fun x => maskWrite (maskOf [(p x, w x)]) (x.reg (opRd o)) (a x <<< p x)) ∧
  Sets (.movi o) (fun x => b x) ∧ Sets (.orhi o) (fun x => a x ||| (b x <<< 40))) ∧
  (∀ o : SeqOp, let a (x : Ctx) : W64 := x.reg (opRa o); let b (x : Ctx) : W64 := aluB o x
  let p (x : Ctx) : Bool := x.pred (opRa o); let q (x : Ctx) : Bool := x.pred (opRb o)
  Tests (.cmpeq o) (fun x => decide (a x = b x)) ∧ Tests (.cmpne o) (fun x => decide (a x ≠ b x)) ∧
  Tests (.cmplt o) (fun x => decide ((a x).toInt < (b x).toInt)) ∧ Tests (.cmple o) (fun x => decide ((a x).toInt ≤ (b x).toInt)) ∧
  Tests (.cmpltu o) (fun x => decide ((a x).toNat < (b x).toNat)) ∧
  Tests (.cmpleu o) (fun x => decide ((a x).toNat ≤ (b x).toNat)) ∧
  Tests (.pand o) (fun x => p x && q x) ∧ Tests (.por o) (fun x => p x || q x) ∧ Tests (.pxor o) (fun x => p x ^^ q x) ∧
  Tests (.pandn o) (fun x => p x && !q x) ∧
  Sets (.movp o) (fun x => (x.preds ||| 1#8).setWidth 64) ∧
  Moves (.movtp o) (fun x y => { y with preds := (a x).setWidth 8 &&& 0xFE#8 })) ∧
  (∀ o : SeqOp, let a (x : Ctx) : XNum := fp64.decode (x.reg (opRa o)).toNat; let b (x : Ctx) : XNum := fp64.decode (aluB o x).toNat
  let k (x : Ctx) : XNum := fp64.decode (x.reg (opRc o)).toNat
  let rnd (v : XNum) : W64 := BitVec.ofNat 64 (fp64.encode .rne false 0 v)
  Sets (.fadd o) (fun x => rnd ((a x).add (b x))) ∧ Sets (.fsub o) (fun x => rnd ((a x).sub (b x))) ∧
  Sets (.fmul o) (fun x => rnd ((a x).mul (b x))) ∧ Sets (.fdiv o) (fun x => rnd ((a x).div (b x))) ∧
  Sets (.fsqrt o) (fun x => rnd (a x).sqrt) ∧ Sets (.fma o) (fun x => rnd (((a x).mul (b x)).add (k x))) ∧
  Sets (.fmin o) (fun x => rnd ((a x).min (b x))) ∧ Sets (.fmax o) (fun x => rnd ((a x).max (b x))) ∧
  Tests (.fcmplt o) (fun x => (a x).lt (b x)) ∧ Tests (.fcmple o) (fun x => (a x).le (b x)) ∧
  Tests (.fcmpeq o) (fun x => (a x).eq (b x)) ∧ Tests (.fisfin o) (fun x => (a x).isFinite) ∧
  Sets (.fcvti o) (fun x => match a x with
    | .nan => 0#64
    | .inf neg => if neg then 0x8000000000000000#64 else 0x7FFFFFFFFFFFFFFF#64
    | v => BitVec.ofInt 64 (max (-(2 ^ 63)) (min (2 ^ 63 - 1) ((XNum.toInt? .rne 0 v).getD 0)))) ∧ Sets (.icvtf o) (fun x => rnd (XNum.ofInt (x.reg (opRa o)).toInt)))

/-- LD and ST (R116, R117): at s[RA] plus s[RB] << SIZE or OFF30, a load or store of 2^SIZE bytes; one that is misaligned or
unmapped faults, one in this core's LMEM is made at once, and its record waits for LOAD_RETURN or STORE_ACK. That a local access
is made as the instruction issues, its value taken then, is the model's reading (log 7). Atomics (R107, R116, R117): at s[RA]
plus OFF25, on 4 or 8 bytes of LMEM. Each takes the old value and stores the new one as Table 4.9 says; that this happens at
issue is the model's reading (log 7). -/
def Obligations.MemoryInstructions : Prop :=
  ((∀ o : SeqOp, Fires (.ld o) (fun x => ctxLoad o.ctx (opRd o) (opSize o) (opSx o) (lsAddr o x)) ∧
    Fires (.st o) (fun x => ctxStore o.ctx (opSize o) (lsAddr o x) (x.reg (opRd o)))) ∧
  (∀ (o : SeqOp) (x : Ctx), lsAddr o x =
    (x.reg (opRa o) + (if o.low.getLsbD 30 then x.reg (opRb o) <<< opSize o else sextW 30 o.low.toNat)).toNat) ∧
  (∀ (c : Chip) (n rd size a : Nat) (sx : Bool) (v : W64),
    (a % 2 ^ size ≠ 0 → ctxLoad n rd size sx a c = faultHere n .addrUnmapped c ∧
      ctxStore n size a v c = faultHere n .addrUnmapped c) ∧
    (a % 2 ^ size = 0 → isSelf c a = true → regionOf (offOf a) (2 ^ size) = some .lmem →
      mappedRange c false (offOf a) (2 ^ size) = true → errWords c (rangeFrom (offOf a) (2 ^ size)) = [] →
      ctxLoad n rd size sx a c = pushAcc n ((newAcc .load rd size sx a).with (.done (lmemNat c (offOf a) (2 ^ size)))) c))) ∧
  ((∀ o : SeqOp, let at_ (x : Ctx) : Nat := (x.reg (opRa o) + sextW 25 o.low.toNat).toNat
    Fires (.amoadd o) (fun x => ctxAmo 2 o (x.reg (opRb o)) (x.reg (opAmoRc o)) (at_ x)) ∧
    Fires (.amoswap o) (fun x => ctxAmo 3 o (x.reg (opRb o)) (x.reg (opAmoRc o)) (at_ x)) ∧
    Fires (.amocas o) (fun x => ctxAmo 4 o (x.reg (opRb o)) (x.reg (opAmoRc o)) (at_ x)) ∧
    Fires (.amomaxu o) (fun x => ctxAmo 5 o (x.reg (opRb o)) (x.reg (opAmoRc o)) (at_ x))) ∧
  (∀ (op : Nat) (o : SeqOp) (b v : W64) (a : Nat) (c : Chip),
    opSize o < 2 ∨ a % 2 ^ opSize o ≠ 0 ∨ regionOf (offOf a) (2 ^ opSize o) ≠ some .lmem →
    ctxAmo op o b v a c = faultHere o.ctx .addrUnmapped c) ∧
  (∀ (o : SeqOp) (b v : W64) (a : Nat) (c : Chip), let n := 2 ^ opSize o; let off := offOf a; let old := lmemNat c off n
    let w (x : Nat) : Nat := x % 2 ^ (8 * n)
    let acts (op new : Nat) : Prop := ctxAmo op o b v a c =
      pushAcc o.ctx ((newAcc .amo (opRd o) (opSize o) false a).with (.done old)) (lmemWrite off (leBytes n new) c)
    2 ≤ opSize o → opSize o ≤ 3 → a % n = 0 → isSelf c a = true → regionOf off n = some .lmem →
    errWords c (rangeFrom off n) = [] →
    acts 2 (w (old + b.toNat)) ∧ acts 3 (w b.toNat) ∧ acts 4 (if old = w b.toNat then w v.toNat else old) ∧ acts 5 (max old (w b.toNat))))

/-- R118: branches, with offsets in instructions from the branch's own PC and with the fault of a misaligned register target. -/
def Obligations.Branches : Prop :=
  ∀ o : SeqOp, let a (x : Ctx) : W64 := x.reg (opRa o)
  let near (x : Ctx) : W64 := x.pc + 8 * sextW 32 o.low.toNat
  let link (f : Ctx → Ctx) (x : Ctx) (c : Chip) : Chip :=
    if (a x).toNat % 8 ≠ 0 then faultHere o.ctx .isaIllegal c else updCtx o.ctx (fun y => { f y with pc := a x }) c
  Fires (.b o) (fun _ => updCtx o.ctx fun y => { y with pc := near y }) ∧
  Fires (.bl o) (fun _ => updCtx o.ctx fun y => { y.setReg (opRd o) (y.pc + 8) with pc := near y }) ∧
  Fires (.jr o) (fun x => link id x) ∧
  Fires (.jlr o) (fun x => link (fun y => y.setReg (opRd o) (y.pc + 8)) x) ∧
  Fires (.dbnz o) (fun x => updCtx o.ctx fun y =>
    { y.setReg (opRd o) (a x - 1) with pc := if a x - 1 ≠ 0#64 then near y else y.pc + 8 }) ∧
  Fires (.bz o) (fun x => updCtx o.ctx fun y => { y with pc := if a x = 0#64 then near y else y.pc + 8 }) ∧
  Fires (.bnz o) (fun x => updCtx o.ctx fun y => { y with pc := if a x ≠ 0#64 then near y else y.pc + 8 })

/-- The staging area (R119): PUT, PUT2, GETW and CLR; and TAIL and HEAD of the ring on a slot. PUSH and PUSHR (R119, R120, R133,
R134): a slot with no bound ring or a HOSTFED one faults; stores that are not acknowledged and a full ring deschedule; otherwise
the staged words enter the ring and rd receives the tail they were written at. -/
def Obligations.RingInstructions : Prop :=
  (∀ o : SeqOp,
  Moves (.ringPut o) (fun x y => { y with staging := SMap.set 0#64 y.staging (opWord o) (x.reg (opRa o)) }) ∧
  Moves (.ringPut2 o) (fun x y =>
    { y with staging := SMap.set 0#64 (SMap.set 0#64 y.staging (opWord o) (x.reg (opRa o))) (opWord o + 1) (x.reg (opRb o)) }) ∧
  Sets (.ringGetw o) (fun x => SMap.get 0#64 x.staging (opWord o)) ∧
  Moves (.ringClr o) (fun _ y => { y with staging := [] }) ∧
  Fires (.ringTail o) (fun _ c => stepPast o.ctx
    (fun y => y.setReg (opRd o) (BitVec.ofNat 64 (ringOf c (32 * o.ctx + opRc o)).tail)) c) ∧
  Fires (.ringHead o) (fun _ c => stepPast o.ctx
    (fun y => y.setReg (opRd o) (BitVec.ofNat 64 (ringOf c (32 * o.ctx + opRc o)).head)) c)) ∧
  (∀ o : SeqOp,
  let push (slot : Nat) (x : Ctx) (c : Chip) : Chip :=
    let n := 32 * o.ctx + slot
    let k := if (SMap.get 0#64 x.staging 0).getLsbD 17 then 3 else 1
    if (ringOf c n).en = false ∨ (ringOf c n).hostfed = true then faultHere o.ctx .isaIllegal c
    else if (ctxOf c o.ctx).accs.any Acc.storing = true then waitOn o.ctx (.memory .stores) c
    else if (ringOf c n).freeSlots < k then waitOn o.ctx (.ringSpace n k) c
    else stepPast o.ctx (fun y => y.setReg (opRd o) (BitVec.ofNat 64 (ringOf c n).tail))
      (pushWords n ((rangeFrom 0 (8 * k)).map fun i => SMap.get 0#64 x.staging i) c)
  Fires (.ringPush o) (fun x => push (opRc o) x) ∧
  Fires (.ringPushr o) (fun x => push ((x.reg (opRa o)).toNat % 32) x))

/-- WAIT, TEST, SIGNAL, SIGNALR and CTRRD (R121, R165, R168, R171, R174) for a counter that translates, for none, and for one
that does not translate. Fences and the bridle lines (R105, R178, R179). That FENCE.LD waits for atomics whose data has not
returned, besides loads, is the model's reading (log 13). -/
def Obligations.SyncInstructions : Prop :=
  (∀ o : SeqOp, let v (x : Ctx) : Nat := syncCtr o x; let t (x : Ctx) : Nat := (x.reg (opRa o)).toNat % 2 ^ 48
  let rel (f : Chip → Chip) (c : Chip) : Chip :=
    if (ctxOf c o.ctx).accs.any Acc.storing = true then waitOn o.ctx (.memory .stores) c else f c
  Fires (.wait o) (fun x c =>
    if v x = 0xFFFF then stepPast o.ctx id c
    else match translate (blameCtx o.ctx x.pc) o.ctx (v x) c with
      | (some p, c) => if reached c p (t x) then stepPast o.ctx id c else waitOn o.ctx (.counter (v x) (some p) (t x)) c
      | (none, c) => waitOn o.ctx (.counter (v x) none (t x)) c) ∧
  Fires (.test o) (fun x c =>
    if v x = 0xFFFF then stepPast o.ctx (fun y => y.setPred (opRd o) true) c
    else match translate (blameCtx o.ctx x.pc) o.ctx (v x) c with
      | (some p, c) => stepPast o.ctx (fun y => y.setPred (opRd o) (reached c p (t x))) c
      | (none, c) => stepPast o.ctx (fun y => y.setPred (opRd o) false) c) ∧
  Fires (.signal o) (fun x => rel fun c =>
    if v x = 0xFFFF then stepPast o.ctx id c
    else match translate (blameCtx o.ctx x.pc) o.ctx (v x) c with
      | (some p, c) => stepPast o.ctx id (addCounter p ((x.reg (opRa o)).toNat % 65536) c)
      | (none, c) => stepPast o.ctx id c) ∧
  Fires (.signalr o) (fun x => rel fun c =>
    let b := (x.reg (opRb o)).toNat
    if sigRoom c (b % 2 ^ 20) then
      stepPast o.ctx id (raiseSignal (b % 2 ^ 20) (b / 2 ^ 20 % 2 ^ 12) (opCtr16 o) ((x.reg (opRa o)).toNat % 65536) c)
    else waitOn o.ctx (.memory .sigQueue) c) ∧
  Fires (.ctrrd o) (fun x c =>
    if v x = 0xFFFF then stepPast o.ctx (fun y => y.setReg (opRd o) 0#64) c
    else match translate (blameCtx o.ctx x.pc) o.ctx (v x) c with
      | (some p, c) => stepPast o.ctx (fun y => y.setReg (opRd o) (BitVec.ofNat 64 (ctrRead c p))) c
      | (none, c) => stepPast o.ctx (fun y => y.setReg (opRd o) 0#64) c)) ∧
  (∀ o : SeqOp,
  let st (f : Chip → Chip) (x : Ctx) (c : Chip) : Chip :=
    if x.accs.any Acc.storing = true then waitOn o.ctx (.memory .stores) c else f c
  let ld (f : Chip → Chip) (x : Ctx) (c : Chip) : Chip := if x.busy ≠ [] then waitOn o.ctx (.memory (.regs x.busy)) c else f c
  Fires (.fenceLd o) (fun x => ld (stepPast o.ctx id) x) ∧
  Fires (.fenceSt o) (fun x => st (stepPast o.ctx id) x) ∧
  Fires (.fenceAll o) (fun x => st (ld (stepPast o.ctx id) x) x) ∧
  Fires (.bararr o) (fun _ c => stepPast o.ctx id (barArrive o.ctx (opLine o) c)) ∧
  Fires (.barwait o) (fun x c =>
    match (if syncCtr o x = 0xFFFF then none else SMap.get none x.barTarget (opLine o)) with
    | none => stepPast o.ctx id c
    | some t => if sub32 ((barOf c (opLine o)).gen % 2 ^ 32) t < 2 ^ 31 then stepPast o.ctx id c
      else waitOn o.ctx (.barrier (opLine o) t) c))

/-- R122: what POP, TRY, PEEK, COUNT and DROP do with the head of the FIFO. -/
def Obligations.Summaries : Prop :=
  ∀ o : SeqOp,
  let take (s : Summary) (y : Ctx) : Ctx :=
    (y.setReg (opRd o) (BitVec.ofNat 64 s.value)).setReg (opRt o) (BitVec.ofNat 64 s.meta')
  let done (f : Ctx → Ctx) (b : Bool) (c : Chip) : Chip := stepPast o.ctx (fun y => (f y).setPred (opPd o) b) c
  Fires (.sumPop o) (fun x => match x.sums with
    | [] => waitOn o.ctx .summary
    | s :: rest => done (fun y => take s { y with sums := rest }) (s.meta'.testBit 20)) ∧
  Fires (.sumTry o) (fun x => match x.sums with
    | [] => done id false
    | s :: rest => done (fun y => take s { y with sums := rest }) true) ∧
  Fires (.sumPeek o) (fun x => match x.sums with
    | [] => done id false
    | s :: _ => done (take s) true) ∧
  Sets (.sumCount o) (fun x => BitVec.ofNat 64 x.sums.length) ∧
  Moves (.sumDrop o) (fun x y => { y with sums := x.sums.tail }) ∧
  (∀ (x : Ctx) (v : W64), x.setReg 0 v = x) ∧ (∀ (x : Ctx) (b : Bool), x.setPred 0 b = x) ∧
  (∀ f, (formOf (.sumPop o) = some (o, f) ∨ formOf (.sumTry o) = some (o, f) ∨ formOf (.sumPeek o) = some (o, f) ∨
      formOf (.sumCount o) = some (o, f) ∨ formOf (.sumDrop o) = some (o, f)) → f.legal = true → opRa o = 0)

/-- System operations (R123, R96, R101). That EXIT leaves PC 0 and keeps the START argument is the model's reading (log 15). -/
def Obligations.SystemInstructions : Prop :=
  ∀ o : SeqOp,
  Moves (.sysNop o) (fun _ y => y) ∧
  Moves (.yield o) (fun _ y => { y with passOver := 16 }) ∧
  Fires (.exit o) (fun x c =>
    if x.accs = [] then setCtx o.ctx { Ctx.idle with startArg := (ctxOf c o.ctx).startArg } c else waitOn o.ctx (.memory .all) c) ∧
  Fires (.spawn o) (fun x c =>
    let a := x.reg (opRa o)
    match spawnCtx (if a = 0xFFFFFFFFFFFFFFFF#64 then none else some a.toNat) (x.reg (opRb o)) (x.reg (opRc o)) c with
    | (some n, c) => stepPast o.ctx (fun y => y.setReg (opRd o) (BitVec.ofNat 64 n)) c
    | (none, c) => stepPast o.ctx (fun y => y.setReg (opRd o) 0xFFFFFFFFFFFFFFFF#64) c) ∧
  Sets (.cid o) (fun _ => BitVec.ofNat 64 o.ctx) ∧
  Fires (.timerd o) (fun _ c => stepPast o.ctx (fun y => y.setReg (opRd o) (BitVec.ofNat 64 (now c))) c) ∧
  Fires (.sleept o) (fun x c =>
    if (x.reg (opRa o)).toNat ≤ now c then stepPast o.ctx id c else waitOn o.ctx (.time (x.reg (opRa o)).toNat) c) ∧
  Fires (.notify o) (fun x c => stepPast o.ctx id { c with seq.notify := c.seq.notify ||| (1#64 <<< ((x.reg (opRa o)).toNat % 64)) }) ∧
  Fires (.swfault o) (fun _ => faultHere o.ctx .swFault) ∧
  Fires (.iflush o) (fun _ => waitOn o.ctx .flush)

/-- Starting a context (R95, R123, R124): a named FREE context, or the lowest FREE one, starts with s1 its argument and every
other register, predicate and staging word zero; a start PC that breaks R100 starts nothing. -/
def Obligations.Spawning : Prop :=
  (∀ (c : Chip) (n : Nat) (pc arg : W64), n < 1024 → (ctxOf c n).st = .free → pcFault pc = none →
    spawnCtx (some n) pc arg c = (some n, startCtx n pc arg c)) ∧
  (∀ (c : Chip) (n : Nat) (pc arg : W64), (1024 ≤ n ∨ (ctxOf c n).st ≠ .free ∨ pcFault pc ≠ none) →
    spawnCtx (some n) pc arg c = (none, c)) ∧
  (∀ (c : Chip) (pc arg : W64), (∀ n < 1024, (ctxOf c n).st ≠ .free) ∨ pcFault pc ≠ none → spawnCtx none pc arg c = (none, c)) ∧
  (∀ (c : Chip) (n : Nat) (pc arg : W64), n < 1024 → (ctxOf c n).st = .free → (∀ k < n, (ctxOf c k).st ≠ .free) → pcFault pc = none →
    spawnCtx none pc arg c = (some n, startCtx n pc arg c)) ∧
  (∀ (c : Chip) (n : Nat) (pc arg : W64),
    let x := ctxOf (startCtx n pc arg c) n
    x.st = .ready ∧ x.pc = pc ∧ x.reg 1 = arg ∧ (∀ r, r ≠ 1 → x.reg r = 0#64) ∧ (∀ p, p ≠ 0 → x.pred p = false) ∧
      x.sums = [] ∧ ∀ i, SMap.get 0#64 x.staging i = 0#64)

/-- PGRD and PGWR (R124): a register of a local page, read or written with the effects of the access; a page past the last, or
an offset that is misaligned or past a page, faults. That the access is made as the instruction issues is the model's reading
(log 7); what an access may be is R18 and R19. -/
def Obligations.PageInstructions : Prop :=
  ∀ o : SeqOp, let off (x : Ctx) : Nat := (BitVec.ofNat 64 (opOff16 o) + x.reg (opRa o)).toNat
  let ok (x : Ctx) : Prop := opPage o < 20 ∧ off x % 8 = 0 ∧ off x < 0x10000
  (∀ s f, formOf (.pgrd o) = some (o, f) → Issues o f s.chip → let x := ctxOf (issued o.ctx s.chip) o.ctx
    (ok x → Answers (.pgrd o) s (
      let r := pageRead (opPage o) (off x) (issued o.ctx s.chip)
      pushAcc o.ctx ((newAcc .load (opRd o) 3 false 0).with (.done r.1.toNat)) r.2)) ∧
    (¬ ok x → Answers (.pgrd o) s (faultHere o.ctx .addrUnmapped (issued o.ctx s.chip)))) ∧
  (∀ s f, formOf (.pgwr o) = some (o, f) → Issues o f s.chip → let x := ctxOf (issued o.ctx s.chip) o.ctx
    (ok x → Answers (.pgwr o) s (pageWrite o.ctx (opPage o) (off x) (x.reg (opRb o))
      (pushAcc o.ctx ((newAcc .store 0 3 false 0).with (.done 0)) (issued o.ctx s.chip)))) ∧
    (¬ ok x → Answers (.pgwr o) s (faultHere o.ctx .addrUnmapped (issued o.ctx s.chip))))

/-! ## Contexts -/

/-- What reaches a context that waits for an access (R99, R104, R117): data for rd, an acknowledgement, or a fault: that of a
load at its own PC, that of a store late. Acknowledgements of stores and atomics (R104, R117). An instruction line arrives for a
context that waits for it (R100): from LMEM as stored there, and every context that waits for the line goes on; an uncorrectable
word faults the context instead. Waits that end from outside the context: IFLUSH once every line is invalid, a SLEEPT deadline,
and the watchdog, which faults the context at its instruction unless what it waits for has come by then (R123, R183). Which
release still comes in time for a watchdog is the model's reading (log 108). -/
def Obligations.WaitsEnd : Prop :=
  (∀ (s : State) (n tag : Nat) (a : Acc), isUp s.chip = true → (ctxOf s.chip n).ending = false →
  ((ctxOf s.chip n).accs.find? (fun b => b.tag == tag && b.loading)) = some a →
    (∀ v, a.res = .done v → Answers (.loadReturn n tag) s
      (updCtx n (fun x => x.setReg a.rd (a.value v)) (updAcc n tag (fun b => { b with returned := true }) s.chip))) ∧
    (∀ code, a.res = .failed code → (ctxOf s.chip n).faultable = true → Answers (.loadReturn n tag) s
      (faultCtx n code false (updCtx n (fun x => { x with pc := a.pc })
        (updAcc n tag (fun b => { b with returned := true, acked := true }) s.chip))))) ∧
  (∀ (s : State) (n tag : Nat) (a : Acc), isUp s.chip = true →
  ((ctxOf s.chip n).accs.find? (fun b => b.tag == tag && b.storing)) = some a →
    (∀ v, a.res = .done v → Answers (.storeAck n tag) s (updAcc n tag (fun b => { b with acked := true }) s.chip)) ∧
    (∀ code, a.res = .failed code → a.kind = .store → (ctxOf s.chip n).faultable = true → Answers (.storeAck n tag) s
      (faultCtx n code true (updAcc n tag (fun b => { b with acked := true }) s.chip)))) ∧
  (∀ (s : State) (n line off : Nat), isAwake s.chip = true → (ctxOf s.chip n).st = .waiting → (ctxOf s.chip n).wait = .fetch line →
    lineLocal s.chip line = some off →
    Answers (.fetchFill n) s (
      let r := eccRead 2 (rangeFrom off 64) s.chip
      if r.1 then faultHere n .eccUncorr r.2 else fillLine line (lmemBytes r.2 off 64) r.2)) ∧
  (∀ n : Nat,
  Acts (.iflushDone n) (fun c => waitsNow (ctxOf c n) = true ∧ (ctxOf c n).wait = .flush)
    (fun c => wakePast n { c with seq.icache := [], seq.icacheKept := [] }) ∧
  Acts (.sleeptDeadline n) (fun c => waitsNow (ctxOf c n) = true ∧ ∃ t, (ctxOf c n).wait = .time t ∧ t ≤ now c)
    (wakePast n) ∧
  Acts (.waitTimeout n) (fun c => waitExpired c n = true ∧ (ctxOf c n).due c = false) (faultHere n .waitTimeout) ∧
  Acts (.waitTimeout n) (fun c => waitExpired c n = true ∧ (ctxOf c n).due c = true) (fun c => updCtx n (releaseCtx c) c) ∧
  Acts (.waitTimeout n) (fun c => waitExpired c n = false) id)

/-- The commands of SEQ_CTX_CTRL (R97, Table 4.2), each with what it does in the states where it is valid and where it is not.
The model's readings here: a STOP waits for atomics too (log 13), a kept wait and the PC set under it (log 14), PC 0 and the
kept argument of a freed context (log 15), and a KILL that ends a STOP (log 61). Registers of the SEQ page (Tables 4.20, 4.22
and 4.24, R515). What IDX 33 shows of waits that are not on a counter is the model's choice (log 109). -/
def Obligations.ContextControl : Prop :=
  (let at_ (p : Ctx → Prop) (c : Chip) : Prop := c.seq.ctxSel < 1024 ∧ p (ctxOf c c.seq.ctxSel)
  Acts .ctxStart (at_ fun x => x.st = .free ∧ pcFault x.pc = none)
    (fun c => startCtx c.seq.ctxSel (ctxOf c c.seq.ctxSel).pc (ctxOf c c.seq.ctxSel).startArg c) ∧
  Acts .ctxStart (at_ fun x => x.st ≠ .free ∨ pcFault x.pc ≠ none) id ∧
  Acts .ctxStop (at_ fun x => (x.st = .ready ∨ x.st = .waiting) ∧ x.ending = false ∧ x.accs.any Acc.loading = false)
    (fun c => updCtx c.seq.ctxSel (fun x => { x with
      stopping := false, quiesceStop := false, st := .stopped, waitedBefore := waitedNs c { x with stopping := true, quiesceStop := false } }) c) ∧
  Acts .ctxStop (at_ fun x => (x.st = .ready ∨ x.st = .waiting) ∧ x.ending = false ∧ x.accs.any Acc.loading = true)
    (fun c => updCtx c.seq.ctxSel (fun x => { x with stopping := true, quiesceStop := false }) c) ∧
  Acts .ctxStop (at_ fun x => x.st = .free ∨ x.st = .stopped ∨ x.st = .faulted) id ∧
  Acts .ctxResume (at_ fun x => x.st = .stopped ∨ x.st = .faulted)
    (fun c => updCtx c.seq.ctxSel (fun x => { x with
      st := if x.wait = .none then .ready else .waiting
      waitFrom := now c, fault := 0, late := false, quiesceStop := false }) c) ∧
  Acts .ctxResume (at_ fun x => x.st = .free ∨ x.st = .ready ∨ x.st = .waiting) id ∧
  Acts .ctxKill (at_ fun x => x.st = .free) id ∧
  Acts .ctxKill (at_ fun x => x.st ≠ .free ∧ x.accs = []) (fun c => freeCtx c.seq.ctxSel c) ∧
  Acts .ctxKill (at_ fun x => x.st ≠ .free ∧ x.accs ≠ [])
    (fun c => updCtx c.seq.ctxSel (fun x => { x with
      ending := true, stopping := false, st := .waiting, wait := .memory .all, fault := 0, late := false }) c)) ∧
  (let at_ (p : Ctx → Prop) (c : Chip) : Prop := c.seq.ctxSel < 1024 ∧ p (ctxOf c c.seq.ctxSel)
  (∀ v : W64,
    Acts (.ctxPcWrite v) (at_ fun x => x.st = .free ∨ x.st = .stopped ∨ x.st = .faulted)
      (fun c => updCtx c.seq.ctxSel (fun x => { x with pc := v, moved := decide (x.wait ≠ .none) }) c) ∧
    Acts (.ctxPcWrite v) (at_ fun x => x.st = .ready ∨ x.st = .waiting) id ∧
    Acts (.ctxRegdataWrite v) (at_ fun x => x.st = .free) (fun c => updCtx c.seq.ctxSel (fun x => { x with startArg := v }) c) ∧
    Acts (.ctxRegdataWrite v) (fun c => at_ (fun x => x.st = .stopped ∨ x.st = .faulted) c ∧ c.seq.regIdx < 32)
      (fun c => updCtx c.seq.ctxSel (fun x => x.setReg c.seq.regIdx v) c) ∧
    Acts (.ctxRegdataWrite v) (fun c => at_ (fun x => x.st = .stopped ∨ x.st = .faulted) c ∧ c.seq.regIdx = 32)
      (fun c => updCtx c.seq.ctxSel (fun x => { x with preds := v.setWidth 8 &&& 0xFE#8 }) c) ∧
    Acts (.ctxRegdataWrite v) (at_ fun x => x.st = .ready ∨ x.st = .waiting) id) ∧
  Does .icacheFlush (fun c => { c with seq.icache := [], seq.icacheKept := [] }) ∧
  Does .spawnFailClear (fun c => { c with seq.spawnFail := 0 }))

/-- R94: what the release of the sequencer leaves, at the end of a cold or warm start: context 0 is READY at SEQ_BOOT_PC, every
other context is FREE, and every register, predicate, staging word and FIFO is empty. -/
def Obligations.ReleasedContexts : Prop :=
  ∀ c : Chip, let d := startGoes c
    isUp d = true ∧
    (ctxOf d 0).st = .ready ∧ (ctxOf d 0).pc = c.seq.bootPc ∧
    (∀ n, n ≠ 0 → (ctxOf d n).st = .free) ∧
    ∀ n, let x := ctxOf d n
      (∀ r, x.reg r = 0#64) ∧ (∀ p, p ≠ 0 → x.pred p = false) ∧ (∀ i, SMap.get 0#64 x.staging i = 0#64) ∧ x.sums = []

/-! ## Rings -/

/-- A descriptor's way through its ring (R138, R139, R142, R143, R145): fetch, issue, completion; NOP and SPAWN. That the ring
last taken is kept once for both priorities of a class is the model's choice (log 85). -/
def Obligations.DescriptorSteps : Prop :=
  (∀ n : Nat, n < 32768 → Acts (.descriptorFetch n) (fun c => (ringOf c n).en = true ∧ (ringOf c n).halted = false ∧
      (pageOf c pRING).qreq = false ∧ (ringOf c n).descs.find? (fun d => decide (d.phase = .refetch)) = none)
    (fun c => fetchAt n (ringOf c n).nextFetch (sub32 (ringOf c n).tail (ringOf c n).nextFetch)
      (fun e => updRing n fun r => { r with descs := r.descs ++ [e] }) c)) ∧
  (∀ (n : Nat) (d : Desc), n < 32768 → Acts (.descriptorFetch n) (fun c => (ringOf c n).en = true ∧ (ringOf c n).halted = false ∧
      (pageOf c pRING).qreq = false ∧ (ringOf c n).descs.find? (fun d => decide (d.phase = .refetch)) = some d)
    (fun c => fetchAt n d.idx (sub32 (ringOf c n).tail d.idx) (fun e => updRing n fun r => r.refetched d e) c)) ∧
  (∀ (n : Nat) (d : Desc), Acts (.descriptorIssue n) (fun c =>
      (ringOf c n).descs.find? (fun d => decide (d.phase = .checked)) = none ∧ readyToIssue c n = some d ∧
      ringTaken c (ringOf c n).cls = some n ∧ pageStopped c (classPage (ringOf c n).cls) = false)
    (fun c => startInTurn n (issueDesc (classTable (ringOf c n).cls) (classReads (ringOf c n).cls) (ringOf c n).cls n d
      { c with ring.lastTaken := SMap.set 0 c.ring.lastTaken (ringOf c n).cls (n + 1) }))) ∧
  (∀ (n : Nat) (d : Desc), Acts (.descriptorIssue n) (fun c =>
      (ringOf c n).descs.find? (fun d => decide (d.phase = .checked)) = some d ∧ inTurn c (ringOf c n).cls n = true)
    (retryDesc n d.idx)) ∧
  (∀ (n : Nat) (d : Desc), Acts (.descriptorIssue n) (fun c =>
      (ringOf c n).descs.find? (fun d => decide (d.phase = .checked)) = some d ∧ inTurn c (ringOf c n).cls n = false) id) ∧
  (∀ (q : DescRef) (d : Desc), Acts (.descriptorComplete q) (fun c => descOf c q = some d ∧ canComplete c q.ring d = true)
    (fun c =>
      let c := completeDesc q.ring { d with taps := [] } (reportTaps d c)
      if c.wvm.hold = some (q.ring, q.idx) then { c with wvm.hold := none } else c)) ∧
  (∀ (q : DescRef) (d : Desc), Acts (.nop q) (fun c => descOf c q = some d ∧ d.opc = 0) (finishWork q)) ∧
  (∀ q : DescRef, Works (.seqInternalSpawn q) q 15 1 (fun _ _ => True) (fun d c =>
    match spawnCtx (if d.bytes 32 2 = 0xFFFF then none else some (d.bytes 32 2)) (d.word 2) (d.word 3) c with
    | (some _, c) => finishWork q c
    | (none, c) => finishWork q { c with seq.spawnFail := satAdd 32 c.seq.spawnFail 1 }))

/-- R135: a doorbell moves the tail of an enabled HOSTFED ring into free slots, and any other sets DBERR. A halted ring goes on
(R148): RESUME reads the descriptor again, SKIP and SKIP_SIGNAL retire it in its turn, and all do nothing on a ring that is not
halted. Notices are read in order (R155). The model's readings: a retirement by SKIP is silent, and SKIP_SIGNAL of a descriptor
that never translated translates then (log 63), and how much of a descriptor whose slots could not be read is known (log 84). -/
def Obligations.RingControl : Prop :=
  (∀ v : W64, let n := v.toNat % 2 ^ 15; let t := v.toNat / 2 ^ 32 % 2 ^ 32
  let ok (c : Chip) : Prop := (ringOf c n).en = true ∧ (ringOf c n).hostfed = true ∧
    0 < sub32 t (ringOf c n).tail ∧ sub32 t (ringOf c n).tail ≤ 2 ^ (ringOf c n).log2 - sub32 (ringOf c n).tail (ringOf c n).head
  Acts (.doorbell v) ok (updRing n fun r => { r with tail := t }) ∧
  Acts (.doorbell v) (fun c => ¬ ok c) (updRing n fun r => { r with dbErr := true })) ∧
  ((∀ (n : Nat) (d : Desc), n < 32768 →
    let at_ (p : Prop) (c : Chip) : Prop := (ringOf c n).halted = true ∧ (ringOf c n).find (ringOf c n).fidx = some d ∧ p
    let retire (k : Nat) (p : Option Nat) (c : Chip) : Chip := retireFront n k
      (updRing n (fun r => { ({ r with halted := false, fault := 0 }.put { d with phase := .completed, silent := true, sigP := p }) with
        rbuf := [], era := r.era + 1 }) c)
    let all (p : Option Nat) (c : Chip) : Chip := retire (ringOf c n).descs.length p c
    Acts (.ringResume n) (at_ True) (fun c => (if (ringOf c n).en then ringFetch n else id)
      (updRing n (fun r => { r with halted := false, fault := 0, rbuf := [], era := r.era + 1, descs := r.descs.map fun e =>
        if e.idx = r.fidx then { Desc.fetched e.idx e.slots [] with phase := .refetch } else e }) c)) ∧
    Acts (.ringSkip n) (at_ True) (all none) ∧
    Acts (.ringSkipSignal n) (at_ (d.words = [])) (all none) ∧
    (∀ p, Acts (.ringSkipSignal n) (at_ (d.words ≠ [] ∧ d.sigP = some p)) (all (some p))) ∧
    Acts (.ringSkipSignal n) (at_ (d.words ≠ [] ∧ d.sigP = none))
      (fun c => retire (ringOf c n).descs.length ((descCtr n d.idx d.sigCtr c).1.getD none) (descCtr n d.idx d.sigCtr c).2)) ∧
  (∀ n : Nat, n < 32768 → let still (c : Chip) : Prop := (ringOf c n).halted = false
    Acts (.ringResume n) still id ∧ Acts (.ringSkip n) still id ∧ Acts (.ringSkipSignal n) still id) ∧
  (∀ (p : Nat × Nat) (rest : List (Nat × Nat)),
    Acts .doneQRead (fun c => c.ring.doneQ = p :: rest) (fun c => { c with ring.doneQ := rest, ring.doneOvf := false })) ∧
  Acts .doneQRead (fun c => c.ring.doneQ = []) (fun c => { c with ring.doneOvf := false }))

/-- Configuring a ring (R127, R128, R156, Tables 5.9 and 5.10): the fields but EN are fixed while it is in use, EN is refused
for a ring that cannot be bound, and RING_BASE is a multiple of 64. -/
def Obligations.RingConfiguration : Prop :=
  (∀ v : W64,
    let w (r : Ring) : Ring := { r with
      hostfed := v.getLsbD 1, prio := v.getLsbD 2, cls := v.toNat / 2 ^ 4 % 2 ^ 4, log2 := v.toNat / 2 ^ 8 % 2 ^ 5 }
    let fields (r : Ring) : Ring :=
      if r.en = true ∨ r.head ≠ r.tail then { r with cfgErr := r.cfgErr || decide (w r ≠ r) } else w r
    let on (p : Chip → Ring → Prop) (c : Chip) : Prop := c.ring.sel < 32768 ∧ p c (ringOf c c.ring.sel)
    let go (f : Ring → Ring) (c : Chip) : Chip := updRing c.ring.sel f c
    Acts (.ringCfgWrite v) (on fun c r => v.getLsbD 0 = true ∧ r.en = false ∧ Ring.bindable c (fields r) = true)
      (go fun r => { fields r with en := true, abandoned := false }) ∧
    Acts (.ringCfgWrite v) (on fun c r => v.getLsbD 0 = true ∧ r.en = false ∧ Ring.bindable c (fields r) = false)
      (go fun r => { fields r with cfgErr := true }) ∧
    Acts (.ringCfgWrite v) (on fun _ r => v.getLsbD 0 = false ∨ r.en = true) (go fun r => { fields r with en := v.getLsbD 0 })) ∧
  (∀ v : W64,
    let on (p : Ring → Prop) (c : Chip) : Prop := c.ring.sel < 32768 ∧ p (ringOf c c.ring.sel)
    Acts (.ringBaseWrite v) (on fun r => r.en = false ∧ r.head = r.tail)
      (fun c => updRing c.ring.sel (fun r => { r with base := v.toNat / 64 * 64 }) c) ∧
    Acts (.ringBaseWrite v) (on fun r => (r.en = true ∨ r.head ≠ r.tail) ∧ v.toNat / 64 * 64 ≠ r.base)
      (fun c => updRing c.ring.sel (fun r => { r with cfgErr := true }) c) ∧
    Acts (.ringBaseWrite v) (on fun r => (r.en = true ∨ r.head ≠ r.tail) ∧ v.toNat / 64 * 64 = r.base) id)

/-- R157: SETIDX. That a descriptor which has passed its checks and waits for its start counts as in flight is the model's
choice (log 82). -/
def Obligations.SetIndices : Prop :=
  ∀ n v : Nat, n < 32768 → v < 2 ^ 32 →
  let ok (c : Chip) : Prop := (ringOf c n).en = false ∧ ∀ d ∈ (ringOf c n).descs, d.inFlight = false
  Acts (.setidx n v) ok (updRing n fun r => { r with
    head := v, tail := v, descs := [], rbuf := [], fault := 0, fidx := 0, halted := false, abandoned := false
    era := r.era + 1 }) ∧
  Acts (.setidx n v) (fun c => ¬ ok c) (updRing n fun r => { r with cfgErr := true })

/-! ## Counters and the bridle lines -/

/-- Counters set by registers (R160 to R163): never to a lower value; a poisoned one to any value. Virtual maps and the
translation cache (R164, R167, Table 6.9): a map that would run past LMEM is not enabled; an invalidation drops the entry, the
context's entries or all of them. What a refused write leaves in BASE, LEN and EN is the model's choice (log 111). Watches and
held signals of COMPAT (Table 6.17, R176). -/
def Obligations.SyncRegisters : Prop :=
  ((∀ v : W64, let k := v.toNat % 2 ^ 48
    Acts (.ctrValWrite v) (fun c => (ctrOf c c.sync.ctrSel).poisoned = false ∧ (ctrOf c c.sync.ctrSel).value ≤ k)
      (fun c => watchCross c.sync.ctrSel (ctrOf c c.sync.ctrSel).value k (setCtr c.sync.ctrSel ⟨k, false⟩ c)) ∧
    Acts (.ctrValWrite v) (fun c => (ctrOf c c.sync.ctrSel).poisoned = false ∧ k < (ctrOf c c.sync.ctrSel).value)
      (fun c => pageFault pSYNC .ctrMisuse
        { c with sync.misCtr := if c.sync.misV then c.sync.misCtr else c.sync.ctrSel, sync.misV := true }) ∧
    Acts (.ctrValWrite v) (fun c => (ctrOf c c.sync.ctrSel).poisoned = true)
      (fun c => watchCross c.sync.ctrSel 0 k (setCtr c.sync.ctrSel ⟨k, false⟩ c)) ∧
    Does (.ctrAddWrite v) (fun c => addCounter c.sync.ctrSel (v.toNat % 2 ^ 16) c)) ∧
  (∀ n : Nat, n < 65536 → Acts (.counterEcc n) (fun _ => True) (fun c => pageFault pSYNC .eccUncorr
    { setCtr n ⟨0, true⟩ c with sync.eccCtr := if c.sync.eccV then c.sync.eccCtr else n, sync.eccV := true })) ∧
  (∀ (c : Chip) (p t : Nat), (ctrOf c p).poisoned = true →
    reached c p t = false ∧ ctrRead c p = 0xFFFFFFFFFFFF ∧ ∀ inc, addCounter p inc c = c)) ∧
  ((∀ v : W64, let base := v.toNat / 2 ^ 6 % 2 ^ 38 * 64; let len := v.toNat / 2 ^ 44 % 2 ^ 16
    let ok := decide (base + 4 * len ≤ Config.lmemBytes)
    Acts (.vmapWrite v) (fun c => c.sync.ctxSel < 1024) (fun c => { c with
      sync.maps := SMap.upd .reset c.sync.maps c.sync.ctxSel fun m =>
        { m with base := base, len := len, en := v.getLsbD 0 && ok, cfgErr := if v.getLsbD 0 then !ok else m.cfgErr } }) ∧
    Acts (.vmapWrite v) (fun c => 1024 ≤ c.sync.ctxSel) id) ∧
  (∀ x v : Nat, x < 1024 → v < 65536 →
    Does (.vmapInvEntry x v) (fun c => { c with sync.tcache := c.sync.tcache.filter fun e => e.1 != x * 65536 + v }) ∧
    Does (.vmapInvCtx x) (fun c => { c with sync.tcache := c.sync.tcache.filter fun e => e.1 / 65536 != x })) ∧
  Does .vmapInvGlobal (fun c => { c with sync.tcache := [] }) ∧
  Does .rsigStatClear (fun c => { c with sync.stale := 0, sync.nojob := 0, sync.refused := 0 })) ∧
  ((∀ (w : Nat) (v : W64), w < 8 → let t := v.toNat % 2 ^ 48; let n := v.toNat / 2 ^ 48 % 2 ^ 16
    Does (.watchWrite w v) (fun c => setWatch w { watchOf c w with
      thresh := t, ctr := n, hit := (watchOf c w).hit || ((watchOf c w).armed && reached c n t) } c)) ∧
  (∀ v : W64, Does (.watchCtlWrite v) (fun c => (List.range 8).foldl (fun c w =>
    let x := watchOf c w
    setWatch w { x with
      armed := v.getLsbD w
      hit := (x.hit && !v.getLsbD (8 + w)) || (v.getLsbD w && !x.armed && reached c x.ctr x.thresh) } c) c)) ∧
  (∀ (k : Nat) (x : InSig), Runs (.compatSignalApply k) (fun c => c.sync.compatHeld[k]? = some x ∧ x.tRaise + 1000 ≤ now c)
    (fun c => addCounter x.target x.inc { c with sync.compatHeld := c.sync.compatHeld.eraseIdx k })) ∧
  (∀ (k : Nat) (x : InSig), Runs (.compatSignalApply k) (fun c => c.sync.compatHeld[k]? = some x ∧ now c < x.tRaise + 1000) id))

/-- R160: an increment that fits is added, and an increment of 0 changes nothing. -/
def Obligations.SignalsAdd : Prop :=
  ∀ (c : Chip) (p inc : Nat),
  addCounter p 0 c = c ∧
  ((ctrOf c p).poisoned = false → 0 < inc → (ctrOf c p).value + inc ≤ 0xFFFFFFFFFFFF →
    ctrOf (addCounter p inc c) p = ⟨(ctrOf c p).value + inc, false⟩ ∧ (addCounter p inc c).pages = c.pages) ∧
  (∀ n, n ≠ p → ctrOf (addCounter p inc c) n = ctrOf c n) ∧
  (addCounter p inc c).seq = c.seq ∧ (addCounter p inc c).ring = c.ring ∧ (addCounter p inc c).lmem = c.lmem

/-- R161: a counter that would pass its largest value takes it and stays there; CTR_SAT is recorded each time and the first such
counter kept; no context and no ring is faulted. -/
def Obligations.CountersSaturate : Prop :=
  ∀ (c : Chip) (p inc : Nat), (ctrOf c p).poisoned = false → 0 < inc → 0xFFFFFFFFFFFF < (ctrOf c p).value + inc →
    ctrOf (addCounter p inc c) p = ⟨0xFFFFFFFFFFFF, false⟩ ∧
    (pageOf (addCounter p inc c) pSYNC).fault.getLsbD 8 = true ∧
    (addCounter p inc c).sync.satV = true ∧
    (addCounter p inc c).sync.satCtr = (if c.sync.satV then c.sync.satCtr else p) ∧
    (addCounter p inc c).seq = c.seq ∧ (addCounter p inc c).ring = c.ring

/-- The bridle lines (R177, R180): a rise of the input completes an ARRIVED line's generation, its hold and its release return
it to IDLE, from which arrivals already counted may take it at once; setting EN starts a line afresh and clearing it disables
the line. Arrivals on a bridle line (R178, R180): the k-th since the line was enabled belongs to generation ceil(k /
LOCAL_COUNT); one on a disabled line counts nothing and sets STRAY. -/
def Obligations.BridleLines : Prop :=
  ((∀ l : Nat, l < 8 →
    Links (.barInRise l) (fun _ => True) (updBar l fun x =>
      if x.st = .arrived then { x with input := true, gen := x.gen + 1, st := .hold, held := 0 } else { x with input := true }) ∧
    Links (.barHoldExpire l) (fun _ => True) (updBar l fun x =>
      if x.st = .hold ∧ max 2 x.hold ≤ x.held then { x with st := .release, held := 0 } else x) ∧
    Links (.barInLow l) (fun _ => True) (updBar l fun x =>
      if x.st = .release then
        (if (x.gen + 1) * x.count ≤ x.arrivals then { x with input := false, st := .arrived } else { x with input := false, st := .idle })
      else { x with input := false })) ∧
  (∀ v : W64, Acts (.barEnable v) (fun c => (barOf c c.sync.barSel).en = false) (fun c =>
      let l := c.sync.barSel
      let x : Line := { barOf c l with
        localCount := v.toNat / 2 ^ 8 % 2 ^ 8, hold := v.toNat / 2 ^ 16 % 2 ^ 8, en := true, st := .idle, arrivals := 0, gen := 0 }
      let c := updBar l (fun _ => x) c
      { c with seq.ctxs := SMap.mapVal .idle (fun _ y => { y with barTarget := SMap.erase y.barTarget l }) c.seq.ctxs }) ∧
    Acts (.barEnable v) (fun c => (barOf c c.sync.barSel).en = true) (fun c => updBar c.sync.barSel id c) ∧
    Acts (.barDisable v) (fun c => (barOf c c.sync.barSel).en = true)
      (fun c => updBar c.sync.barSel (fun x => { x with en := false, st := .disabled }) c))) ∧
  (∀ (c : Chip) (n l : Nat),
    ((barOf c l).st ≠ .disabled →
      (barOf (barArrive n l c) l).arrivals = (barOf c l).arrivals + 1 ∧
      SMap.get none (ctxOf (barArrive n l c) n).barTarget l = some (ceilDiv ((barOf c l).arrivals + 1) (barOf c l).count % 2 ^ 32)) ∧
    ((barOf c l).st = .disabled →
      (barOf (barArrive n l c) l).arrivals = (barOf c l).arrivals ∧ (barOf (barArrive n l c) l).stray = true ∧
      SMap.get none (ctxOf (barArrive n l c) n).barTarget l = none))

/-! ## Local memory -/

/-- A write of LMEM without errors (R102, R188): the bytes written read back, every other byte reads as before, and the
canonical form of the memory is kept. R193: a write of a whole poisoned word replaces it and clears the poison; a partial one
writes nothing to it. -/
def Obligations.LmemWrites : Prop :=
  (∀ (c : Chip) (off : Nat) (bs : List Byte), partialBad [] (cellsAt off bs) c = [] →
    (Memory.wf c.lmem.mem = true → Memory.wf (lmemWrite off bs c).lmem.mem = true) ∧
    (∀ k (h : k < bs.length), Mem.get (lmemWrite off bs c).lmem.mem (off + k) = bs[k]) ∧
    (∀ a, a < off ∨ off + bs.length ≤ a → Mem.get (lmemWrite off bs c).lmem.mem a = Mem.get c.lmem.mem a)) ∧
  (∀ (c : Chip) (w : Nat), SMap.get WordErr.ok c.lmem.ecc w = .poison → c.lmem.injArm = false →
    (∀ bs : List Byte, bs.length = 8 →
      SMap.get WordErr.ok (lmemWrite (8 * w) bs c).lmem.ecc w = .ok ∧
      ∀ k (h : k < bs.length), Mem.get (lmemWrite (8 * w) bs c).lmem.mem (8 * w + k) = bs[k]) ∧
    (∀ (k : Nat) (bs : List Byte), bs ≠ [] → k + bs.length ≤ 8 → bs.length < 8 →
      SMap.get WordErr.ok (lmemWrite (8 * w + k) bs c).lmem.ecc w = .poison ∧
      (lmemWrite (8 * w + k) bs c).lmem.mem = c.lmem.mem))

/-- R201: LMEM_ARB takes effect at the next frame boundary, and a write whose shares sum to more than 16 or whose ranks are not
the numbers 0 to 5, each used once, is ignored and sets CFGERR. That a later write replaces one which still waits is the model's
choice (log 112). -/
def Obligations.ArbitrationShares : Prop :=
  (∀ v : W64, let share (k : Nat) : Nat := v.toNat / 2 ^ (4 * k) % 2 ^ 4; let rank (k : Nat) : Nat := v.toNat / 2 ^ (24 + 3 * k) % 2 ^ 3
    let ok : Prop := share 0 + share 1 + share 2 + share 3 + share 4 + share 5 ≤ 16 ∧ ∀ r < 6, ∃ k < 6, rank k = r
    (ok → Acts (.lmemArbWrite v) (fun _ => True) (fun c => { c with
      lmem.arbErr := c.lmem.arbErr && !v.getLsbD 63, lmem.arbPending := some (v &&& 0x3FFFFFFFFFF#64) })) ∧
    (¬ ok → Acts (.lmemArbWrite v) (fun _ => True) (fun c => { c with lmem.arbErr := true }))) ∧
  (∀ v : W64, Acts .lmemArbApply (fun c => c.lmem.arbPending = some v) (fun c => { c with lmem.arb := v, lmem.arbPending := none }))

/-- Scrubbing, write-back, error counts and injection (R191, R192, R194, R202). That neither a write-back nor a scrub is the
write which an armed injection strikes (log 19), and that a finished bank waits for the end of the pass (log 113), are the
model's choices. -/
def Obligations.LmemRows : Prop :=
  (∀ b : Nat, b < 256 → Acts (.scrubRead b) (fun c => c.lmem.scrubEn = true ∧ (bankOf c b).scrubDone = false) (fun c =>
    let last := decide (12288 ≤ (bankOf c b).scrubRow + 1)
    scrubPass (updBank b (fun k => { k with scrubRow := if last then 0 else k.scrubRow + 1, scrubDone := last })
      ((rangeFrom (8 * bankLine b (bankOf c b).scrubRow) 8).foldl (fun c w => scrubWord w c) c)))) ∧
  (∀ w : Nat, Acts (.eccWriteback w) (fun c => c.lmem.wbQueue.contains w = true ∧ SMap.get WordErr.ok c.lmem.ecc w = .single)
    (fun c => { c with lmem.wbQueue := c.lmem.wbQueue.filter fun x => x != w, lmem.ecc := SMap.set .ok c.lmem.ecc w .ok })) ∧
  (∀ w : Nat, Acts (.eccWriteback w) (fun c => c.lmem.wbQueue.contains w = true ∧ SMap.get WordErr.ok c.lmem.ecc w ≠ .single)
    (fun c => { c with lmem.wbQueue := c.lmem.wbQueue.filter fun x => x != w })) ∧
  (∀ (c : Chip) (w : Nat),
    (SMap.get WordErr.ok c.lmem.ecc w = .single → SMap.get WordErr.ok (scrubWord w c).lmem.ecc w = .ok ∧
      (scrubWord w c).lmem.ceCount = min (c.lmem.ceCount + 1) (2 ^ 32 - 1)) ∧
    (SMap.get WordErr.ok c.lmem.ecc w = .double → SMap.get WordErr.ok (scrubWord w c).lmem.ecc w = .poison ∧
      (scrubWord w c).lmem.ueCount = min (c.lmem.ueCount + 1) (2 ^ 16 - 1)) ∧
    (SMap.get WordErr.ok c.lmem.ecc w = .ok ∨ SMap.get WordErr.ok c.lmem.ecc w = .poison → scrubWord w c = c)) ∧
  Does .eccStatClear (fun c => { c with lmem.ceCount := 0, lmem.ueCount := 0 }) ∧
  (∀ v : W64, Does (.eccInjectWrite v) (fun c => { c with
    lmem.injWord := v.toNat / 2 ^ 3 % 2 ^ 25, lmem.injBits := v.toNat / 2 ^ 32 % 2 ^ 2, lmem.injArm := v.getLsbD 63 })) ∧
  (∀ (w cls : Nat) (q : DescRef) (d : Desc), 8 * w < Config.lmemBytes →
    Acts (.lmemEccError w cls q) (fun c => descOf c q = some d ∧ d.started = true ∧ (ringOf c q.ring).cls ≠ 6)
      (fun c => abandonDesc q.ring q.idx .eccUncorr (poisonWord cls w (SMap.get WordErr.ok c.lmem.ecc w) c)) ∧
    Acts (.lmemEccError w cls q) (fun c => descOf c q = some d ∧ d.started = true ∧ (ringOf c q.ring).cls = 6)
      (fun c => failRestore q.ring q.idx .eccUncorr (poisonWord cls w (SMap.get WordErr.ok c.lmem.ecc w) c)))

/-! ## Movement -/

/-- DMA and XPB descriptors whose source bytes are at hand (R205, R206, R209, R213 to R216, R225): what each reads and what it
stores. GATHER and SCATTER, whose index elements and chosen source bytes are at hand (R213 to R215). -/
def Obligations.MovementRows : Prop :=
  (∀ q : DescRef,
  WorksOn (.copyb q) q 0 1 5 (fun _ d => (rangeFrom 0 (d.bytes 32 6)).map (byteAddr (d.bytes 16 8))) (fun d c =>
    dmaStore q ((rangeFrom 0 (d.bytes 32 6)).map fun k =>
      (byteAddr (d.bytes 24 8) k, (255, (rdByte c d (byteAddr (d.bytes 16 8) k)).toNat))) 0 d c) ∧
  WorksOn (.copy q) q 0 2 5 (fun _ d => pairNames d (copyPairs d)) (fun d c => padStore q (pairBytes c d (copyPairs d)) d c) ∧
  WorksOn (.permute q) q 0 3 5 (fun _ d => pairNames d (copyPairs d)) (fun d c => padStore q (pairBytes c d (copyPairs d)) d c) ∧
  Works (.fill q) q 0 6 (fun _ _ => True) (fun d c => padStore q (fillParts c d) d c) ∧
  WorksOn (.split64 q) q 0 7 5 (fun _ d => splitNames d)
    (fun d c => dmaStore q (gatherParts [] ((splitWrites c d).flatMap BitWrite.parts)) 0 d c) ∧
  WorksOn (.transpose q) q 8 1 5 (fun _ d => xpbNames d)
    (fun d c => writeBits 5 vcData q d (xpbWrites c d) (countXpb 1 (bufPut d.xBuf (xpbTile c d) c)))) ∧
  (∀ q : DescRef,
  let go (pairs : Chip → Desc → List (List Nat × Src)) (out : Desc → Nat) (opc : Nat) (i : Instr) : Prop :=
    Works i q 0 opc (fun c d => AtHand c 5 q ((idxNames d).map (mapAddr c d.rmap)) ∧
        AtHand (notePermRange (idxOut c d (out d)) c) 5 q ((pairNames d (pairs c d)).map (mapAddr c d.rmap)))
      (fun d c => padStore q (pairBytes (notePermRange (idxOut c d (out d)) c) d (pairs c d)) d (notePermRange (idxOut c d (out d)) c))
  go gatherPairs (fun d => (d.ten d.srcTld).t.dim d.gdim) 4 (.gather q) ∧
  go scatterPairs (fun d => (d.ten d.dstTld).t.dim d.gdim) 5 (.scatter q))

/-- What an engine stores in LMEM (R188, R206): with every address in LMEM of this core, no error there and no write of the same
descriptor outstanding on another core, no byte but a named one changes, and a named one takes its value, unless another engine
has written it since the descriptor started, when it keeps what that one wrote or takes it (R30). Contexts, counters and
requests stay, and so do the rings' indices and the phases of their descriptors. That the whole write is one command, and that
the choice in such a byte is a free value, is log 32. -/
def Obligations.EngineWritesToLmem : Prop :=
  ∀ (c : Chip) (lc vc n idx : Nat) (cells : List (Nat × Byte)), c.lmem.ecc = [] →
    (∀ p ∈ cells, hereRegion c p.1 = some .lmem) → (cells.map fun p => offOf p.1).Nodup → farWrites c n idx = false →
    ∃ d, engineWrite lc vc n idx [] cells c = (.ready, d) ∧ (Memory.wf c.lmem.mem = true → Memory.wf d.lmem.mem = true) ∧
      ((∀ e, (ringOf c n).find idx = some e → e.raced = []) → ∀ p ∈ cells, Mem.get d.lmem.mem (offOf p.1) = p.2) ∧
      (∀ p ∈ cells, Mem.get d.lmem.mem (offOf p.1) = p.2 ∨ Mem.get d.lmem.mem (offOf p.1) = Mem.get c.lmem.mem (offOf p.1)) ∧
      (∀ a, (∀ p ∈ cells, offOf p.1 ≠ a) → Mem.get d.lmem.mem a = Mem.get c.lmem.mem a) ∧
      d.seq = c.seq ∧ d.sync = c.sync ∧ d.outbox = c.outbox ∧
      ∀ k, (ringOf d k).head = (ringOf c k).head ∧ (ringOf d k).tail = (ringOf c k).tail ∧
        (ringOf d k).descs.map Desc.phase = (ringOf c k).descs.map Desc.phase

/-! ## Starts and the arithmetic engines -/

/-- DMA_STAGE (Table 8.9), and the start of a descriptor that waited for a buffer (R26, R224). Every descriptor start that can
wait (R143, R145, R236, R287, R324, R349, R374, R464): a checked descriptor tries to start in its turn among those of its class
and not before, and stays checked while a hold, its page or its ring stops it. -/
def Obligations.DescriptorStarts : Prop :=
  ((∀ v : W64, let nv := v &&& maskOf [(0, 1), (6, 22), (32, 13)]
    let bad (c : Chip) : Bool := stageBusy c || (v.getLsbD 0 && !inLmem (stageBase nv) (stageSize nv))
    Acts (.dmaStageWrite v) (fun c => bad c = false)
      (fun c => { c with dma.stageErr := c.dma.stageErr && !v.getLsbD 63, dma.stage := nv }) ∧
    Acts (.dmaStageWrite v) (fun c => bad c = true) (fun c => { c with dma.stageErr := true })) ∧
  (∀ (q : DescRef) (d : Desc) (s : State), Checked s.chip q 0 d → inTurn s.chip 0 q.ring = true →
    Answers (.bufferWaitStart q) s (dmaSecondBuf (tryStart dmaClass 0 q.ring d s.chip))) ∧
  (∀ (q : DescRef) (d : Desc) (s : State), Checked s.chip q 8 d → inTurn s.chip 8 q.ring = true →
    Answers (.bufferWaitStart q) s (dmaSecondBuf (tryStart xpbClass 8 q.ring d s.chip))) ∧
  (∀ q : DescRef, Acts (.bufferWaitStart q) (fun c => ((ringOf c q.ring).cls = 0 ∨ (ringOf c q.ring).cls = 8) ∧
    inTurn c (ringOf c q.ring).cls q.ring = false) dmaSecondBuf)) ∧
  ((∀ (q : DescRef) (d : Desc) (s : State),
    (Checked s.chip q 1 d → inTurn s.chip 1 q.ring = true → Answers (.mxaStart q) s (tryStart mxaClass 1 q.ring d s.chip)) ∧
    (Checked s.chip q 2 d → inTurn s.chip 2 q.ring = true → Answers (.mvpStart q) s (tryStart mvpClass 2 q.ring d s.chip)) ∧
    (Checked s.chip q 3 d → inTurn s.chip 3 q.ring = true → Answers (.vecStart q) s (tryStart vecClass 3 q.ring d s.chip) ∧
      Answers (.tappedRunStart q) s (tryStart vecClass 3 q.ring d s.chip)) ∧
    (∀ cls, Checked s.chip q cls d → inTurn s.chip cls q.ring = true →
      Answers (.pinWaitStart q) s (tryStart (classTable cls) cls q.ring d s.chip))) ∧
  (∀ q : DescRef, let late (c : Chip) : Prop := inTurn c (ringOf c q.ring).cls q.ring = false
    Acts (.mxaStart q) late id ∧ Acts (.mvpStart q) late id ∧ Acts (.vecStart q) late id ∧ Acts (.tappedRunStart q) late id ∧
    Acts (.pinWaitStart q) late id) ∧
  (∀ (k : EngineClass) (cls n : Nat) (d : Desc) (c : Chip),
    ((ringOf c n).halted = true ∨ (ringOf c n).en = false ∨ pageStopped c (classPage cls) = true ∨
      (c.wvm.hold ≠ none ∧ cls ≠ 7 ∧ cls ≠ 15)) → tryStart k cls n d c = c))

/-- MXA and MVP (R231, R236, R239, R249, R253, R285): streams whose operands are at hand, the change of weight sets, and FORCE7,
which waits until no MXA descriptor runs. That a stream is one command is the model's reading (log 24). -/
def Obligations.MatrixRows : Prop :=
  (∀ q : DescRef,
    let ready (c : Chip) (d : Desc) : Prop := mayStream c d = true ∧
      AtHand c 0 q ((streamNames d).map (mapAddr c d.rmap)) ∧ AtHand c 1 q ((drainNames d).map (mapAddr c d.rmap))
    let stream (i : Instr) (opc : Nat) : Prop :=
      Works i q 1 opc (fun c d => ready c d ∧ denseArrays c d = []) (streamWork q) ∧
      Works i q 1 opc (fun c d => ready c d ∧ denseArrays c d ≠ [])
        (fun d c => (denseArrays c d).foldl (fun c n => addRequest (13 + n) c) c) ∧
      Works i q 1 opc (fun c d => d.sampled = true ∧ mayStream c d = false) (fun _ c => c) ∧
      Works i q 1 opc (fun _ d => d.sampled = false) (fun _ => mxaSample q.ring q.idx)
    stream (.stream q) 1 ∧ stream (.taps q) 2 ∧
    Works (.product q) q 2 1 (fun c d => AtHand c 3 q ((mvpNames d).map (mapAddr c d.rmap)) ∧
      AtHand c 3 q ((mvpOldNames d).map (mapAddr c d.wmap))) (mvpWork q)) ∧
  (∀ (a n : Nat) (d : Desc) (rest : List (Nat × Desc)), Acts (.arrayFlip a) (fun c => onArray c a 1 = (n, d) :: rest ∧
      d.sampled = true ∧ d.keepW = false ∧ mayEnter c d = true ∧ d.mMode ≠ mSPLIT3)
    (fun c => d.arrays.foldl (fun c b => updArr b (fun s => { s with act := s.shd, shd := s.act }) (noteWeights b c))
      (putDesc n (d.arrays.foldl (fun d b => d.setStage b 2) d) c)) ∧
    Acts (.arrayFlip a) (fun c => onArray c a 1 = (n, d) :: rest ∧ d.sampled = true ∧ d.keepW = false ∧ mayEnter c d = true ∧
        d.mMode = mSPLIT3 ∧ descOf c ⟨n, d.idx⟩ = some d ∧
        AtHand c 0 ⟨n, d.idx⟩ ((d.arrays.flatMap (wNames d)).map (mapAddr c d.rmap)))
      (fun c => markLoad n d.idx (d.arrays.foldl (fun c b => loadSplit d b c)
        (putDesc n (d.arrays.foldl (fun d b => d.setStage b 2) d) c))) ∧
    Acts (.arrayFlip a) (fun c => onArray c a 1 = (n, d) :: rest ∧ d.sampled = false) (mxaSample n d.idx) ∧
    Acts (.arrayFlip a) (fun c => onArray c a 1 = (n, d) :: rest ∧ d.sampled = true ∧
      (d.keepW = true ∨ ∃ b ∈ d.arrays, onArray c b 2 ≠ [])) id) ∧
  (∀ v : W64, Does (.force7Write v) (fun c => { c with mxa.zgEn := v.getLsbD 0, mxa.force7 := v.getLsbD 1, mxa.f7Wait := true })) ∧
  Acts .force7Apply (fun c => c.mxa.f7Wait = true ∧ classDescs c 1 Desc.started = []) (fun c => deriveLat { c with mxa.f7Wait := false }) ∧
  Acts .force7Apply (fun c => c.mxa.f7Wait = true ∧ classDescs c 1 Desc.started ≠ []) id

/-- VEC (R295, R304, R321): RUN, TREDUCE and the acceptance of forwarded rows. RDU (R347, R350, R353, R358): LREDUCE of an LMEM
window or of tapped RUNs, CREDUCE piece by piece, XREDUCE. -/
def Obligations.VectorAndReductionRows : Prop :=
  ((∀ q : DescRef,
    Works (.run q) q 3 1 (fun c d => d.sampled = true ∧ (d.vFwd.isEmpty || d.took.length == d.vRows) = true ∧
      AtHand c 4 q ((runNames d).map (mapAddr c d.rmap))) (runWork q) ∧
    Works (.run q) q 3 1 (fun _ d => d.sampled = true ∧ (d.vFwd.isEmpty || d.took.length == d.vRows) = false) (fun _ c => c) ∧
    Works (.run q) q 3 1 (fun _ d => d.sampled = false) (fun _ => vecSample q.ring q.idx) ∧
    (let out (bs : List Byte) (d : Desc) : Chip → Chip := writeOut 4 vcData q d []
       (if d.tDst = 0 then [] else ((rangeFrom 0 bs.length).zip bs).map fun p => (byteAddr d.tDst p.1, p.2))
     let sum (v : Nat) (d : Desc) (c : Chip) : Chip :=
       if d.tSum then addSums q [⟨v, d.tTag % 2 ^ 16 + 2 ^ 16 * 6 + 2 ^ 20 + 2 ^ 21 * 3⟩] { c with vec.sums := (c.vec.sums + 1) % 2 ^ 48 } else c
     Works (.treduce q) q 3 2 (fun _ d => d.tRows = false) (fun d c =>
       let e := raceIn .tile d c
       out (leBytes 8 (treduceAll e d)) d (sum (treduceAll e d) d { c with free := e.free })) ∧
     Works (.treduce q) q 3 2 (fun _ d => d.tRows = true) (fun d c =>
       let e := raceIn .tile d c
       out (((rangeFrom 0 512).map fun l => laneResult d.tOp (laneWords e d l)).flatMap (leBytes 4)) d
         (sum 0 d { c with free := e.free })))) ∧
  (∀ (ch n : Nat) (w : FwdRow) (d : Desc) (rest : List (Nat × Desc)),
    Acts (.fwdRow ch) (fun c => c.vec.fwd.find? (fun w => w.chain == ch) = some w ∧
      classDescs c 3 (fun d => decide (d.phase = .running) && d.chs == [ch] && d.opc == 1 && !d.vFwd.isEmpty && d.vFwdTag == w.tag
        && decide (d.took.length < d.vRows)) = (n, d) :: rest)
    (fun c =>
      let others := (c.vec.fwd.takeWhile fun x => x.chain != ch) ++ (c.vec.fwd.dropWhile fun x => x.chain != ch).drop 1
      countElems w.lanes.length w.array (putDesc n { d with took := d.took ++ [w.lanes] } { c with vec.fwd := others })))) ∧
  (∀ q : DescRef,
  Works (.lreduce q) q 4 1 (fun _ d => d.lSrc = 0 ∧ d.fedRuns = d.lCount)
    (fun d c => lreduceAll q d (d.fed.map fun p => (p.1, fp64.decode p.2)) c) ∧
  Works (.lreduce q) q 4 1 (fun _ d => d.lSrc = 0 ∧ d.fedRuns ≠ d.lCount) (fun _ c => c) ∧
  Works (.lreduce q) q 4 1 (fun c d => d.lSrc ≠ 0 ∧ AtHand c 4 q (((windowIdx [(d.lEl, d.lLanes), (d.lRow, d.lCount)]).flatMap fun ix =>
      elemAddrs (d.ten d.lTld).o (d.ten d.lTld).t ix).map (mapAddr c d.rmap)))
    (fun d c => if d.lAxis = 0 then lreduceAll q d ((lreduceElems c d).map fun x => (x.1 * d.lLanes + x.2.1, x.2.2)) c
      else lreduceAxis q d (lreduceElems c d) c) ∧
  (∀ (s : State) (d : Desc), Running s.chip q 4 2 d → Answers (.creduce q) s (consumePieces q (d.cPieces - d.prog) s.chip)) ∧
  (∀ (s : State) (d : Desc), Running s.chip q 4 2 d → Answers (.creducePiece q) s (consumePiece q s.chip)) ∧
  Works (.creducePiece q) q 4 2 (fun c d => d.sampled = true ∧ (pieceHere c d = false ∨ freeRoom c d = false)) (fun _ c => c) ∧
  Works (.creducePiece q) q 4 2 (fun _ d => d.sampled = false) (fun _ => rduSample q.ring q.idx) ∧
  (let e (d : Desc) : Exact := d.exact (SMap.get 0 d.samp 1).toNat (SMap.get 0 d.samp 2).toNat
   let out (d : Desc) : Chip → Chip := writeOut 4 vcData q d [] (((rangeFrom 0 (if d.xOut = 0 then [] else (e d).record).length).zip
     (if d.xOut = 0 then [] else (e d).record)).map fun p => (byteAddr d.xOut p.1, p.2))
   let sum (d : Desc) : Chip → Chip := addSums q [rduSummary d.xTag (if d.xKind = 1 then 0xE else 8) (e d).read.2 (f64Code (e d).read.1)]
   Works (.xreduce q) q 4 3 (fun _ d => d.sampled = true ∧ d.xKind = 0) out ∧
   Works (.xreduce q) q 4 3 (fun _ d => d.sampled = true ∧ d.xKind ≠ 0 ∧ (d.xKind = 1 → (e d).read.2 = true))
     (fun d c => out d (sum d c)) ∧
   Works (.xreduce q) q 4 3 (fun _ d => d.sampled = true ∧ d.xKind = 1 ∧ (e d).read.2 = false)
     (fun d c => out d (noteNonfinite (e d).src (sum d c))) ∧
   Works (.xreduce q) q 4 3 (fun _ d => d.sampled = false) (fun _ => rduSample q.ring q.idx)))

/-- SCT (R361, R365): taps report, and the registers of the selected slot with their limits. -/
def Obligations.ScaleTrackerRows : Prop :=
  (∀ (k n i g : Nat) (t : Nat × Nat × Bool), Acts (.sctTap k) (fun c => (tapsDue c)[k]? = some (n, i, t, g)) (fun c =>
    updRing n (fun r => { r with descs := r.descs.map fun d => if d.idx = i then { d with taps := d.taps.erase t } else d })
      (reportTap t.1 t.2.1 t.2.2 g c))) ∧
  (∀ v : W64,
    (slotCfgOk v = true → Does (.slotCfgWrite v) (fun c => setSlot c.sct.sel { slotOf c c.sct.sel with cfg := v &&& slotCfgMask } c)) ∧
    (slotCfgOk v = false → Does (.slotCfgWrite v) (fun c => { c with sct.cfgErr := true })) ∧
    (expOk (sext 8 (v.toNat % 2 ^ 8)) = true → Does (.slotScaleWrite v)
      (fun c => setSlot c.sct.sel { slotOf c c.sct.sel with x := v.toNat % 2 ^ 8, good := v.toNat / 2 ^ 16 % 2 ^ 16 } c)) ∧
    (expOk (sext 8 (v.toNat % 2 ^ 8)) = false → Does (.slotScaleWrite v) (fun c => { c with sct.cfgErr := true }))) ∧
  Does .clrHist (fun c => setSlot c.sct.sel { slotOf c c.sct.sel with hist := [] } c) ∧
  Does .clrPend (fun c => setSlot c.sct.sel (slotOf c c.sct.sel).clearPend c) ∧
  Does .sctStatClear (fun c => { c with sct.late := 0, sct.losstap := 0, sct.nonfin := 0 })

/-! ## Weights and snapshots -/

/-- WVM (R371, R374 to R382, R387): what each descriptor and command does to regions, handles and the hold. -/
def Obligations.WeightRows : Prop :=
  (∀ q : DescRef,
    Works (.registerRgn q) q 7 1 (fun c d => wvmOwn c d = none) (fun d c => finishWork q (setRgn d.wFirst
      { valid := true, aBase := d.wA, bBase := d.wB, len := d.wLen, kind := d.wKind, trickle := d.wTrickle, curB := false
        other := .empty, frozenA := false, frozenB := false, firstA := c.wvm.opt, firstB := 0, latSlot := none } c)) ∧
    (∀ k : Cause, Works (.registerRgn q) q 7 1 (fun c d => wvmOwn c d = some k) (fun _ c => abandonDesc q.ring q.idx k c)) ∧
    (∀ k : Cause, Works (.thaw q) q 7 8 (fun c d => wvmOwn c d = some k) (fun _ c => abandonDesc q.ring q.idx k c)) ∧
    Works (.release q) q 7 2 (fun c d => d.wRgns.all (rgnQuiet c) = true)
      (fun d c => finishWork q (dropOpens d.wRgns (d.wRgns.foldl (fun c g => setRgn g .reset c) c))) ∧
    Works (.release q) q 7 2 (fun c d => d.wRgns.all (rgnQuiet c) = false) (fun _ c => c) ∧
    (let opens (d : Desc) (c : Chip) : Chip :=
        let (as, c) := openClaim d.wFill d.arrs c
        let fresh := (as.filter fun a => a.2 == 2 && !d.arrs.contains a).map Prod.fst
        let c := fresh.foldl (fun c g => openKeep q g c) (setArrs q as c)
        let c := costMark q (c.snap.latched && as.any fun a => a.2 == 1 && (rgnOf c a.1).frozen (rgnOf c a.1).alt
          && (rgnOf c a.1).latSlot == some (rgnOf c a.1).alt) c
        let c := openFill q ((as.filter fun a => a.2 == 2).map Prod.fst) c
        match descOf c q with
        | some d => if d.phase = .running ∧ d.arrs.all (fun a => a.2 == 3) then finishWork q c else c
        | none => c
      Works (.openStep q) q 7 3 (fun _ _ => True) opens ∧ Works (.openTake q) q 7 3 (fun _ _ => True) opens) ∧
    Works (.commit q) q 7 4 (fun c _ => c.wvm.wants = none ∧ c.wvm.hold = none) (fun _ c => { c with wvm.wants := some (q.ring, q.idx) }) ∧
    Works (.skip q) q 7 5 (fun c _ => c.wvm.wants = none ∧ c.wvm.hold = none) (fun _ c => { c with wvm.wants := some (q.ring, q.idx) }) ∧
    Works (.commit q) q 7 4 (fun c _ => c.wvm.wants ≠ none ∨ c.wvm.hold ≠ none) (fun _ c => c) ∧
    Works (.skip q) q 7 5 (fun c _ => c.wvm.wants ≠ none ∨ c.wvm.hold ≠ none) (fun _ c => c) ∧
    Works (.pin q) q 7 6 (fun _ _ => True) (fun _ c => finishWork q c) ∧
    (∀ (n : Nat) (d : Desc) (c : Chip), d.opc = 6 → d.wSel = 0 → wvmOwn c d = none → wvmOnStart n d c = { c with
      wvm.handles := SMap.set .reset c.wvm.handles d.wPin ⟨d.wFirst, d.wCount, true, c.wvm.opt, pinSlots c d⟩ }) ∧
    Works (.unpin q) q 7 7 (fun _ _ => True) (fun d c => finishWork q { c with wvm.handles := SMap.erase c.wvm.handles d.wPin }) ∧
    Works (.thaw q) q 7 8 (fun c d => wvmOwn c d = none) (fun d c => finishWork q
      (d.wRgns.foldl (fun c g => updRgn g (fun r => { r with frozenA := false, frozenB := false, latSlot := none }) c) c))) ∧
  (∀ (n i : Nat) (d : Desc), Acts .wvmHold (fun c => c.wvm.wants = some (n, i) ∧ descOf c ⟨n, i⟩ = some d ∧ d.opc = 5 ∧
      anyWriter c = false ∧ (pageOf c pSCT).qreq = false ∧ c.snap.latCopy = false)
    (fun c =>
      let c := costMark ⟨n, i⟩ false c
      let c := stepChange false { c with wvm.wants := none, wvm.hold := some (n, i) }
      finishWork ⟨n, i⟩ (emit 0x0B pWVM 2#64 (pack [(0, 32, c.wvm.opt), (32, 32, c.wvm.batch)]) c))) ∧
  (∀ (n i : Nat) (d : Desc), Acts .wvmHold (fun c => c.wvm.wants = some (n, i) ∧ descOf c ⟨n, i⟩ = some d ∧ d.opc = 4 ∧
      SMap.get 0 d.samp 1 = 0 ∧ anyWriter c = false ∧ (pageOf c pSCT).qreq = false ∧ c.snap.latCopy = false)
    (fun c =>
      let c := costMark ⟨n, i⟩ false c
      let c := stepChange true { c with wvm.wants := none, wvm.hold := some (n, i) }
      let c := if d.wFreeze then stepFreeze d.wSnapGen c else c
      finishWork ⟨n, i⟩ (emit 0x0B pWVM 1#64 (pack [(0, 32, c.wvm.opt), (32, 32, c.wvm.batch)]) c))) ∧
  (∀ (n i : Nat) (d : Desc), Acts .wvmHold (fun c => c.wvm.wants = some (n, i) ∧ descOf c ⟨n, i⟩ = some d ∧ d.opc = 4 ∧
      SMap.get 0 d.samp 1 = 1 ∧ anyWriter c = false ∧ (pageOf c pSCT).qreq = false ∧ c.snap.latCopy = false)
    (fun c =>
      let c := costMark ⟨n, i⟩ false c
      let c := stepChange false { c with wvm.wants := none, wvm.hold := some (n, i) }
      let c := { c with wvm.guarded := satAdd 16 c.wvm.guarded 1 }
      finishWork ⟨n, i⟩ (emit 0x0B pWVM 3#64 (pack [(0, 32, c.wvm.opt), (32, 32, c.wvm.batch)]) c))) ∧
  (∀ (n i : Nat) (d : Desc), Acts .wvmHold (fun c => c.wvm.wants = some (n, i) ∧ descOf c ⟨n, i⟩ = some d ∧
      (anyWriter c = true ∨ (pageOf c pSCT).qreq = true))
    (fun c => costMark ⟨n, i⟩ false c)) ∧
  (∀ (n i : Nat) (d : Desc), Acts .wvmHold (fun c => c.wvm.wants = some (n, i) ∧ descOf c ⟨n, i⟩ = some d ∧
      anyWriter c = false ∧ (pageOf c pSCT).qreq = false ∧ c.snap.latCopy = true)
    (fun c => costMark ⟨n, i⟩ true c)) ∧
  Acts .wvmHold (fun c => c.wvm.wants = none) id ∧
  (∀ v : W64, Acts (.wvmStepWrite v) (fun c => classDescs c 7 Desc.started = [] ∧ ∀ p ∈ c.wvm.rgns, p.2.other ≠ .pend)
    (fun c => { c with wvm.opt := v.toNat % 2 ^ 32, wvm.batch := v.toNat / 2 ^ 32 % 2 ^ 32 }) ∧
    Acts (.wvmStepWrite v) (fun c => classDescs c 7 Desc.started ≠ [] ∨ ∃ p ∈ c.wvm.rgns, p.2.other = .pend)
      (fun c => { c with wvm.cfgErr := true }))

/-- Descriptors of SNAP (R438 to R446, R448): each from its first step, where the steps are several. What SNAP does beside its
descriptors (R436, R438, R441, R443, R447, R454). -/
def Obligations.SnapshotRows : Prop :=
  (∀ q : DescRef,
  Works (.begin q) q 6 1 (fun _ d => d.prog = 0) (fun d c => setProg q 1 (snapSend q (d.hdr d.nGen) (hdrStart c d.nGen 1
    ++ (freeBytes 28 c).1 ++ List.replicate 24 0#8 ++ List.replicate (16 * 1024) 0#8) (freeBytes 28 c).2)) ∧
  Works (.begin q) q 6 1 (fun c d => d.prog ≠ 0 ∧ allAcked c q = true)
    (fun d c => finishWork q (setGen d.nGen 1 (beginStreams { c with snap.latched := false, snap.costNs := 0 }))) ∧
  Works (.begin q) q 6 1 (fun c d => d.prog ≠ 0 ∧ allAcked c q = false) (fun _ c => c) ∧
  Works (.journal q) q 6 2 (fun _ d => d.prog = 0) (fun d c => setProg q 1 ((d.arrs.map Prod.fst).foldl
    (fun (x : List Nat × Chip) s =>
      let bs := (x.1.take (d.strBytes s)).map (BitVec.ofNat 8)
      (x.1.drop (d.strBytes s), noteDigest s bs (snapSend q (d.strBase s) bs x.2))) (d.part, c)).2) ∧
  Works (.journal q) q 6 2 (fun c d => d.prog ≠ 0 ∧ allAcked c q = false) (fun _ c => c) ∧
  (∀ t : Nat, Works (.journal q) q 6 2 (fun c d => d.prog ≠ 0 ∧ allAcked c q = true ∧ d.tStart = some t)
    (fun d c => finishWork q { journalDone q.ring d c with snap.costNs := c.snap.costNs + (now c - t) })) ∧
  Works (.trickle q) q 6 3 (fun _ _ => True)
    (fun d c => trickleEnd q (trickleSend q ((d.arrs.filter fun x => x.2 == 1).map Prod.fst) c)) ∧
  Works (.snapClose q) q 6 4 (fun c d => c.snap.tees = [] ∧ d.prog ≠ 0 ∧ allAcked c q = true) (fun d c =>
    let c := setGen d.nGen 2 (snapSend q (d.hdr d.nGen) (hdrBytes c d.nGen 2) c)
    finishWork q { c with snap.lastUs := min (c.snap.costNs / 1000) (2 ^ 32 - 1), snap.costNs := 0, snap.latched := false }) ∧
  Works (.snapClose q) q 6 4 (fun c d => c.snap.tees ≠ [] ∨ d.prog ≠ 0 ∧ allAcked c q = false) (fun _ c => c) ∧
  WorksOn (.digest q) q 6 5 5 (fun _ d => (rangeFrom 0 d.nLen).map (byteAddr d.nSrc)
      ++ (if d.nExpect = 0 then [] else (rangeFrom 0 8).map (byteAddr d.nExpect))) (fun d c =>
    let h := digestOf (((rangeFrom 0 d.nLen).map (byteAddr d.nSrc)).map (rdByte c d))
    let bs := if d.nDst = 0 then [] else leBytes 8 h
    andThen q (engineWrite 5 vcData q.ring q.idx []
        (((rangeFrom 0 bs.length).zip bs).map fun p => (mapAddr c d.wmap (byteAddr d.nDst p.1), p.2)) c) fun c =>
      if d.nExpect ≠ 0 ∧ leNat (((if d.nExpect = 0 then [] else (rangeFrom 0 8).map (byteAddr d.nExpect))).map (rdByte c d)) ≠ h then
        abandonDesc q.ring q.idx .restoreMismatch { c with snap.mismatch := true }
      else finishWork q c) ∧
  (∀ (s : State) (d : Desc), Running s.chip q 6 6 d → Answers (.restore q) s (restoreSteps q 1025
    (if d.prog % 4 = 0 then restoreHeaders q d s.chip
      else if d.prog % 4 = 1 then restoreStream q d (d.prog / 4) s.chip else restoreState q d s.chip))) ∧
  Works (.abandon q) q 6 7 (fun c d => genState c d.nGen = 1) (fun d c => finishWork q { setGen d.nGen 3
    (snapSend q (byteAddr (d.hdr d.nGen) 4) [BitVec.ofNat 8 (3 + 4 * b2n d.nGen)] c) with snap.latched := false }) ∧
  Works (.abandon q) q 6 7 (fun c d => genState c d.nGen ≠ 1) (fun _ c => finishWork q c)) ∧
  (Acts .snapLatchCopy (fun c => c.snap.latCopy = false ∨ c.wvm.hold ≠ none) id ∧
  Acts .snapLatchCopy (fun c => c.snap.latCopy = true ∧ c.wvm.hold = none) (fun c =>
    let opt := if c.wvm.snapGen then c.snap.stepB else c.snap.stepA
    let e : Chip := { snapLmem (latchAt c) (leBytes 4 opt ++ leBytes 4 c.snap.latBatch ++ leBytes 8 c.snap.batchC ++ leBytes 8 c.snap.latGen
      ++ leBytes 8 c.snap.latEpoch ++ List.replicate 32 0#8 ++ (rangeFrom 0 sctSlots).flatMap fun s => slotRecord (slotOf c s)) c with
      snap.latCopy := false }
    match e.wvm.wants with
    | some w => costMark ⟨w.1, w.2⟩ false e
    | none => e) ∧
  (∀ (k : Nat) (t : Tee),
    Runs (.teeBlockAck k)
      (fun c => c.snap.tees[k]? = some t ∧ reqsOf c (.tee t.id) = 0 ∧ t.failed = false ∧ (streamOf c t.stream).tag = t.tag) (fun c =>
        let c := setMapBit t.stream t.block { c with snap.tees := c.snap.tees.eraseIdx k }
        setStream t.stream { streamOf c t.stream with digs := SMap.insert t.digest (streamOf c t.stream).digs t.block } c) ∧
    Runs (.teeBlockAck k) (fun c => c.snap.tees[k]? = some t ∧ reqsOf c (.tee t.id) = 0 ∧ t.failed = true)
      (fun c => { c with snap.tees := c.snap.tees.eraseIdx k, snap.teefail := satAdd 16 c.snap.teefail 1 }) ∧
    Runs (.teeBlockAck k)
      (fun c => c.snap.tees[k]? = some t ∧ reqsOf c (.tee t.id) = 0 ∧ t.failed = false ∧ (streamOf c t.stream).tag ≠ t.tag)
      (fun c => { c with snap.tees := c.snap.tees.eraseIdx k }) ∧
    Runs (.teeBlockAck k) (fun c => c.snap.tees[k]? = some t ∧ reqsOf c (.tee t.id) ≠ 0) id ∧
    Runs (.teeBlockAck k) (fun c => c.snap.tees.length ≤ k) id) ∧
  (∀ (region n i st slot : Nat) (d : Desc) (rest : List (Nat × Desc)),
    Acts (.trickleRegionDone region) (fun c =>
        classDescs c 6 (fun d => decide (d.phase = .running ∧ d.opc = 3) &&
          ((d.arrs.find? fun x => x.2 == 2 && d.strRgn x.1 == region).map Prod.fst).isSome) = (n, d) :: rest ∧ d.idx = i ∧
        d.arrs.find? (fun x => x.2 == 2 && d.strRgn x.1 == region) = some (st, 2) ∧
        d.pins.find? (fun p => p.1 == region) = some (region, slot) ∧
        writesTo c ⟨n, i⟩ (d.strBase st) (d.strBytes st) = false)
      (fun c => trickleEnd ⟨n, i⟩ (markDone [st] (setArrs ⟨n, i⟩ (d.arrs.map fun x => if x = (st, 2) then (st, 3) else x)
        (updRgn region (fun r => { (if slot = 0 then { r with frozenA := false } else { r with frozenB := false }) with
          latSlot := if r.latSlot = some slot then none else r.latSlot }) c))))) ∧
  (∀ v : W64, Acts (.snapStreamWrite 0x138 v) (fun c =>
      streamsLocked c = false ∧ streamOk c.snap.sel { streamOf c c.snap.sel with src := v &&& maskOf [(6, 22), (32, 22)] } = true)
    (fun c => setStream c.snap.sel { streamOf c c.snap.sel with src := v &&& maskOf [(6, 22), (32, 22)] } c)) ∧
  (∀ (off : Nat) (v : W64), off = 0x130 ∨ off = 0x138 ∨ off = 0x140 ∨ off = 0x148 →
    Acts (.snapStreamWrite off v) (fun c => streamsLocked c = true) (fun c => { c with snap.cfgErr := true })) ∧
  Does .snapStatClear (fun c => { c with snap.teefail := 0, snap.teeIdle := 0, snap.xfreeze := 0 }) ∧
  (∀ v : W64, Does (.mtbfWrite v) (fun c => { c with snap.mtbf := v.toNat % 2 ^ 32 })))

/-! ## Links -/

/-- Descriptors of TLK (R396, R400, R424): PUT, and RESHARD as its phases; and the guards that a RESHARD sets. -/
def Obligations.LinkDescriptors : Prop :=
  (∀ q : DescRef,
    Works (.put q) q 5 1 (fun c d => d.prog = 0 ∧
        AtHand c 5 q (((rangeFrom 0 d.putLen).map (byteAddr d.putSrc)).map (mapAddr c d.rmap)))
      (fun d c =>
        let names := (rangeFrom 0 d.putLen).map (byteAddr d.putSrc)
        let bs := names.map (rdByte c d)
        let e := { d with prog := 1, rbuf := if d.putTee then names.zip bs else d.rbuf }
        andThen q (engineWrite 5 (if d.putSnap then vcSnap else vcData) q.ring q.idx []
          (((rangeFrom 0 d.putLen).map (byteAddr d.putDst)).zip bs) (putDesc q.ring e c))
          (fun c => if d.putTee then putTees q e (ceilDiv d.putLen 4096 + 1) 0 c else finishWork q c)) ∧
    Works (.put q) q 5 1 (fun _ d => d.prog ≠ 0) (fun d c => putTees q d (ceilDiv d.putLen 4096 + 1) (d.prog - 1) c) ∧
    (∀ s : State, isAwake s.chip = true → Answers (.reshard q) s (rshCopy q (rshAnnounce q (rshPush q s.chip)))) ∧
    Works (.reshardPush q) q 5 0x10 (fun c d => d.prog ≠ 0 ∨ preMet c d = false) (fun _ c => c) ∧
    (∀ s : State, isAwake s.chip = true → Answers (.reshardPush q) s (rshPush q s.chip)) ∧
    Works (.reshardAnnounce q) q 5 0x10 (fun c d => d.prog ≠ 1 ∨ allAcked c q = false) (fun _ c => c) ∧
    (∀ s : State, isAwake s.chip = true → Answers (.reshardAnnounce q) s (rshAnnounce q s.chip)) ∧
    (∀ s : State, isAwake s.chip = true → Answers (.reshardCopy q) s (rshCopy q s.chip)) ∧
    Works (.reshardCopy q) q 5 0x10 (fun c d => d.prog = 2 ∧ SMap.get 0 d.samp 21 ≠ 0 ∧ d.landDelta = 0 ∧
        reached c (SMap.get 0 d.samp 21 - 1).toNat (d.arrBase + (rshPeers d).length) = true)
      (fun _ c => finishWork q c)) ∧
  (∀ v : W64, let g : Guard := ⟨v.getLsbD 0, 64 * (v.toNat / 2 ^ 6 % 2 ^ 22), v.toNat / 2 ^ 32 % 2 ^ 22⟩
    Acts (.lguardWrite v) (fun _ => v.getLsbD 0 = false ∨ g.base + 64 * g.lines ≤ Config.lmemBytes)
      (fun c => { c with tlk.guards := SMap.set .off c.tlk.guards c.tlk.guardSel g }) ∧
    Acts (.lguardWrite v) (fun _ => v.getLsbD 0 = true ∧ Config.lmemBytes < g.base + 64 * g.lines) id) ∧
  Does .lguardStatClear (fun c => { c with tlk.guardDropped := 0 })

/-- Training of a port (R405 to R407): the words of a lane lock it with four MARKs in a row and bring GOOD and STATE; CONFIG
goes out with the lanes locked, at once when all are (with fewer, when the model's free value says so, log 89); then the width
is chosen and END goes out; attempts fail after 20 µs; losses of lock and 10 µs without ACK retrain. -/
def Obligations.PortTraining : Prop :=
  ∀ n lane : Nat, n < 4 → lane < 8 →
  (∀ mark good st : Nat, Links (.trainingWord n lane mark good st) (fun c => (portOf c n).st ≠ .train) id ∧
    (let heard (c : Chip) : Chip := updPort n (fun p =>
        let k := if mark = trainMark then min 4 (SMap.get 0 p.marks lane + 1) else 0
        { p with
          marks := SMap.set 0 p.marks lane k
          good := if k = 4 then p.good ||| 2 ^ lane else p.good &&& (255 - 2 ^ lane)
          peerCfg := p.peerCfg || decide (k = 4 ∧ 1 ≤ st ∧ st ≤ 2)
          peerGood := if k = 4 ∧ 1 ≤ st ∧ st ≤ 2 ∧ p.peerCfg = false then good % 256 else p.peerGood
          peerEnd := p.peerEnd || decide (k = 4 ∧ st = 2) }) c
     let config (c : Chip) : Chip := updPort n (fun p => { p with txTrain := 1, sentGood := p.good }) c
     let choose (c : Chip) : Chip :=
        let w := chooseWidth (portOf c n).sentGood (portOf c n).peerGood
        let e := updPort n (fun p => { p with txTrain := 2 }) c
        if (portOf c n).txTrain = 0 ∨ (portOf c n).peerCfg = false then c
        else if w = 0 then trainFail n c
        else if (portOf c n).peerEnd then trainDone n w e else e
     Links (.trainingWord n lane mark good st) (fun c => (portOf c n).st = .train) (fun c =>
        let d := heard c
        if (portOf d n).txTrain ≠ 0 ∨ (portOf d n).good = 0 then choose d
        else if (portOf d n).good = 255 then choose (config d)
        else if Config.freeNat d.free % 2 = 0 then choose { d with free := d.free + 1 }
        else choose (config { d with free := d.free + 1 })))) ∧
  Links (.trainingTimeout n) (fun c => now c < (portOf c n).trainFrom + 20000) id ∧
  Links (.trainingTimeout n) (fun c => (portOf c n).st = .train ∧ (portOf c n).trainFrom + 20000 ≤ now c ∧ (portOf c n).attempts < 2)
    (fun c => updPort n (fun p => { p.attempt (now c) with attempts := p.attempts + 1 }) c) ∧
  Links (.trainingTimeout n) (fun c => (portOf c n).st = .train ∧ (portOf c n).trainFrom + 20000 ≤ now c ∧ 2 ≤ (portOf c n).attempts)
    (fun c => portDown n .failed .linkDown (updPort n (fun p => { p with attempts := 0 }) c)) ∧
  Links (.laneLockLoss n lane) (fun c => (portOf c n).st = .train)
    (updPort n fun p => { p with marks := SMap.set 0 p.marks lane 0, good := p.good &&& (255 - 2 ^ lane) }) ∧
  Links (.laneLockLoss n lane) (fun c => (portOf c n).st ≠ .train ∧ (portOf c n).active lane = true) (portRetrain n) ∧
  Links (.laneLockLoss n lane) (fun c => (portOf c n).st ≠ .train ∧ (portOf c n).active lane = false) id ∧
  Links (.ackTimeout n) (fun c => (portOf c n).replay ≠ [] ∧ (portOf c n).ackFrom + 10000 ≤ now c) (portRetrain n) ∧
  Links (.ackTimeout n) (fun c => (portOf c n).replay = [] ∨ now c < (portOf c n).ackFrom + 10000) id

/-- Received flits (R401 to R405), by the codeword that the lanes bring: an intact IDLE flit acknowledges and brings credits; an
intact DATA flit in order does so and adds its payload to the stream, and one out of order is discarded; an intact REPLAY has
every flit after its ACK sent again, and the eighth time for one flit retrains; a flit whose CRC or type is wrong is discarded;
an uncorrectable codeword counts, and the fourth in a row retrains. What is discarded asks for a replay once, and from then on
every flit is discarded until the one expected comes; an IDLE or REPLAY flit counts as such where its SEQ says that nothing is
missing (log 115). What a port sends (R402, R404): a flit carries the port's ACK and one credit return; the transmitter never
leaves more than 256 flits unacknowledged; and a replay sends every unacknowledged DATA flit again, in order, with its number
and payload. -/
def Obligations.Flits : Prop :=
  (∀ (n : Nat) (f : FlitIn), n < 4 →
  let fits (c : Chip) : Prop := (portOf c n).streaming = true ∧ f.lanes.length = (portOf c n).width
  (∀ (bs : List Byte) (k : Nat), flitOf f = some (bs, k) →
    let counted (c : Chip) : Chip := updPort n (fun p => { p with corr := satAdd 32 p.corr k, badRun := 0 }) c
    let num : Nat := bits (leNat (bs.take 5)) 4 12
    let takes (c : Chip) : Prop := (portOf (counted c) n).rxLost = false ∨ num = ((portOf (counted c) n).rxSeq + 1) % 4096
    let found (c : Chip) : Chip := updPort n (fun p => { p with rxLost := false }) (counted c)
    (flitIntact bs 0 = true → Links (.flitIdle n f) (fun c => fits c ∧ takes c) (fun c => flitAck n bs (found c)) ∧
      Links (.flitIdle n f) (fun c => fits c ∧ ¬ takes c) counted) ∧
    (flitIntact bs 1 = true → Links (.flitData n f)
      (fun c => fits c ∧ num = ((portOf (counted c) n).rxSeq + 1) % 4096) (fun c =>
        let c := flitAck n bs (updPort n (fun x => { x with rxSeq := num, rxLost := false, rx := x.rx ++ (bs.drop 5).take 331 }) (counted c))
        rxPackets n (portOf c n).rx.length c)) ∧
    (flitIntact bs 1 = true → Links (.flitData n f)
      (fun c => fits c ∧ num ≠ ((portOf (counted c) n).rxSeq + 1) % 4096) (fun c => flitLost n (counted c))) ∧
    (flitIntact bs 2 = true → Links (.flitReplay n f) (fun c => fits c ∧ takes c) (fun c =>
        let d := flitAck n bs (found c)
        let d := updPort n (fun p => { (if (portOf (found c) n).resync then p else p.resend (gives d)) with replays := satAdd 16 p.replays 1 }) d
        if (portOf d n).replay.any (fun f => decide (8 ≤ f.count)) then portRetrain n d else d) ∧
      Links (.flitReplay n f) (fun c => fits c ∧ ¬ takes c) counted) ∧
    (flitIntact bs 0 = false → Links (.flitIdle n f) fits (fun c => flitLost n (counted c))) ∧
    (flitIntact bs 1 = false → Links (.flitData n f) fits (fun c => flitLost n (counted c))) ∧
    (flitIntact bs 2 = false → Links (.flitReplay n f) fits (fun c => flitLost n (counted c)))) ∧
  (flitOf f = none →
    let lost (c : Chip) : Chip :=
      let d := flitLost n (updPort n (fun p => { p with uncorr := satAdd 16 p.uncorr 1, badRun := p.badRun + 1 }) c)
      if 4 ≤ (portOf d n).badRun then portRetrain n d else d
    Links (.flitIdle n f) fits lost ∧ Links (.flitData n f) fits lost ∧ Links (.flitReplay n f) fits lost) ∧
  (∀ c : Chip, flitLost n c = updPort n (fun p => if p.rxLost then p else
    { p.send (gives c) 2 p.txSeq [] with rxLost := true }) c)) ∧
  ((∀ (give : Bool) (ft seq : Nat) (data : List Byte) (p : Port),
    (p.send give ft seq data).wire = p.wire ++ [⟨ft, (p.returning give).1, seq, p.rxSeq, (p.returning give).2, data⟩] ∧
    (p.send give ft seq data).ackSent = p.rxSeq) ∧
  (∀ (give : Bool) (self weight t fuel : Nat) (p : Port), p.replay.length ≤ 256 →
    (pumpPort give self weight t fuel p).replay.length ≤ 256) ∧
  (∀ (give : Bool) (p : Port),
    ((p.resend give).wire.drop p.wire.length).map (fun f => (f.ft, f.seq, f.data)) = p.replay.map (fun f => (1, f.seq, f.data)) ∧
    (p.resend give).replay = p.replay.map fun f => { f with count := f.count + 1 }))

/-- Packets of a port whose link is UP (R409 to R417, R422, R433): link messages act on the port, every other packet is taken by
the core it names or passed on; only NEGOTIATE counts before a version is agreed; and one that breaks a rule of R409 makes the
port FAILED. -/
def Obligations.Packets : Prop :=
  ∀ (n : Nat) (p : Packet), n < 4 →
  let v (c : Chip) (ty : Nat) : Packet := { p with ty := ty, v12 := decide (ty = tyNEGOTIATE) || decide ((portOf c n).ver = 1) }
  let up (ty : Nat) (c : Chip) : Prop := (portOf c n).st = .up ∧ packetBad (v c ty) = false
  let routed (i : Instr) (ty : Nat) : Prop := Links i (up ty) (fun c => routePacket n (packetRow n (v c ty)) (v c ty) c)
  let early (i : Instr) (ty : Nat) : Prop := Links i (fun c => (portOf c n).st = .negotiate ∧ packetBad (v c ty) = false) id
  let bad (i : Instr) (ty : Nat) : Prop :=
    Links i (fun c => (portOf c n).streaming = true ∧ packetBad (v c ty) = true) (portDown n .failed .linkDown)
  Links (.negotiate n p) (fun c => (portOf c n).streaming = true ∧ packetBad (v c tyNEGOTIATE) = false)
    (fun c => rxFree n (v c tyNEGOTIATE) (portNegotiate n (v c tyNEGOTIATE) c)) ∧
  routed (.wr n p) tyWR ∧ routed (.rd n p) tyRD ∧ routed (.amo n p) tyAMO ∧ routed (.sig n p) tySIG ∧
  routed (.wrack n p) tyWRACK ∧ routed (.rddata n p) tyRDDATA ∧ routed (.amorsp n p) tyAMORSP ∧ routed (.sigack n p) tySIGACK ∧
  Links (.timeSync n p) (up tyTIMESYNC) (fun c => rxFree n (v c tyTIMESYNC) (timeSync n (v c tyTIMESYNC) c)) ∧
  Links (.timeReply n p) (up tyTIMEREPLY) (fun c => rxFree n (v c tyTIMEREPLY) (timeReply n (v c tyTIMEREPLY) c)) ∧
  Links (.close n p) (up tyCLOSE) (fun c => portClose n (rxFree n (v c tyCLOSE) c)) ∧
  (early (.wr n p) tyWR ∧ early (.rd n p) tyRD ∧ early (.amo n p) tyAMO ∧ early (.sig n p) tySIG ∧ early (.wrack n p) tyWRACK ∧
    early (.rddata n p) tyRDDATA ∧ early (.amorsp n p) tyAMORSP ∧ early (.sigack n p) tySIGACK ∧ early (.timeSync n p) tyTIMESYNC ∧
    early (.timeReply n p) tyTIMEREPLY ∧ early (.close n p) tyCLOSE) ∧
  (bad (.wr n p) tyWR ∧ bad (.rd n p) tyRD ∧ bad (.amo n p) tyAMO ∧ bad (.sig n p) tySIG ∧ bad (.wrack n p) tyWRACK ∧
    bad (.rddata n p) tyRDDATA ∧ bad (.amorsp n p) tyAMORSP ∧ bad (.sigack n p) tySIGACK ∧ bad (.timeSync n p) tyTIMESYNC ∧
    bad (.timeReply n p) tyTIMEREPLY ∧ bad (.close n p) tyCLOSE ∧ bad (.negotiate n p) tyNEGOTIATE)

/-- Limits on responses and routes, and time messages (R414, R416, R422). Routes and ports (R406, R407, R420, R433, R435): SWAP
exchanges the tables or sets CFGERR, and the port commands act by the port's state. -/
def Obligations.RoutesAndTimeouts : Prop :=
  ((∀ (tag : Nat) (r : Req), Links (.respTimeout tag) (fun c => c.tlk.out.find? (fun r => r.tag == tag) = some r ∧ r.sent = true ∧
      1000 * max 1 (c.tlk.cfg.toNat % 2 ^ 20) ≤ now c - r.since)
    (fun c => deliver r (faultCode pTLK .linkDown) [] (pageFault pTLK .linkDown { c with
      tlk.out := c.tlk.out.filter fun q => q.tag != tag, sync.held := c.sync.held.filter fun x => x.sent != some tag }))) ∧
  (∀ tag : Nat, Links (.respTimeout tag) (fun c => c.tlk.out.find? (fun r => r.tag == tag) = none) id) ∧
  (∀ (tag : Nat) (r : Req), Links (.respTimeout tag) (fun c => c.tlk.out.find? (fun r => r.tag == tag) = some r ∧
    (r.sent = false ∨ now c - r.since < 1000 * max 1 (c.tlk.cfg.toNat % 2 ^ 20))) id) ∧
  (∀ (k : Nat) (r : Req), Links (.routeHoldTimeout k) (fun c => c.tlk.heldReqs[k]? = some r ∧
      now c - r.since < 1000 * (c.tlk.cfg.toNat / 2 ^ 20 % 2 ^ 20)) id) ∧
  (∀ (k : Nat) (r : Req), Links (.routeHoldTimeout k) (fun c => c.tlk.heldReqs[k]? = some r ∧
      1000 * (c.tlk.cfg.toNat / 2 ^ 20 % 2 ^ 20) ≤ now c - r.since)
    (fun c => deliver r (faultCode pTLK .linkDown) []
      (pageFault pTLK .linkDown { c with tlk.heldReqs := c.tlk.heldReqs.eraseIdx k }))) ∧
  (∀ n : Nat,
    Links (.timeSyncSend n) (fun c => timeRole c n 1 = true ∧ ∀ t, (portOf c n).syncAt = some t → t + 1000 * max 1 c.tlk.timeCfg ≤ now c)
      (fun c => transmit n (timePacket c n tyTIMESYNC (leBytes 8 0)) (updPort n (fun p => { p with syncAt := some (now c) }) c)) ∧
    Links (.timeSyncSend n) (fun c => ∃ t, (portOf c n).syncAt = some t ∧ now c < t + 1000 * max 1 c.tlk.timeCfg) id) ∧
  (∀ (self t : Nat) (q : QPkt) (p : Port), q.pkt.ty = tyTIMESYNC → (startPacket self t q p).exch = some t ∧
    (startPacket self t q p).txbuf = p.txbuf ++ packetBytes { q.pkt with payload := leBytes 8 t }) ∧
  (∀ n t0 : Nat, n < 4 → Links .timeExchangeTimeout
    (fun c => (portOf c n).exch = some t0 ∧ 100000 ≤ now c - t0 ∧ ∀ m < 4, m ≠ n → (portOf c m).exch = none)
    (updPort n fun p => { p with exch := none })) ∧
  Links .timeExchangeTimeout (fun c => ∀ n < 4, (portOf c n).exch = none) id) ∧
  ((∀ e : Nat, e < 2 ^ 32 →
    Acts (.swap e) (fun c => swapOk c e = false) (fun c => { c with tlk.cfgErr := true }) ∧
    Acts (.swap e) (fun c => swapOk c e = true) (fun c =>
      let d := emit 0x07 pTLK 1#64 (BitVec.ofNat 64 e) { c with
        tlk.active := c.tlk.staged, tlk.staged := c.tlk.active, tlk.routeEpoch := e }
      let dead (x : RSig) : Bool := x.sent.isNone && hasLcn c.tlk.active x.lcn && decide (routeOf d x.lcn = .missing)
      sendHeld { d with
        sync.held := d.sync.held.filter fun x => !dead x
        sync.refused := satAdd 16 d.sync.refused (d.sync.held.filter dead).length })) ∧
  Does .routeCopy (fun c => { c with tlk.staged := c.tlk.active }) ∧
  Does .routeClear (fun c => { c with tlk.staged := SMap.mapVal routeReset (fun _ e => if entValid e then e - 2 ^ 26 else e) c.tlk.staged }) ∧
  (∀ n : Nat, n < 4 →
    Acts (.portEnable n) (fun c => (portOf c n).en = false ∧ ((portOf c n).st = .down ∨ (portOf c n).st = .closed))
      (fun c => portState n .train (updPort n (Port.fresh (now c)) (updPort n (fun p => { p with en := true }) c))) ∧
    Acts (.portEnable n) (fun c => (portOf c n).en = false ∧ (portOf c n).st ≠ .down ∧ (portOf c n).st ≠ .closed)
      (updPort n fun p => { p with en := true }) ∧
    Acts (.portEnable n) (fun c => (portOf c n).en = true) id ∧
    Acts (.portDisable n) (fun c => (portOf c n).en = true) (fun c => portStop n (updPort n (fun p => { p with en := false }) c)) ∧
    Acts (.portDisable n) (fun c => (portOf c n).en = false) id ∧
    Acts (.retrain n) (fun _ => True) (portRetrain n)) ∧
  Acts (.tlkCountClear 17 0x188) (fun _ => True) (fun c => { c with tlk.noroute := 0, tlk.loop := 0 }) ∧
  (∀ n : Nat, n < 4 → Acts (.tlkCountClear 17 (0x148 + 8 * n)) (fun _ => True)
    (updPort n fun p => { p with corr := 0, uncorr := 0, replays := 0 })) ∧
  Acts (.tlkCountClear 16 0x118) (fun _ => True) (fun c => { c with hport.timeouts := 0, hport.errRsp := 0, hport.inbRefused := 0 }))

/-! ## The host port -/

/-- Requests and responses on the lanes (R425 to R429), in P0 with the port agreed: a request takes a credit and its beats of
what the core has granted, and is served, or refused from step 6 of a detach on (R433); a response ends the request of its
channel and tag. Detaching (R433). -/
def Obligations.HostLanes : Prop :=
  ((∀ (ch : Nat) (q : HppReq),
    let ok (beats : Nat) (refusing : Bool) (c : Chip) : Prop := ch < c.hport.channels ∧ hportLive c = true ∧
      SMap.get 0 c.hport.grant (2 * ch) ≠ 0 ∧ beats ≤ SMap.get 0 c.hport.grant (2 * ch + 1) ∧ c.hport.refusing = refusing
    let took (beats : Nat) (c : Chip) : Chip := takeGrant (2 * ch + 1) beats (takeGrant (2 * ch) 1 c)
    let no (beats : Nat) (c : Chip) : Chip := hppRefuse ch beats q pHPORT .linkDown (took beats c)
    Acts (.hppRd ch q) (ok 0 false) (fun c => hppRdServe ch q (took 0 c)) ∧
    Acts (.hppRd ch q) (ok 0 true) (no 0) ∧
    (∀ beats : List HppBeat,
      Acts (.hppWr ch q beats) (ok (q.lines + 1) false) (fun c => hppWrServe ch q beats (took (q.lines + 1) c)) ∧
      Acts (.hppWr ch q beats) (ok (q.lines + 1) true) (no (q.lines + 1))) ∧
    (∀ p : Packet,
      Acts (.hppPeer ch q p) (fun c => ok (q.lines + 1) false c ∧ c.hport.peer = true) (fun c => hppPeerServe ch q p (took (q.lines + 1) c)) ∧
      Acts (.hppPeer ch q p) (fun c => ok (q.lines + 1) true c ∧ c.hport.peer = true) (no (q.lines + 1)) ∧
      Acts (.hppPeer ch q p) (fun c => c.hport.peer = false) id)) ∧
  (∀ (ch tag : Nat) (r : Req) (bs : List Byte),
    (∀ status, status ≠ 0 → Acts (.hppResponse ch tag status bs) (fun c => hportReq c ch tag = some r)
      (fun c => deliver r status [] (hportDone r { c with hport.errRsp := satAdd 16 c.hport.errRsp 1 }))) ∧
    (r.kind = .rd → bs.length = 64 * linesOf r.addr r.len → Acts (.hppResponse ch tag 0 bs) (fun c => hportReq c ch tag = some r)
      (fun c => deliver r 0 ((bs.drop (r.addr % 64)).take r.len) (hportDone r c))) ∧
    (r.kind ≠ .rd → Acts (.hppResponse ch tag 0 bs) (fun c => hportReq c ch tag = some r)
      (fun c => deliver r 0 [] (hportDone r c))) ∧
    Acts (.hportTimeout ch tag) (fun c => hportReq c ch tag = some r ∧ 1000 * max 1 c.hport.timeoutUs ≤ now c - r.since)
      (fun c => deliver r (faultCode pHPORT .linkDown) [] (pageFault pHPORT .linkDown
        { hportDone r c with hport.timeouts := satAdd 16 c.hport.timeouts 1 }))) ∧
  (∀ (ch tag : Nat) (r : PeerReq),
    let peer (c : Chip) : Prop := hportReq c ch tag = none ∧ peerReq c ch tag = some r
    (∀ bs, Acts (.hppResponse ch tag 0 bs) peer (peerDone r)) ∧
    (∀ status bs, status ≠ 0 → Acts (.hppResponse ch tag status bs) peer
      (fun c => failPacket status r.pkt (peerDone r { c with hport.errRsp := satAdd 16 c.hport.errRsp 1 }))) ∧
    (∀ status bs, Acts (.hppResponse ch tag status bs) (fun c => hportReq c ch tag = none ∧ peerReq c ch tag = none) id) ∧
    Acts (.hportTimeout ch tag) (fun c => peer c ∧ 1000 * max 1 c.hport.timeoutUs ≤ now c - r.since)
      (fun c => failPacket (faultCode pHPORT .linkDown) r.pkt (pageFault pHPORT .linkDown
        { peerDone r c with hport.timeouts := satAdd 16 c.hport.timeouts 1 }))) ∧
  (∀ (ch : Nat) (b : Bool), Acts (.hppCredit ch b) (fun c => ch < c.hport.channels ∧ (b = true → SMap.get 0 c.hport.due ch = 0))
    (fun c => pumpPeers
      { c with hport.credits := SMap.set 0 c.hport.credits (2 * ch + b2n b) (SMap.get 0 c.hport.credits (2 * ch + b2n b) + 1) }) ∧
    Acts (.hppCredit ch true) (fun c => ch < c.hport.channels ∧ 0 < SMap.get 0 c.hport.due ch)
      (fun c => pumpPeers { c with hport.due := SMap.set 0 c.hport.due ch (SMap.get 0 c.hport.due ch - 1) }))) ∧
  (let begins (c : Chip) : Chip := setQreq pSEQ (sbState 3 { c with hport.st := .detaching, hport.detachFrom := some (now c) })
  Acts .detachReq (fun c => c.hport.st = .up) begins ∧ Acts .detach (fun c => c.hport.st = .up) begins ∧
  Acts .detach (fun c => c.hport.st ≠ .up) id ∧
  Runs .detachComplete (fun c => detachReady c = true) (detachEnds false) ∧
  (∀ t : Nat, Runs .detachTimeout (fun c => c.hport.detachFrom = some t ∧ 1000000 * max 1 c.hport.detachMs ≤ now c - t)
    (fun c => detachEnds true (closePorts c))))

/-- The sideband (R431, R432, R499, R503): HELLO and the image in step 2 of a cold start, and register accesses. That the port
is UP with HELLO is the model's reading (log 44). -/
def Obligations.Sideband : Prop :=
  (∀ w : Nat, w % 16 = 2 ∨ w % 16 = 3 → Takes (.hello w) (fun c => c.core.phase = .cold 2) (fun c => { c with
    core.helloSeen := true
    hport := { c.hport with
      st := .up, major := w % 16, minor := if w % 16 = 3 then 0 else w / 2 ^ 4 % 2 ^ 4, channels := min 16 (w / 2 ^ 8 % 2 ^ 5)
      tags := if w % 16 = 3 then 1024 else 256, maxLines := if w % 16 = 3 then 64 else 4, peer := decide (w % 16 = 3)
      grant := (rangeFrom 0 (min 16 (w / 2 ^ 8 % 2 ^ 5))).foldl (fun m k =>
        SMap.set 0 (SMap.set 0 m (2 * k) 64) (2 * k + 1) 512) []
      credits := (rangeFrom 0 (min 16 (w / 2 ^ 8 % 2 ^ 5))).foldl (fun m k =>
        SMap.set 0 (SMap.set 0 m (2 * k) (w / 2 ^ 13 % 2 ^ 8)) (2 * k + 1) (8 * (w / 2 ^ 21 % 2 ^ 7))) [] } })) ∧
  (∀ w : Nat, w % 16 < 2 ∨ 3 < w % 16 → Takes (.hello w) (fun c => c.core.phase = .cold 2)
    (fun c => startFails 3 false (pageFault pHPORT .versionMismatch c))) ∧
  (∀ ws : List W32, Takes (.imgData ws) (fun c => c.core.phase = .cold 2) (fun c => { c with core.imgWords := c.core.imgWords ++ ws })) ∧
  Takes .imgEnd (fun c => c.core.phase = .cold 2 ∧ c.core.helloSeen = true ∧ imgOk c.core.imgWords = true)
    (fun c => imgApply c.core.imgWords c) ∧
  Takes .imgEnd (fun c => c.core.phase = .cold 2 ∧ c.core.helloSeen = true ∧ imgOk c.core.imgWords = false) (startFails 2 false) ∧
  Takes .imgEnd (fun c => c.core.phase = .cold 2 ∧ c.core.helloSeen = false)
    (fun c => startFails 3 false (pageFault pHPORT .versionMismatch c)) ∧
  Takes .imageTimeout (fun c => c.core.phase = .cold 2 ∧ 100000000 ≤ now c - c.core.stepFrom) (startFails 2 false) ∧
  (∀ off p o : Nat, Acts (.regRd off) (fun c => sbWaits c = false ∧ pageAccessOk off 8 = true ∧ pageAt off = some (p, o))
    (fun c => regRsp 0 (pageRead p o c).1 (pageRead p o c).2)) ∧
  (∀ off : Nat, Acts (.regRd off) (fun c => sbWaits c = false ∧ pageAccessOk off 8 = false)
    (regRsp (faultCode (((pageAt off).map Prod.fst).getD pCORE) .addrUnmapped) 0#64)) ∧
  (∀ (off p o : Nat) (v : W64), Acts (.regWr off v) (fun c => sbWaits c = false ∧ pageAccessOk off 8 = true ∧ pageAt off = some (p, o))
    (fun c => regRsp 0 0#64 (pageWrite 0xFFFF p o v c)))

/-! ## Power and starts -/

/-- Power states and operating points (R456 to R462, Tables 19.4 and 19.8). That the exit waits for a BASE that does not fit,
and for its ramp, is the model's reading (logs 95 and 117). The drogue and lending (R455, R463 to R467). That BASE waits and
ramps like every other request is the model's reading (logs 95 and 117). -/
def Obligations.PowerRows : Prop :=
  (Does .pwrHold (fun c => { c with pwr.held := true }) ∧ Does .pwrRelease (fun c => { c with pwr.held := false }) ∧
  Acts .pwrOff (fun c => enginePages.all (quiesced c) = true) (enterP3 false) ∧
  Acts .pwrOff (fun c => enginePages.all (quiesced c) = false) (fun c => { c with pwr.cfgErr := true }) ∧
  (∀ v : W64, 5 ≤ v.toNat % 8 → Does (.dvfsPointWrite v) (fun c => { c with pwr.cfgErr := true })) ∧
  (∀ v : W64, v.toNat % 8 < 5 → Acts (.dvfsPointWrite v) (fun c => c.pwr.busy = false) (fun c => dvfsGo { c with pwr.point := v.toNat % 8 })) ∧
  (∀ v : W64, v.toNat % 8 < 5 → Acts (.dvfsPointWrite v) (fun c => c.pwr.busy = true) (fun c => { c with pwr.point := v.toNat % 8 })) ∧
  Acts .dvfsStepDone (fun c => c.pwr.busy = true ∧ c.pwr.uvNow = false ∧ c.pwr.down = false ∧ unitOn c 12 = true)
    (fun c => dvfsGo (settleDecl { c with pwr.cur := min 4 (c.pwr.cur + 1), pwr.ungated := SMap.set none c.pwr.ungated 12 none })) ∧
  Acts .dvfsStepDone (fun c => c.pwr.busy = true ∧ c.pwr.uvNow = false ∧ c.pwr.down = true)
    (fun c => dvfsGo { c with pwr.cur := c.pwr.cur - 1, pwr.down := false }) ∧
  (∀ v : W64, Does (.latTolWrite v) (fun c =>
    if exitWithin { c with pwr.latTol := v.toNat % 2 ^ 32 } c.pwr.state (v.toNat % 2 ^ 32) then { c with pwr.latTol := v.toNat % 2 ^ 32 }
    else beginWake 8 { c with pwr.latTol := v.toNat % 2 ^ 32 })) ∧
  (∀ q : Nat, Runs .p1Entry (fun c => c.sync.quietSince = some q ∧ c.pwr.cfg.toNat % 2 ^ 16 ≤ now c - q ∧ c.pwr.waking = none)
      (fun c => enterState (deepest c) c) ∧
    Runs .p2Entry (fun c => c.sync.quietSince = some q ∧ c.pwr.cfg.toNat % 2 ^ 16 ≤ now c - q ∧ 1000 * (c.pwr.cfg.toNat / 2 ^ 16 % 2 ^ 16) ≤ now c - q ∧ c.pwr.waking = none)
      (fun c => enterState (deepest c) c)) ∧
  (∀ row : Nat, Runs .wakeExitDone (fun c => c.pwr.waking = some row) (wakeExit row)) ∧
  Takes .undervoltage (fun c => pwrRuns c = true) (fun c => settleDecl { c with
    pwr.uv := true, pwr.uvNow := true, pwr.cur := 0, pwr.busy := false, pwr.down := false
    pwr.ungated := SMap.set none c.pwr.ungated 12 none }) ∧
  Takes .uvRecover (fun c => c.pwr.uvNow = true) (fun c => dvfsGo { c with pwr.uvNow := false }) ∧
  (∀ c : Chip, c.pwr.uvNow = true → admissible c = none ∧ baseFits c = false ∧ dvfsGo c = c)) ∧
  ((∀ u step : Nat, 1 ≤ u → u ≤ 11 → Acts (.blockGate u) (fun c => unitIdle c u = true ∧ SMap.get none c.pwr.ungated u = some step)
    (fun c => settleDecl { c with
      pwr.ungated := SMap.set none c.pwr.ungated u none, pwr.half := SMap.set false c.pwr.half u false
      pwr.decl := c.pwr.decl - step })) ∧
  (∀ (c : Chip) (h : PwrReq), admissible c = some h → c.pwr.ramp = none ∧ c.pwr.uvNow = false ∧ drogueHead c = some h ∧
    c.pwr.decl + h.step ≤ min h.amps (budgetOf c) - c.pwr.lent) ∧
  (∀ h : PwrReq, Acts .drogueAdmit (fun c => admissible c = some h) (fun c => { c with
    pwr.queue := c.pwr.queue.filter fun q => q != h, pwr.decl := c.pwr.decl + h.step
    pwr.deferNs := (c.pwr.deferNs + (now c - h.since)) % 2 ^ 48
    pwr.ramp := some h, pwr.rampEnd := now c + (1000 * h.step + h.slew - 1) / h.slew })) ∧
  Acts .drogueAdmit (fun c => admissible c = none ∧ c.pwr.ramp = none ∧ c.pwr.uvNow = false ∧ c.pwr.queue ≠ []) reclaim ∧
  (∀ h : PwrReq, h.unit < 12 → Acts .rampDone (fun c => c.pwr.ramp = some h ∧ c.pwr.rampEnd ≤ now c) (fun c => retryStarts { c with
    pwr.ramp := none, pwr.rampEnd := 0
    pwr.ungated := SMap.set none c.pwr.ungated h.unit (some ((SMap.get none c.pwr.ungated h.unit).getD 0 + h.step)) })) ∧
  Acts .rampDone (fun c => c.pwr.ramp = none ∨ now c < c.pwr.rampEnd) retryStarts ∧
  (∀ a : Nat, Acts (.zgateHalfRequest a) (fun c => arrayDense c a = true) (addRequest (13 + a)) ∧
    Acts (.zgateHalfRequest a) (fun c => arrayDense c a = false) id) ∧
  (let waits (c : Chip) : Prop := pwrRuns c = true ∧ isAwake c = false ∧ baseWaits c = true ∧ baseRamps c = false
   Takes .drogueAdmit (fun c => waits c ∧ baseFits c = true) (fun c =>
     let h := baseRequest c
     { grantStep h c with pwr.ramp := some h, pwr.rampEnd := now c + (1000 * h.step + h.slew - 1) / h.slew }) ∧
   Takes .drogueAdmit (fun c => waits c ∧ baseFits c = false) deferBase) ∧
  (∀ h : PwrReq, h.unit = 0 → let done (c : Chip) : Prop := c.pwr.ramp = some h ∧ c.pwr.rampEnd ≤ now c
    let ended (c : Chip) : Chip := { c with pwr.ramp := none, pwr.rampEnd := 0 }
    Takes .rampDone (fun c => done c ∧ c.core.phase = .cold 5) (fun c => runHeld (coldOver (ended c))) ∧
    Takes .rampDone (fun c => done c ∧ c.core.phase = .warm 4) (fun c => runHeld (startOver (ended c))) ∧
    (∀ row : Nat, Runs .rampDone (fun c => done c ∧ c.pwr.state ≠ 0 ∧ c.pwr.waking = some row) (fun c => runHeld (leftState row (ended c)))) ∧
    Takes .rampDone (fun c => isAwake c = false ∧ c.pwr.ramp = some h ∧ now c < c.pwr.rampEnd) id) ∧
  (∀ q : Nat, Runs .lendOffer (fun c => c.sync.quietSince = some q ∧ c.pwr.lend = 0 ∧ c.pwr.plAck = false ∧ c.pwr.cfg.getLsbD 52 = true ∧
      1000 * (c.pwr.cfg.toNat / 2 ^ 32 % 2 ^ 12) ≤ now c - max q c.pwr.offerFrom)
    (fun c => if c.pwr.amtStable = true ∧ c.pwr.plAmt = offerAmps c then { c with pwr.lend := 1, pwr.plReq := true }
      else { c with pwr.plAmt := offerAmps c, pwr.amtStable := false })) ∧
  Links .plAckRise (fun c => c.pwr.plReq = true ∧ c.pwr.lend = 1) (fun c => { c with pwr.plAck := true, pwr.lend := 2, pwr.lent := 8 * c.pwr.plAmt }) ∧
  Links .plAckFall (fun c => c.pwr.lend = 3) (fun c => { c with pwr.plAck := false, pwr.lend := 0, pwr.lent := 0, pwr.reclaimFrom := none }) ∧
  Links .plAckFall (fun c => c.pwr.lend = 2) (fun c => { c with
    pwr.plAck := false, pwr.lend := 0, pwr.lent := 0, pwr.plReq := false, pwr.offerFrom := now c }) ∧
  (∀ t : Nat, Runs .reclaimLate (fun c => c.pwr.reclaimFrom = some t ∧ c.pwr.plAck = true ∧
    1000 * (c.pwr.cfg.toNat / 2 ^ 44 % 2 ^ 8) ≤ now c - t) (fun c => { c with pwr.reclaimLate := true })))

/-- Cold starts (R468 to R470, R488 to R492): what begins one, its steps in order, and its failures. The model's readings:
repairs and the check of the tile registers (log 59), the BASE step and its ramp (logs 95 and 117), and an overvoltage in P3 or
under the wrapper (logs 104 and 60). Warm starts and the kept state (R470, R471, R493). The model's readings: the check of the
tile registers (log 59), the BASE step and its ramp (logs 95 and 117), and a request that waits for the exit from P1 or P2 and
the KIND of an escalated start (log 104). -/
def Obligations.Starts : Prop :=
  (Takes .powerOn (fun c => c.core.phase = .unpowered) freshChip ∧
  (∀ s : State, s.chip.core.phase ≠ .p3 → s.chip.core.phase ≠ .unpowered → Answers .porstAssert s (freshChip s.chip)) ∧
  (∀ s : State, s.chip.core.phase = .powerOn → Answers .porstRelease s (coldBegin 1 true s.chip)) ∧
  (∀ s : State, Answers .powerLoss s { freshChip { s.chip with pwr.uvNow := false } with core.phase := .unpowered }) ∧
  Takes .wakeN (fun c => c.core.phase = .p3) (fun c => powerEvent 3 0 7 (coldBegin 1 true c)) ∧
  Takes .startCmdCold (fun c => c.core.phase = .running) (coldBegin 1 true) ∧
  (∀ k : Nat, Takes .startCmdCold (fun c => c.core.phase = .warm k) (coldBegin 1 true) ∧
    Takes .startCmdCold (fun c => c.core.phase = .cold k) (coldBegin 1 true)) ∧
  Takes .railPowerGood (fun c => c.core.phase = .cold 1) (fun c =>
    sbSend 0x02 0 [] (sbSend 0x01 0 [helloWord] (sbState 1 { c with core.phase := .cold 2, core.stepFrom := now c, hport.st := .negotiate }))) ∧
  (∀ rail : Nat, Takes (.regulatorTimeout rail) (fun c => c.core.phase = .cold 1) (startFails 1 (rail == 2))) ∧
  Takes .coldStartRetry (fun c => c.core.phase = .retry) (fun c => coldBegin c.core.kind false c) ∧
  (∀ es : List W64, Takes (.marchTestDone es) (fun c => c.core.phase = .cold 3 ∧
      softRepairs (c.lmem.repairs.map BitVec.toNat) (es.map BitVec.toNat) = none) (startFails 4 false)) ∧
  (∀ (es : List W64) (reps : List Nat), Takes (.marchTestDone es) (fun c => c.core.phase = .cold 3 ∧
      softRepairs (c.lmem.repairs.map BitVec.toNat) (es.map BitVec.toNat) = some reps)
    (fun c => runHeld { c with
      core.phase := .cold 4, core.stepFrom := now c, lmem.repairs := reps.map (BitVec.ofNat 64), lmem.softCount := reps.length - c.lmem.hard
      lmem.banks := bankTable reps c.lmem.hard, lmem.mem := [], lmem.ecc := [], lmem.wbQueue := [] })) ∧
  (let ready (c : Chip) : Chip := deriveLat (coldReset c)
   Takes .pllLock (fun c => c.core.phase = .cold 4 ∧ tileOr (ready c) ≠ 0) (fun c => startFails 6 false (ready c)) ∧
   Takes .pllLock (fun c => c.core.phase = .cold 4 ∧ tileOr (ready c) = 0)
     (fun c => admitBase { ready c with core.phase := .cold 5 })) ∧
  Takes .pllLockTimeout (fun c => c.core.phase = .cold 4 ∧ 500000 ≤ now c - c.core.stepFrom) (startFails 5 false) ∧
  Takes .overvoltage (fun c => c.core.phase ≠ .unpowered ∧ c.core.phase ≠ .p3 ∧ c.core.phase ≠ .wrapper) (enterP3 false)) ∧
  ((∀ i : Instr, i = .wrstRelease ∨ i = .startCmdWarm →
    Takes i (fun c => c.core.phase = .running ∧ c.wvm.hold = none ∧ c.pwr.state = 0) warmBegin ∧
    Takes i (fun c => c.core.phase = .running ∧ (c.wvm.hold ≠ none ∨ c.pwr.state ≠ 0))
      (fun c => beginWake 0 { c with core.warmWaits := true }) ∧
    (∀ k : Nat, Takes i (fun c => c.core.phase = .warm k) warmBegin)) ∧
  (∀ k : Nat, Takes .startCmdWarm (fun c => c.core.phase = .cold k) id ∧ Takes .wrstRelease (fun c => c.core.phase = .cold k) id) ∧
  (∀ c : Chip, c.core.retainV = false → warmBegin c = coldBegin 3 true { c with core.warmWaits := false }) ∧
  Takes .railPowerGood (fun c => c.core.phase = .warm 2) (fun c => { c with core.phase := .warm 3 }) ∧
  Takes .pllLock (fun c => c.core.phase = .warm 3 ∧ tileOr (warmReset c) ≠ 0) (fun c => warmFails (warmReset c)) ∧
  Takes .pllLock (fun c => c.core.phase = .warm 3 ∧ tileOr (warmReset c) = 0)
    (fun c => admitBase { warmReset c with core.phase := .warm 4 }) ∧
  (∀ rail : Nat, rail = 1 ∨ rail = 2 → Takes (.railOutOfBand rail) (fun _ => True) (fun c => { c with core.retainV := false })) ∧
  Takes .refclkStop (fun c => c.core.phase = .running) (fun c => { c with core.phase := .undefined }))

/-! ## Time, pages and the wrapper -/

/-- The time base and trace (R475, R477 to R479, R486). -/
def Obligations.TimeRows : Prop :=
  Links .tpulseEdge (fun c => timeSrc c = 1 ∧ c.time.nextV = false) (fun c => { c with time.missed := satAdd 16 c.time.missed 1 }) ∧
  Links .tpulseEdge (fun c => timeSrc c = 1 ∧ c.time.nextV = true)
    (fun c => measure ((c.time.next : Int) - (now c : Int)) 0 { c with time.nextV := false }) ∧
  (∀ v : W64, Does (.tpulseArm v) (fun c => { c with time.next := v.toNat % 2 ^ 63, time.nextV := v.getLsbD 63 })) ∧
  (∀ t0 : Nat, Links .holdoverExpire (fun c => c.time.lastMeas = some t0 ∧ c.time.lock = true ∧ holdoverMs c * 1000000 ≤ now c - t0)
    (fun c => setLock false c.time.lastE { c with time.good := 0 })) ∧
  (∀ (v : W64) (who : Nat), who < 65536 → Does (.timeMark v who) (emit 0x0D pTIME v (BitVec.ofNat 64 who))) ∧
  Does .timeStatClear (fun c => { c with time.missed := 0, time.discarded := 0 }) ∧
  (∀ v : W64, Acts (.traceCfgWrite v) (fun c => (traceOf c c.time.sel).en = false ∧ v.getLsbD 0 = true) (fun c => updTrace c.time.sel
    (fun t => { t with
      cfg := maskWrite (maskOf [(0, 7), (8, 20), (32, 16)]) t.cfg v, head := 0, tail := 0, unacked := 0 }) c)) ∧
  (∀ v : W64, Acts (.traceCfgWrite v) (fun c => (traceOf c c.time.sel).en = false ∧ v.getLsbD 0 = false)
    (fun c => updTrace c.time.sel (fun t => { t with cfg := maskWrite (maskOf [(0, 7), (8, 20), (32, 16)]) t.cfg v }) c)) ∧
  (∀ v : W64, Acts (.traceCfgWrite v) (fun c => (traceOf c c.time.sel).en = true)
    (fun c => updTrace c.time.sel (fun t => { t with cfg := maskWrite (maskOf [(0, 1), (6, 1), (8, 20), (32, 16)]) t.cfg v }) c)) ∧
  (∀ v : W64, Does (.traceHeadWrite v) (fun c => updTrace c.time.sel (fun t =>
    if sub32 t.tail (v.toNat % 2 ^ 32) ≤ t.size then { t with head := v.toNat % 2 ^ 32 } else t) c)) ∧
  Does .traceStatClear (fun c => updTrace c.time.sel (fun t => { t with lost := 0 }) c) ∧
  (∀ r : Nat, r < 8 → Links (.traceRecordAck r) (fun c => (traceOf c r).unacked ≠ 0 ∧
      (c.time.waiting.any fun w => w.1 == r && w.2.1 == (traceOf c r).addr (traceOf c r).tail) = false ∧
      ((c.outbox ++ c.tlk.waitReqs ++ c.hport.out).any fun q => q.who == .trace r && q.addr == (traceOf c r).addr (traceOf c r).tail) = false)
    (updTrace r fun t => { t with tail := add32 t.tail 1, unacked := t.unacked - 1 }))

/-- Registers that every page has, and register writes at large (R18 to R22, R484, R485, R510). The fault registers of a page
(R480, R481): a fault sets its cause's bit whatever the mask holds; FIRST and TIME are loaded where no bit was set, and of the
faults that one command records, which the model takes as one cycle (log 79), FIRST keeps the lowest code; its event names the
context and the ring. A write of PG_FAULT clears the bits in which it has a 1, and FIRST and TIME with the last of them. -/
def Obligations.PageRows : Prop :=
  ((∀ (p off : Nat) (v : W64), p < 20 → off < 0x10000 → off % 8 = 0 →
    Does (.registerWrite p off v) (pageWrite 0xFFFF p off v) ∧
    Takes (.registerWrite p off v) (fun c => isUp c = true ∧ c.pwr.state ≠ 0 ∧ pageAlwaysOn p = false)
      (holdWake 5 (.registerWrite p off v))) ∧
  (∀ p : Nat, p < 20 →
    Does (.quiesceRequest p) (fun c => pgCtrlWrite p (pageOf c p).en true c) ∧
    Does (.quiesceClear p) (fun c => pgCtrlWrite p (pageOf c p).en false c) ∧
    (∀ en : Bool, Does (.pgEnWrite p en) (fun c => pgCtrlWrite p en (pageOf c p).qreq c)) ∧
    (∀ words : Nat, Acts (.rbDataRead p) (fun c => rbInside c p = some words) (fun c =>
      rbAdvance p words (rbWord p (pageOf c p).rbSpace (pageOf c p).rbItem (pageOf c p).rbWord c).2)) ∧
    Acts (.rbDataRead p) (fun c => rbInside c p = none) (updPage p fun h => { h with rbErr := true }) ∧
    (∀ (v : W64) (words : Nat), Acts (.rbDataWrite p v) (fun c => rbInside c p = some words ∧ quiesced c p = true ∧
        rbWritable c p (pageOf c p).rbSpace (pageOf c p).rbItem (pageOf c p).rbWord = true)
      (fun c => rbAdvance p words (rbPut p (pageOf c p).rbSpace (pageOf c p).rbItem (pageOf c p).rbWord v c))) ∧
    (∀ (v : W64) (words : Nat), Acts (.rbDataWrite p v) (fun c => rbInside c p = some words ∧ quiesced c p = false)
      (updPage p fun h => { h with rbErr := true })))) ∧
  ((∀ (page code ctx ring : Nat) (k : Cause) (d1 : W64) (c : Chip),
    let h := pageOf c page; let e := recordFault page k code ctx ring d1 c
    (pageOf e page).fault = h.fault ||| (1#20 <<< k.bit) ∧ (pageOf e page).mask = h.mask ∧
    (h.fault = 0#20 → (pageOf e page).first = code ∧ (pageOf e page).ftime = now c ∧ page ∈ e.firsts) ∧
    (h.fault ≠ 0#20 → (pageOf e page).ftime = h.ftime ∧
      (pageOf e page).first = if page ∈ c.firsts then min code h.first else h.first) ∧
    (∀ p, p ≠ page → pageOf e p = pageOf c p) ∧
    e.events = c.events ++ [⟨now c, 0x04, page, pack [(0, 16, code), (16, 16, ctx), (32, 16, ring)], d1, false⟩]) ∧
  (∀ (p : Nat) (v : W64) (c : Chip), let h := pageOf c p; let e := pageOf (pageWrite 0xFFFF p 0x020 v c) p
    let left := h.fault &&& ~~~(v.setWidth 20)
    e.fault = left ∧ e.mask = h.mask ∧ (left = 0#20 → e.first = 0 ∧ e.ftime = 0) ∧
      (left ≠ 0#20 → e.first = h.first ∧ e.ftime = h.ftime)))

/-- The test wrapper (R504 to R506): a non-intrusive instruction only loads, an intrusive one takes the core and clears
RETAIN_V. What has been shifted into a register is a free value, and the order of the boundary cells is the model's choice (log
60). -/
def Obligations.WrapperRows : Prop :=
  let live (c : Chip) : Prop := wrapLive c = true
  let free (c : Chip) : Nat := Config.freeNat c.free
  let taken (code : Nat) (c : Chip) : Chip := { c with
    wrap.instr := code, wrap.undef := free c, core.phase := .wrapper, core.retainV := false, free := c.free + 1 }
  let bypass (c : Chip) : Chip := { c with wrap.bypass := free c % 2 == 1, free := c.free + 1 }
  Takes .wsBypass live (fun c => bypass { c with wrap.instr := 0 }) ∧
  Takes .wsExtest live (fun c => { taken 1 c with
    wrap.bndOut := Config.freeNat (c.free + 1), wrap.bndIn := pinsIn c, free := c.free + 2 }) ∧
  Takes .wsClamp live (fun c => bypass (taken 2 c)) ∧
  Takes .wsSafe live (fun c => bypass (taken 3 c)) ∧ Takes .wsIntest live (taken 4) ∧
  (∀ b : Nat, b < 256 → Takes (.mbist b) live (fun c => { taken 0x10 c with
    wrap.mbistGo := true, wrap.mbistDone := false, wrap.mbistFail := false, wrap.mbistBank := b })) ∧
  (∀ (c : Chip) (cell : PinCell) (held level : Bool), c.core.phase = .wrapper →
    (c.wrap.instr = 1 ∨ c.wrap.instr = 2 → outLevel c cell held level = c.wrap.bndOut.testBit cell.bit) ∧
    (c.wrap.instr = 3 → outLevel c cell held level = held)) ∧
  (∀ f : Bool, Takes (.mbistDone f) (fun c => c.wrap.instr = 0x10 ∧ c.wrap.mbistGo = true)
    (fun c => { c with wrap := { c.wrap with mbistGo := false, mbistDone := true, mbistFail := f } })) ∧
  (∀ (v : W64) (w : Bool) (off : Nat), Runs (.regacc v false w off) (fun _ => True) (fun c => { c with wrap := { c.wrap with
    instr := 0x11, accOff := off, accWrite := w, accData := v, accStatus := 0 } })) ∧
  (∀ (v : W64) (w : Bool) (off : Nat), Acts (.regacc v true w off) (fun _ => True) (fun c => regaccServe v w off { c with wrap := { c.wrap with
    instr := 0x11, accOff := off, accWrite := w, accData := v, accStatus := 3 } })) ∧
  (∀ (i : Nat) (w : W32), i < 65536 → Runs (.imgread i) (fun c => c.core.image[i]? = some w)
    (fun c => { c with wrap.instr := 0x12, wrap.imgIndex := i, wrap.imgWord := w.toNat })) ∧
  Takes .twWrstn (fun _ => True) (fun c => { c with wrap.instr := 0 })

/-! ## Frames -/

/-- In a core in which nothing is left to follow from an earlier command, nothing follows. -/
def Obligations.CalmCoreIsSettled : Prop :=
  ∀ c, Calm c → settle c = c

/-- The frame of instructions that write a register or a predicate (R115, R121, R122, R123): one context changes, in nothing but
the destination and the PC, once the pipe's round robin has been noted. The same for instructions that write a predicate. -/
def Obligations.InstructionFrame : Prop :=
  (∀ i ∈ registerInstrs, ∀ (o : SeqOp) (f : SeqForm) (s : State), formOf (i o) = some (o, f) → Issues o f s.chip → Calm s.chip →
    let x := ctxOf (issued o.ctx s.chip) o.ctx
    ∃ v, exec (i o) s = .next { s with chip := setCtx o.ctx { x.setReg (opRd o) v with pc := x.pc + 8 } (issued o.ctx s.chip) }) ∧
  (∀ i ∈ predicateInstrs, ∀ (o : SeqOp) (f : SeqForm) (s : State), formOf (i o) = some (o, f) → Issues o f s.chip → Calm s.chip →
    let x := ctxOf (issued o.ctx s.chip) o.ctx
    ∃ b, exec (i o) s = .next { s with chip := setCtx o.ctx { x.setPred (opRd o) b with pc := x.pc + 8 } (issued o.ctx s.chip) })

/-- The frame of ST to this core's LMEM (R116, R188): the stored bytes take the value, every other byte of LMEM reads as before,
and registers, predicates, counters and rings stay. That the store is made as the instruction issues is the model's reading (log
7). -/
def Obligations.StoreFrame : Prop :=
  ∀ (o : SeqOp) (f : SeqForm) (s : State), formOf (.st o) = some (o, f) → Issues o f s.chip → Calm s.chip →
    s.chip.lmem.ecc = [] →
    let x := ctxOf s.chip o.ctx; let a := lsAddr o x; let n := 2 ^ opSize o; let off := offOf a
    a % n = 0 → isSelf s.chip a = true → regionOf off n = some .lmem → mappedRange s.chip true off n = true →
    ∃ t, exec (.st o) s = .next t ∧
      (∀ k < n, Mem.get t.chip.lmem.mem (off + k) = BitVec.ofNat 8 ((x.reg (opRd o)).toNat / 2 ^ (8 * k))) ∧
      (∀ b, b < off ∨ off + n ≤ b → Mem.get t.chip.lmem.mem b = Mem.get s.chip.lmem.mem b) ∧
      (ctxOf t.chip o.ctx).regs = x.regs ∧ (ctxOf t.chip o.ctx).preds = x.preds ∧ (ctxOf t.chip o.ctx).pc = x.pc + 8 ∧
      t.chip.sync = s.chip.sync ∧ t.chip.ring = s.chip.ring ∧ t.chip.pages = s.chip.pages ∧ t.pending = s.pending

/-- The frame of commands that write registers of their own block (R125, R202, R253, R365, R400, R454, R472, R486, R515): from a
core in which nothing is left to follow, exactly the fields that they name change. -/
def Obligations.RegisterWriteFrame : Prop :=
  ∀ (s : State) (v : W64), Calm s.chip →
  exec .eccStatClear s = .next { s with chip := { s.chip with lmem.ceCount := 0, lmem.ueCount := 0 } } ∧
  exec (.eccInjectWrite v) s = .next { s with chip := { s.chip with
    lmem.injWord := v.toNat / 2 ^ 3 % 2 ^ 25, lmem.injBits := v.toNat / 2 ^ 32 % 2 ^ 2, lmem.injArm := v.getLsbD 63 } } ∧
  exec (.force7Write v) s = .next { s with chip := { s.chip with
    mxa.zgEn := v.getLsbD 0, mxa.force7 := v.getLsbD 1, mxa.f7Wait := true } } ∧
  exec .clrHist s = .next { s with chip := setSlot s.chip.sct.sel { slotOf s.chip s.chip.sct.sel with hist := [] } s.chip } ∧
  exec .sctStatClear s = .next { s with chip := { s.chip with sct.late := 0, sct.losstap := 0, sct.nonfin := 0 } } ∧
  exec .snapStatClear s = .next { s with chip := { s.chip with snap.teefail := 0, snap.teeIdle := 0, snap.xfreeze := 0 } } ∧
  exec (.mtbfWrite v) s = .next { s with chip := { s.chip with snap.mtbf := v.toNat % 2 ^ 32 } } ∧
  exec .timeStatClear s = .next { s with chip := { s.chip with time.missed := 0, time.discarded := 0 } } ∧
  exec (.tpulseArm v) s = .next { s with chip := { s.chip with time.next := v.toNat % 2 ^ 63, time.nextV := v.getLsbD 63 } } ∧
  exec .lguardStatClear s = .next { s with chip := { s.chip with tlk.guardDropped := 0 } } ∧
  exec .spawnFailClear s = .next { s with chip := { s.chip with seq.spawnFail := 0 } } ∧
  exec .icacheFlush s = .next { s with chip := { s.chip with seq.icache := [], seq.icacheKept := [] } } ∧
  exec .pwrRelease s = .next { s with chip := { s.chip with pwr.held := false } }

/-- In P3 only WAKE_N is seen (R468), beside the supply and the levels of pins that the model keeps: every other command,
PORST_N with them, leaves the core as it is. The model's readings: which pins keep their level (log 69), and that an overvoltage
changes nothing (log 104). -/
def Obligations.OnlyWakeInP3 : Prop :=
  ∀ i s, s.chip.core.phase = .p3 → i ∉ [.wakeN, .powerLoss, .plAckRise, .plAckFall, .uvRecover, .twWrstn, .railOutOfBand 1, .railOutOfBand 2] →
    (∀ f, i = .mbistDone f → s.chip.wrap.mbistGo = false) → exec i s = .next s

/-! ## What every step keeps -/

/-- R96, R97, R168, R179 and Table 22.5: after any step, in P0, no context waits for a condition that holds already, no KILL,
EXIT or STOP waits for nothing, and none runs past a quiesce request of the SEQ page. -/
def Obligations.EveryStepSettles : Prop :=
  ∀ s t, step s = .next t → AllSettled t

/-- Reset is settled: that is, also as the core will find its contexts in P0. -/
def Obligations.SettledAtReset : Prop :=
  AllSettled State.reset ∧ SMap.wf Ctx.idle State.reset.chip.seq.ctxs = true ∧
  ∀ p ∈ State.reset.chip.seq.ctxs, p.2.Settled State.reset.chip

/-! ## Words of the sequencer -/

/-- Every well-formed sequencer instruction is read back from its word, with every operand (Tables 4.6 to 4.14). -/
def Obligations.SequencerWordsRoundTrip : Prop :=
  ∀ i o f w, Instr.wf i = true → formOf i = some (o, f) → seqEncode i = some w → seqDecode o.ctx w = some i

/-- No word loses a bit: a word that is read as an instruction is that instruction's word (Tables 4.6 and 4.7). -/
def Obligations.SequencerWordsKeepEveryBit : Prop :=
  ∀ n w i, seqDecode n w = some i → seqEncode i = some w
end

