-- ==== Sys2Proof/Laws/Sparse.lean ====
section
/-! SUPPORT. Laws of sparse tables and byte memory: what reads after a write, what a write leaves alone, and that every operation
keeps the canonical form. -/

namespace Sys2Proof.Machine

variable {α : Type}

@[simp] theorem SMap.get_nil (d : α) (n : Nat) : SMap.get d [] n = d := rfl

theorem SMap.get_insert_same (d v : α) (m : SMap α) (n : Nat) : SMap.get d (SMap.insert v m n) n = v := by
  induction m with
  | nil => simp [SMap.insert, SMap.get]
  | cons p m ih =>
    obtain ⟨k, w⟩ := p
    unfold SMap.insert
    split
    · simp [SMap.get]
    · split
      · simp [SMap.get]
      · rename_i h; simp [SMap.get, h, ih]

theorem SMap.get_insert_other (d v : α) (m : SMap α) {n k : Nat} (h : k ≠ n) :
    SMap.get d (SMap.insert v m n) k = SMap.get d m k := by
  induction m with
  | nil => simp [SMap.insert, SMap.get, Ne.symm h]
  | cons p m ih =>
    obtain ⟨j, w⟩ := p
    unfold SMap.insert
    split
    · simp [SMap.get, Ne.symm h]
    · split
      · rename_i h2; simp [SMap.get, Ne.symm h, h2]
      · simp [SMap.get, ih]

theorem SMap.get_erase_other (d : α) (m : SMap α) {n k : Nat} (h : k ≠ n) :
    SMap.get d (SMap.erase m n) k = SMap.get d m k := by
  induction m with
  | nil => rfl
  | cons p m ih =>
    obtain ⟨j, w⟩ := p
    unfold SMap.erase
    split
    · rename_i h2; simp [SMap.get, h2, Ne.symm h, ih]
    · simp [SMap.get, ih]

theorem SMap.get_below [DecidableEq α] (d : α) (m : SMap α) {lo n : Nat} (hw : SMap.wfFrom d lo m = true) (h : n < lo) :
    SMap.get d m n = d := by
  induction m generalizing lo with
  | nil => rfl
  | cons p m ih =>
    obtain ⟨j, w⟩ := p
    simp only [SMap.wfFrom, Bool.and_eq_true, decide_eq_true_eq] at hw
    have hj : j ≠ n := by omega
    simp [SMap.get, hj, ih hw.2 (by omega)]

theorem SMap.get_erase_same (d : α) (m : SMap α) (n : Nat) : SMap.get d (SMap.erase m n) n = d := by
  induction m with
  | nil => rfl
  | cons p m ih =>
    obtain ⟨j, w⟩ := p
    unfold SMap.erase
    split
    · exact ih
    · rename_i h; simp [SMap.get, h, ih]

/-- A write reads back. -/
theorem SMap.get_set_same [DecidableEq α] (d v : α) (m : SMap α) (n : Nat) : SMap.get d (SMap.set d m n v) n = v := by
  unfold SMap.set
  split
  · rename_i h; rw [h]; exact SMap.get_erase_same d m n
  · exact SMap.get_insert_same d v m n

/-- A write leaves every other key alone. -/
theorem SMap.get_set_other [DecidableEq α] (d v : α) (m : SMap α) {n k : Nat} (h : k ≠ n) :
    SMap.get d (SMap.set d m n v) k = SMap.get d m k := by
  unfold SMap.set
  split
  · exact SMap.get_erase_other d m h
  · exact SMap.get_insert_other d v m h

theorem SMap.insert_insert (v w : α) (m : SMap α) (n : Nat) : SMap.insert w (SMap.insert v m n) n = SMap.insert w m n := by
  induction m with
  | nil => simp [SMap.insert]
  | cons p m ih =>
    obtain ⟨k, x⟩ := p
    by_cases h1 : n < k
    · simp [SMap.insert, h1]
    · by_cases h2 : k = n
      · simp [SMap.insert, h2]
      · simp [SMap.insert, h1, h2, ih]

theorem SMap.erase_insert (v : α) (m : SMap α) (n : Nat) : SMap.erase (SMap.insert v m n) n = SMap.erase m n := by
  induction m with
  | nil => simp [SMap.insert, SMap.erase]
  | cons p m ih =>
    obtain ⟨k, x⟩ := p
    by_cases h1 : n < k
    · simp [SMap.insert, SMap.erase, h1]
    · by_cases h2 : k = n
      · simp [SMap.insert, SMap.erase, h2]
      · simp [SMap.insert, SMap.erase, h1, h2, ih]

/-- Of two writes to a key, the first of another value than the default, the second stays. -/
theorem SMap.set_set [DecidableEq α] (d v w : α) (m : SMap α) (n : Nat) (h : v ≠ d) :
    SMap.set d (SMap.set d m n v) n w = SMap.set d m n w := by
  unfold SMap.set
  rw [if_neg h]
  split
  · exact SMap.erase_insert v m n
  · exact SMap.insert_insert v w m n

/-- What is read is the default or is listed. -/
theorem SMap.get_mem (d : α) (m : SMap α) (n : Nat) : SMap.get d m n = d ∨ (n, SMap.get d m n) ∈ m := by
  induction m with
  | nil => exact .inl rfl
  | cons p m ih =>
    obtain ⟨k, v⟩ := p
    by_cases h : k = n
    · subst h; simp [SMap.get]
    · simp only [SMap.get, h, if_false]
      exact ih.imp_right (List.mem_cons_of_mem _)

theorem SMap.wfFrom_mono [DecidableEq α] (d : α) (m : SMap α) {lo lo' : Nat} (h : lo ≤ lo') (hw : SMap.wfFrom d lo' m = true) :
    SMap.wfFrom d lo m = true := by
  cases m with
  | nil => rfl
  | cons p m =>
    obtain ⟨k, v⟩ := p
    simp only [SMap.wfFrom, Bool.and_eq_true, decide_eq_true_eq] at hw ⊢
    exact ⟨⟨by omega, hw.1.2⟩, hw.2⟩

theorem SMap.wfFrom_insert [DecidableEq α] (d v : α) (m : SMap α) {lo n : Nat} (hv : v ≠ d) (hn : lo ≤ n)
    (hw : SMap.wfFrom d lo m = true) : SMap.wfFrom d lo (SMap.insert v m n) = true := by
  induction m generalizing lo with
  | nil => simp [SMap.insert, SMap.wfFrom, hv, hn]
  | cons p m ih =>
    obtain ⟨k, w⟩ := p
    simp only [SMap.wfFrom, Bool.and_eq_true, decide_eq_true_eq] at hw
    unfold SMap.insert
    split
    · rename_i h
      simp only [SMap.wfFrom, Bool.and_eq_true, decide_eq_true_eq]
      exact ⟨⟨hn, by simp [hv]⟩, ⟨by omega, hw.1.2⟩, hw.2⟩
    · split
      · rename_i h; subst h
        simp only [SMap.wfFrom, Bool.and_eq_true, decide_eq_true_eq]
        exact ⟨⟨hn, by simp [hv]⟩, hw.2⟩
      · simp only [SMap.wfFrom, Bool.and_eq_true, decide_eq_true_eq]
        exact ⟨hw.1, ih (by omega) hw.2⟩

theorem SMap.wfFrom_erase [DecidableEq α] (d : α) (m : SMap α) {lo : Nat} (n : Nat) (hw : SMap.wfFrom d lo m = true) :
    SMap.wfFrom d lo (SMap.erase m n) = true := by
  induction m generalizing lo with
  | nil => rfl
  | cons p m ih =>
    obtain ⟨k, w⟩ := p
    simp only [SMap.wfFrom, Bool.and_eq_true, decide_eq_true_eq] at hw
    unfold SMap.erase
    split
    · exact SMap.wfFrom_mono d _ (by omega) (ih hw.2)
    · simp only [SMap.wfFrom, Bool.and_eq_true, decide_eq_true_eq]
      exact ⟨hw.1, ih hw.2⟩

/-- A write keeps the canonical form. -/
theorem SMap.wf_set [DecidableEq α] (d v : α) (m : SMap α) (n : Nat) (hw : SMap.wf d m = true) :
    SMap.wf d (SMap.set d m n v) = true := by
  unfold SMap.set
  split
  · exact SMap.wfFrom_erase d m n hw
  · rename_i h; exact SMap.wfFrom_insert d v m h (Nat.zero_le n) hw

/-- Applying a function to the listed values leaves a table in its canonical form. -/
theorem SMap.wf_mapVal [DecidableEq α] (d : α) (f : Nat → α → α) (m : SMap α) : SMap.wf d (SMap.mapVal d f m) = true := by
  induction m with
  | nil => rfl
  | cons p m ih => exact SMap.wf_set _ _ _ _ ih

theorem SMap.mem_erase {m : SMap α} {n : Nat} {p : Nat × α} (h : p ∈ SMap.erase m n) : p ∈ m := by
  induction m with
  | nil => exact h
  | cons q m ih =>
    obtain ⟨k, w⟩ := q
    unfold SMap.erase at h
    split at h
    · exact List.mem_cons_of_mem _ (ih h)
    · rcases List.mem_cons.1 h with h | h
      · exact h ▸ List.mem_cons_self ..
      · exact List.mem_cons_of_mem _ (ih h)

theorem SMap.mem_insert {v : α} {m : SMap α} {n : Nat} {p : Nat × α} (h : p ∈ SMap.insert v m n) : p = (n, v) ∨ p ∈ m := by
  induction m with
  | nil => simpa [SMap.insert] using h
  | cons q m ih =>
    obtain ⟨k, w⟩ := q
    unfold SMap.insert at h
    split at h
    · simpa using h
    · split at h
      · rcases List.mem_cons.1 h with h | h
        · exact .inl h
        · exact .inr (List.mem_cons_of_mem _ h)
      · rcases List.mem_cons.1 h with h | h
        · exact .inr (by simp [h])
        · exact (ih h).imp_right (List.mem_cons_of_mem _)

/-- What is listed after a write is what was written or was listed before. -/
theorem SMap.mem_set [DecidableEq α] {d v : α} {m : SMap α} {n : Nat} {p : Nat × α} (h : p ∈ SMap.set d m n v) :
    p = (n, v) ∨ p ∈ m := by
  unfold SMap.set at h
  split at h
  · exact .inr (SMap.mem_erase h)
  · exact SMap.mem_insert h

/-- What is listed after a map was listed before it. -/
theorem SMap.mem_mapVal [DecidableEq α] (d : α) (f : Nat → α → α) (m : SMap α) {p : Nat × α} (h : p ∈ SMap.mapVal d f m) :
    ∃ v, (p.1, v) ∈ m ∧ p.2 = f p.1 v := by
  induction m with
  | nil => exact absurd h (by simp [SMap.mapVal])
  | cons q m ih =>
    obtain ⟨k, w⟩ := q
    rcases SMap.mem_set h with rfl | h
    · exact ⟨w, by simp, rfl⟩
    · obtain ⟨v, hv, e⟩ := ih h; exact ⟨v, List.mem_cons_of_mem _ hv, e⟩

/-- What a table reads as after a map: the function of what it read as before, if the function keeps the default. -/
theorem SMap.get_mapVal [DecidableEq α] (d : α) (f : Nat → α → α) (m : SMap α) (n : Nat) (hd : f n d = d) :
    SMap.get d (SMap.mapVal d f m) n = f n (SMap.get d m n) := by
  induction m with
  | nil => exact hd.symm
  | cons p m ih =>
    obtain ⟨k, w⟩ := p
    unfold SMap.mapVal
    by_cases h : k = n
    · subst h
      rw [SMap.get_set_same]
      simp [SMap.get]
    · rw [SMap.get_set_other _ _ _ (Ne.symm h), ih]
      simp [SMap.get, h]

/-! ## Byte memory -/

/-- A byte written reads back. -/
theorem Mem.get_set_same (m : Mem) (a : Nat) (b : Byte) : Mem.get (Mem.set m a b) a = b := SMap.get_set_same _ _ _ _

/-- A byte written leaves every other byte alone. -/
theorem Mem.get_set_other (m : Mem) {a a' : Nat} (b : Byte) (h : a' ≠ a) : Mem.get (Mem.set m a b) a' = Mem.get m a' :=
  SMap.get_set_other _ _ _ h

/-- A byte write keeps the canonical form. -/
theorem Mem.wf_set (m : Mem) (a : Nat) (b : Byte) (hw : Memory.wf m = true) : Memory.wf (Mem.set m a b) = true :=
  SMap.wf_set _ _ _ _ hw

/-- A write of consecutive bytes keeps the canonical form. -/
theorem Mem.wf_write (m : Mem) (a : Nat) (bs : List Byte) (hw : Memory.wf m = true) : Memory.wf (Mem.write m a bs) = true := by
  induction bs generalizing m a with
  | nil => exact hw
  | cons b bs ih => exact ih _ _ (Mem.wf_set m a b hw)

/-- Writes of cells keep the canonical form. -/
theorem Mem.wf_foldl (m : Mem) (cells : List (Nat × Byte)) (hw : Memory.wf m = true) :
    Memory.wf (cells.foldl (fun m p => Mem.set m p.1 p.2) m) = true := by
  induction cells generalizing m with
  | nil => exact hw
  | cons p ps ih => exact ih _ (Mem.wf_set m p.1 p.2 hw)

/-- Writes of cells leave every other byte alone. -/
theorem Mem.get_foldl_other (m : Mem) (cells : List (Nat × Byte)) (a : Nat) (h : ∀ p ∈ cells, p.1 ≠ a) :
    Mem.get (cells.foldl (fun m p => Mem.set m p.1 p.2) m) a = Mem.get m a := by
  induction cells generalizing m with
  | nil => rfl
  | cons p ps ih =>
    rw [List.foldl_cons, ih _ (fun q hq => h q (List.mem_cons_of_mem _ hq)), Mem.get_set_other _ _ (Ne.symm (h p (by simp)))]

/-- A cell written last at its address reads back. -/
theorem Mem.get_foldl_mem (m : Mem) (cells : List (Nat × Byte)) (a : Nat) (b : Byte)
    (hu : ∀ p ∈ cells, p.1 = a → p.2 = b) (hm : ∃ p ∈ cells, p.1 = a) :
    Mem.get (cells.foldl (fun m p => Mem.set m p.1 p.2) m) a = b := by
  induction cells generalizing m with
  | nil => obtain ⟨p, hp, _⟩ := hm; simp at hp
  | cons p ps ih =>
    rw [List.foldl_cons]
    by_cases hq : ∃ q ∈ ps, q.1 = a
    · exact ih _ (fun q h => hu q (List.mem_cons_of_mem _ h)) hq
    · have hn : ∀ q ∈ ps, q.1 ≠ a := fun q h e => hq ⟨q, h, e⟩
      rw [Mem.get_foldl_other _ _ _ hn]
      obtain ⟨r, hr, hra⟩ := hm
      rcases List.mem_cons.mp hr with rfl | h
      · rw [← hra, Mem.get_set_same]; exact hu r (by simp) hra
      · exact absurd hra (hn r h)

end Sys2Proof.Machine
end

