-- ==== Sys2Proof/Laws/State.lean ====
section
/-! SUPPORT. Laws of the operations that change one part of the core: what reads after an update, and every field that an update
leaves alone. -/

namespace Sys2Proof.Machine

/-! ## What reads after an update -/

@[simp] theorem ctxOf_setCtx (n : Nat) (x : Ctx) (c : Chip) : ctxOf (setCtx n x c) n = x := SMap.get_set_same _ _ _ _
theorem ctxOf_setCtx_other {n k : Nat} (x : Ctx) (c : Chip) (h : k ≠ n) : ctxOf (setCtx n x c) k = ctxOf c k :=
  SMap.get_set_other _ _ _ h
@[simp] theorem ctxOf_updCtx (n : Nat) (f : Ctx → Ctx) (c : Chip) : ctxOf (updCtx n f c) n = f (ctxOf c n) := ctxOf_setCtx _ _ _
theorem ctxOf_updCtx_other {n k : Nat} (f : Ctx → Ctx) (c : Chip) (h : k ≠ n) : ctxOf (updCtx n f c) k = ctxOf c k :=
  ctxOf_setCtx_other _ _ h
/-- Of two writes to a context, the second stays. -/
theorem setCtx_setCtx (n : Nat) (x y : Ctx) (c : Chip) (h : x ≠ Ctx.idle) : setCtx n y (setCtx n x c) = setCtx n y c := by
  simp [setCtx, SMap.set_set _ _ _ _ _ h]
@[simp] theorem ringOf_setRing (n : Nat) (x : Ring) (c : Chip) : ringOf (setRing n x c) n = x := SMap.get_set_same _ _ _ _
theorem ringOf_setRing_other {n k : Nat} (x : Ring) (c : Chip) (h : k ≠ n) : ringOf (setRing n x c) k = ringOf c k :=
  SMap.get_set_other _ _ _ h
@[simp] theorem ringOf_updRing (n : Nat) (f : Ring → Ring) (c : Chip) : ringOf (updRing n f c) n = f (ringOf c n) :=
  ringOf_setRing _ _ _
theorem ringOf_updRing_other {n k : Nat} (f : Ring → Ring) (c : Chip) (h : k ≠ n) : ringOf (updRing n f c) k = ringOf c k :=
  ringOf_setRing_other _ _ h
@[simp] theorem ctrOf_setCtr (n : Nat) (x : Ctr) (c : Chip) : ctrOf (setCtr n x c) n = x := SMap.get_set_same _ _ _ _
theorem ctrOf_setCtr_other {n k : Nat} (x : Ctr) (c : Chip) (h : k ≠ n) : ctrOf (setCtr n x c) k = ctrOf c k :=
  SMap.get_set_other _ _ _ h
@[simp] theorem pageOf_updPage (p : Nat) (f : PageHdr → PageHdr) (c : Chip) : pageOf (updPage p f c) p = f (pageOf c p) :=
  SMap.get_set_same _ _ _ _
theorem pageOf_updPage_other {p k : Nat} (f : PageHdr → PageHdr) (c : Chip) (h : k ≠ p) : pageOf (updPage p f c) k = pageOf c k :=
  SMap.get_set_other _ _ _ h
@[simp] theorem portOf_updPort (n : Nat) (f : Port → Port) (c : Chip) : portOf (updPort n f c) n = f (portOf c n) :=
  SMap.get_set_same _ _ _ _
theorem portOf_updPort_other {n k : Nat} (f : Port → Port) (c : Chip) (h : k ≠ n) : portOf (updPort n f c) k = portOf c k :=
  SMap.get_set_other _ _ _ h
@[simp] theorem barOf_updBar (l : Nat) (f : Line → Line) (c : Chip) : barOf (updBar l f c) l = f (barOf c l) :=
  SMap.get_set_same _ _ _ _
@[simp] theorem traceOf_updTrace (r : Nat) (f : Trace → Trace) (c : Chip) : traceOf (updTrace r f c) r = f (traceOf c r) :=
  SMap.get_set_same _ _ _ _
@[simp] theorem bankOf_updBank (b : Nat) (f : Bank → Bank) (c : Chip) : bankOf (updBank b f c) b = f (bankOf c b) :=
  SMap.get_set_same _ _ _ _
@[simp] theorem slotOf_setSlot (n : Nat) (x : SctSlot) (c : Chip) : slotOf (setSlot n x c) n = x := SMap.get_set_same _ _ _ _
@[simp] theorem rgnOf_setRgn (g : Nat) (x : Rgn) (c : Chip) : rgnOf (setRgn g x c) g = x := SMap.get_set_same _ _ _ _
@[simp] theorem streamOf_setStream (s : Nat) (x : Stream) (c : Chip) : streamOf (setStream s x c) s = x := SMap.get_set_same _ _ _ _

/-- A context stands as it stood once one of its instructions has issued. -/
@[simp] theorem ctxOf_issued (c : Chip) (n : Nat) : ctxOf (issued n c) n = ctxOf c n := by
  unfold ctxOf issued
  simp only
  rw [SMap.get_mapVal Ctx.idle _ _ n (by simp)]
  simp

/-! ## What an update leaves alone -/

@[simp] theorem setCtx_pages (n : Nat) (x : Ctx) (c : Chip) : (setCtx n x c).pages = c.pages := rfl
@[simp] theorem setCtx_ring (n : Nat) (x : Ctx) (c : Chip) : (setCtx n x c).ring = c.ring := rfl
@[simp] theorem setCtx_sync (n : Nat) (x : Ctx) (c : Chip) : (setCtx n x c).sync = c.sync := rfl
@[simp] theorem setCtx_time (n : Nat) (x : Ctx) (c : Chip) : (setCtx n x c).time = c.time := rfl
@[simp] theorem setCtx_lmem (n : Nat) (x : Ctx) (c : Chip) : (setCtx n x c).lmem = c.lmem := rfl
@[simp] theorem setCtx_tlk (n : Nat) (x : Ctx) (c : Chip) : (setCtx n x c).tlk = c.tlk := rfl
@[simp] theorem setCtx_hport (n : Nat) (x : Ctx) (c : Chip) : (setCtx n x c).hport = c.hport := rfl
@[simp] theorem setCtx_rdu (n : Nat) (x : Ctx) (c : Chip) : (setCtx n x c).rdu = c.rdu := rfl
@[simp] theorem setCtx_core (n : Nat) (x : Ctx) (c : Chip) : (setCtx n x c).core = c.core := rfl
@[simp] theorem setCtx_pwr (n : Nat) (x : Ctx) (c : Chip) : (setCtx n x c).pwr = c.pwr := rfl
@[simp] theorem setCtx_wrap (n : Nat) (x : Ctx) (c : Chip) : (setCtx n x c).wrap = c.wrap := rfl
@[simp] theorem setCtx_dma (n : Nat) (x : Ctx) (c : Chip) : (setCtx n x c).dma = c.dma := rfl
@[simp] theorem setCtx_xpb (n : Nat) (x : Ctx) (c : Chip) : (setCtx n x c).xpb = c.xpb := rfl
@[simp] theorem setCtx_wvm (n : Nat) (x : Ctx) (c : Chip) : (setCtx n x c).wvm = c.wvm := rfl
@[simp] theorem setCtx_mxa (n : Nat) (x : Ctx) (c : Chip) : (setCtx n x c).mxa = c.mxa := rfl
@[simp] theorem setCtx_drn (n : Nat) (x : Ctx) (c : Chip) : (setCtx n x c).drn = c.drn := rfl
@[simp] theorem setCtx_mvp (n : Nat) (x : Ctx) (c : Chip) : (setCtx n x c).mvp = c.mvp := rfl
@[simp] theorem setCtx_sct (n : Nat) (x : Ctx) (c : Chip) : (setCtx n x c).sct = c.sct := rfl
@[simp] theorem setCtx_vec (n : Nat) (x : Ctx) (c : Chip) : (setCtx n x c).vec = c.vec := rfl
@[simp] theorem setCtx_snap (n : Nat) (x : Ctx) (c : Chip) : (setCtx n x c).snap = c.snap := rfl
@[simp] theorem setCtx_events (n : Nat) (x : Ctx) (c : Chip) : (setCtx n x c).events = c.events := rfl
@[simp] theorem setCtx_firsts (n : Nat) (x : Ctx) (c : Chip) : (setCtx n x c).firsts = c.firsts := rfl
@[simp] theorem setCtx_outbox (n : Nat) (x : Ctx) (c : Chip) : (setCtx n x c).outbox = c.outbox := rfl
@[simp] theorem setCtx_free (n : Nat) (x : Ctx) (c : Chip) : (setCtx n x c).free = c.free := rfl

@[simp] theorem updCtx_pages (n : Nat) (f : Ctx → Ctx) (c : Chip) : (updCtx n f c).pages = c.pages := rfl
@[simp] theorem updCtx_ring (n : Nat) (f : Ctx → Ctx) (c : Chip) : (updCtx n f c).ring = c.ring := rfl
@[simp] theorem updCtx_sync (n : Nat) (f : Ctx → Ctx) (c : Chip) : (updCtx n f c).sync = c.sync := rfl
@[simp] theorem updCtx_time (n : Nat) (f : Ctx → Ctx) (c : Chip) : (updCtx n f c).time = c.time := rfl
@[simp] theorem updCtx_lmem (n : Nat) (f : Ctx → Ctx) (c : Chip) : (updCtx n f c).lmem = c.lmem := rfl
@[simp] theorem updCtx_tlk (n : Nat) (f : Ctx → Ctx) (c : Chip) : (updCtx n f c).tlk = c.tlk := rfl
@[simp] theorem updCtx_hport (n : Nat) (f : Ctx → Ctx) (c : Chip) : (updCtx n f c).hport = c.hport := rfl
@[simp] theorem updCtx_rdu (n : Nat) (f : Ctx → Ctx) (c : Chip) : (updCtx n f c).rdu = c.rdu := rfl
@[simp] theorem updCtx_core (n : Nat) (f : Ctx → Ctx) (c : Chip) : (updCtx n f c).core = c.core := rfl
@[simp] theorem updCtx_pwr (n : Nat) (f : Ctx → Ctx) (c : Chip) : (updCtx n f c).pwr = c.pwr := rfl
@[simp] theorem updCtx_wrap (n : Nat) (f : Ctx → Ctx) (c : Chip) : (updCtx n f c).wrap = c.wrap := rfl
@[simp] theorem updCtx_dma (n : Nat) (f : Ctx → Ctx) (c : Chip) : (updCtx n f c).dma = c.dma := rfl
@[simp] theorem updCtx_xpb (n : Nat) (f : Ctx → Ctx) (c : Chip) : (updCtx n f c).xpb = c.xpb := rfl
@[simp] theorem updCtx_wvm (n : Nat) (f : Ctx → Ctx) (c : Chip) : (updCtx n f c).wvm = c.wvm := rfl
@[simp] theorem updCtx_mxa (n : Nat) (f : Ctx → Ctx) (c : Chip) : (updCtx n f c).mxa = c.mxa := rfl
@[simp] theorem updCtx_drn (n : Nat) (f : Ctx → Ctx) (c : Chip) : (updCtx n f c).drn = c.drn := rfl
@[simp] theorem updCtx_mvp (n : Nat) (f : Ctx → Ctx) (c : Chip) : (updCtx n f c).mvp = c.mvp := rfl
@[simp] theorem updCtx_sct (n : Nat) (f : Ctx → Ctx) (c : Chip) : (updCtx n f c).sct = c.sct := rfl
@[simp] theorem updCtx_vec (n : Nat) (f : Ctx → Ctx) (c : Chip) : (updCtx n f c).vec = c.vec := rfl
@[simp] theorem updCtx_snap (n : Nat) (f : Ctx → Ctx) (c : Chip) : (updCtx n f c).snap = c.snap := rfl
@[simp] theorem updCtx_events (n : Nat) (f : Ctx → Ctx) (c : Chip) : (updCtx n f c).events = c.events := rfl
@[simp] theorem updCtx_firsts (n : Nat) (f : Ctx → Ctx) (c : Chip) : (updCtx n f c).firsts = c.firsts := rfl
@[simp] theorem updCtx_outbox (n : Nat) (f : Ctx → Ctx) (c : Chip) : (updCtx n f c).outbox = c.outbox := rfl
@[simp] theorem updCtx_free (n : Nat) (f : Ctx → Ctx) (c : Chip) : (updCtx n f c).free = c.free := rfl

@[simp] theorem setRing_pages (n : Nat) (x : Ring) (c : Chip) : (setRing n x c).pages = c.pages := rfl
@[simp] theorem setRing_seq (n : Nat) (x : Ring) (c : Chip) : (setRing n x c).seq = c.seq := rfl
@[simp] theorem setRing_sync (n : Nat) (x : Ring) (c : Chip) : (setRing n x c).sync = c.sync := rfl
@[simp] theorem setRing_time (n : Nat) (x : Ring) (c : Chip) : (setRing n x c).time = c.time := rfl
@[simp] theorem setRing_lmem (n : Nat) (x : Ring) (c : Chip) : (setRing n x c).lmem = c.lmem := rfl
@[simp] theorem setRing_tlk (n : Nat) (x : Ring) (c : Chip) : (setRing n x c).tlk = c.tlk := rfl
@[simp] theorem setRing_hport (n : Nat) (x : Ring) (c : Chip) : (setRing n x c).hport = c.hport := rfl
@[simp] theorem setRing_rdu (n : Nat) (x : Ring) (c : Chip) : (setRing n x c).rdu = c.rdu := rfl
@[simp] theorem setRing_core (n : Nat) (x : Ring) (c : Chip) : (setRing n x c).core = c.core := rfl
@[simp] theorem setRing_pwr (n : Nat) (x : Ring) (c : Chip) : (setRing n x c).pwr = c.pwr := rfl
@[simp] theorem setRing_wrap (n : Nat) (x : Ring) (c : Chip) : (setRing n x c).wrap = c.wrap := rfl
@[simp] theorem setRing_dma (n : Nat) (x : Ring) (c : Chip) : (setRing n x c).dma = c.dma := rfl
@[simp] theorem setRing_xpb (n : Nat) (x : Ring) (c : Chip) : (setRing n x c).xpb = c.xpb := rfl
@[simp] theorem setRing_wvm (n : Nat) (x : Ring) (c : Chip) : (setRing n x c).wvm = c.wvm := rfl
@[simp] theorem setRing_mxa (n : Nat) (x : Ring) (c : Chip) : (setRing n x c).mxa = c.mxa := rfl
@[simp] theorem setRing_drn (n : Nat) (x : Ring) (c : Chip) : (setRing n x c).drn = c.drn := rfl
@[simp] theorem setRing_mvp (n : Nat) (x : Ring) (c : Chip) : (setRing n x c).mvp = c.mvp := rfl
@[simp] theorem setRing_sct (n : Nat) (x : Ring) (c : Chip) : (setRing n x c).sct = c.sct := rfl
@[simp] theorem setRing_vec (n : Nat) (x : Ring) (c : Chip) : (setRing n x c).vec = c.vec := rfl
@[simp] theorem setRing_snap (n : Nat) (x : Ring) (c : Chip) : (setRing n x c).snap = c.snap := rfl
@[simp] theorem setRing_events (n : Nat) (x : Ring) (c : Chip) : (setRing n x c).events = c.events := rfl
@[simp] theorem setRing_firsts (n : Nat) (x : Ring) (c : Chip) : (setRing n x c).firsts = c.firsts := rfl
@[simp] theorem setRing_outbox (n : Nat) (x : Ring) (c : Chip) : (setRing n x c).outbox = c.outbox := rfl
@[simp] theorem setRing_free (n : Nat) (x : Ring) (c : Chip) : (setRing n x c).free = c.free := rfl

@[simp] theorem updRing_pages (n : Nat) (f : Ring → Ring) (c : Chip) : (updRing n f c).pages = c.pages := rfl
@[simp] theorem updRing_seq (n : Nat) (f : Ring → Ring) (c : Chip) : (updRing n f c).seq = c.seq := rfl
@[simp] theorem updRing_sync (n : Nat) (f : Ring → Ring) (c : Chip) : (updRing n f c).sync = c.sync := rfl
@[simp] theorem updRing_time (n : Nat) (f : Ring → Ring) (c : Chip) : (updRing n f c).time = c.time := rfl
@[simp] theorem updRing_lmem (n : Nat) (f : Ring → Ring) (c : Chip) : (updRing n f c).lmem = c.lmem := rfl
@[simp] theorem updRing_tlk (n : Nat) (f : Ring → Ring) (c : Chip) : (updRing n f c).tlk = c.tlk := rfl
@[simp] theorem updRing_hport (n : Nat) (f : Ring → Ring) (c : Chip) : (updRing n f c).hport = c.hport := rfl
@[simp] theorem updRing_rdu (n : Nat) (f : Ring → Ring) (c : Chip) : (updRing n f c).rdu = c.rdu := rfl
@[simp] theorem updRing_core (n : Nat) (f : Ring → Ring) (c : Chip) : (updRing n f c).core = c.core := rfl
@[simp] theorem updRing_pwr (n : Nat) (f : Ring → Ring) (c : Chip) : (updRing n f c).pwr = c.pwr := rfl
@[simp] theorem updRing_wrap (n : Nat) (f : Ring → Ring) (c : Chip) : (updRing n f c).wrap = c.wrap := rfl
@[simp] theorem updRing_dma (n : Nat) (f : Ring → Ring) (c : Chip) : (updRing n f c).dma = c.dma := rfl
@[simp] theorem updRing_xpb (n : Nat) (f : Ring → Ring) (c : Chip) : (updRing n f c).xpb = c.xpb := rfl
@[simp] theorem updRing_wvm (n : Nat) (f : Ring → Ring) (c : Chip) : (updRing n f c).wvm = c.wvm := rfl
@[simp] theorem updRing_mxa (n : Nat) (f : Ring → Ring) (c : Chip) : (updRing n f c).mxa = c.mxa := rfl
@[simp] theorem updRing_drn (n : Nat) (f : Ring → Ring) (c : Chip) : (updRing n f c).drn = c.drn := rfl
@[simp] theorem updRing_mvp (n : Nat) (f : Ring → Ring) (c : Chip) : (updRing n f c).mvp = c.mvp := rfl
@[simp] theorem updRing_sct (n : Nat) (f : Ring → Ring) (c : Chip) : (updRing n f c).sct = c.sct := rfl
@[simp] theorem updRing_vec (n : Nat) (f : Ring → Ring) (c : Chip) : (updRing n f c).vec = c.vec := rfl
@[simp] theorem updRing_snap (n : Nat) (f : Ring → Ring) (c : Chip) : (updRing n f c).snap = c.snap := rfl
@[simp] theorem updRing_events (n : Nat) (f : Ring → Ring) (c : Chip) : (updRing n f c).events = c.events := rfl
@[simp] theorem updRing_firsts (n : Nat) (f : Ring → Ring) (c : Chip) : (updRing n f c).firsts = c.firsts := rfl
@[simp] theorem updRing_outbox (n : Nat) (f : Ring → Ring) (c : Chip) : (updRing n f c).outbox = c.outbox := rfl
@[simp] theorem updRing_free (n : Nat) (f : Ring → Ring) (c : Chip) : (updRing n f c).free = c.free := rfl

@[simp] theorem putDesc_pages (n : Nat) (d : Desc) (c : Chip) : (putDesc n d c).pages = c.pages := rfl
@[simp] theorem putDesc_seq (n : Nat) (d : Desc) (c : Chip) : (putDesc n d c).seq = c.seq := rfl
@[simp] theorem putDesc_sync (n : Nat) (d : Desc) (c : Chip) : (putDesc n d c).sync = c.sync := rfl
@[simp] theorem putDesc_time (n : Nat) (d : Desc) (c : Chip) : (putDesc n d c).time = c.time := rfl
@[simp] theorem putDesc_lmem (n : Nat) (d : Desc) (c : Chip) : (putDesc n d c).lmem = c.lmem := rfl
@[simp] theorem putDesc_tlk (n : Nat) (d : Desc) (c : Chip) : (putDesc n d c).tlk = c.tlk := rfl
@[simp] theorem putDesc_hport (n : Nat) (d : Desc) (c : Chip) : (putDesc n d c).hport = c.hport := rfl
@[simp] theorem putDesc_rdu (n : Nat) (d : Desc) (c : Chip) : (putDesc n d c).rdu = c.rdu := rfl
@[simp] theorem putDesc_core (n : Nat) (d : Desc) (c : Chip) : (putDesc n d c).core = c.core := rfl
@[simp] theorem putDesc_pwr (n : Nat) (d : Desc) (c : Chip) : (putDesc n d c).pwr = c.pwr := rfl
@[simp] theorem putDesc_wrap (n : Nat) (d : Desc) (c : Chip) : (putDesc n d c).wrap = c.wrap := rfl
@[simp] theorem putDesc_dma (n : Nat) (d : Desc) (c : Chip) : (putDesc n d c).dma = c.dma := rfl
@[simp] theorem putDesc_xpb (n : Nat) (d : Desc) (c : Chip) : (putDesc n d c).xpb = c.xpb := rfl
@[simp] theorem putDesc_wvm (n : Nat) (d : Desc) (c : Chip) : (putDesc n d c).wvm = c.wvm := rfl
@[simp] theorem putDesc_mxa (n : Nat) (d : Desc) (c : Chip) : (putDesc n d c).mxa = c.mxa := rfl
@[simp] theorem putDesc_drn (n : Nat) (d : Desc) (c : Chip) : (putDesc n d c).drn = c.drn := rfl
@[simp] theorem putDesc_mvp (n : Nat) (d : Desc) (c : Chip) : (putDesc n d c).mvp = c.mvp := rfl
@[simp] theorem putDesc_sct (n : Nat) (d : Desc) (c : Chip) : (putDesc n d c).sct = c.sct := rfl
@[simp] theorem putDesc_vec (n : Nat) (d : Desc) (c : Chip) : (putDesc n d c).vec = c.vec := rfl
@[simp] theorem putDesc_snap (n : Nat) (d : Desc) (c : Chip) : (putDesc n d c).snap = c.snap := rfl
@[simp] theorem putDesc_events (n : Nat) (d : Desc) (c : Chip) : (putDesc n d c).events = c.events := rfl
@[simp] theorem putDesc_firsts (n : Nat) (d : Desc) (c : Chip) : (putDesc n d c).firsts = c.firsts := rfl
@[simp] theorem putDesc_outbox (n : Nat) (d : Desc) (c : Chip) : (putDesc n d c).outbox = c.outbox := rfl
@[simp] theorem putDesc_free (n : Nat) (d : Desc) (c : Chip) : (putDesc n d c).free = c.free := rfl

@[simp] theorem setCtr_pages (n : Nat) (x : Ctr) (c : Chip) : (setCtr n x c).pages = c.pages := rfl
@[simp] theorem setCtr_seq (n : Nat) (x : Ctr) (c : Chip) : (setCtr n x c).seq = c.seq := rfl
@[simp] theorem setCtr_ring (n : Nat) (x : Ctr) (c : Chip) : (setCtr n x c).ring = c.ring := rfl
@[simp] theorem setCtr_time (n : Nat) (x : Ctr) (c : Chip) : (setCtr n x c).time = c.time := rfl
@[simp] theorem setCtr_lmem (n : Nat) (x : Ctr) (c : Chip) : (setCtr n x c).lmem = c.lmem := rfl
@[simp] theorem setCtr_tlk (n : Nat) (x : Ctr) (c : Chip) : (setCtr n x c).tlk = c.tlk := rfl
@[simp] theorem setCtr_hport (n : Nat) (x : Ctr) (c : Chip) : (setCtr n x c).hport = c.hport := rfl
@[simp] theorem setCtr_rdu (n : Nat) (x : Ctr) (c : Chip) : (setCtr n x c).rdu = c.rdu := rfl
@[simp] theorem setCtr_core (n : Nat) (x : Ctr) (c : Chip) : (setCtr n x c).core = c.core := rfl
@[simp] theorem setCtr_pwr (n : Nat) (x : Ctr) (c : Chip) : (setCtr n x c).pwr = c.pwr := rfl
@[simp] theorem setCtr_wrap (n : Nat) (x : Ctr) (c : Chip) : (setCtr n x c).wrap = c.wrap := rfl
@[simp] theorem setCtr_dma (n : Nat) (x : Ctr) (c : Chip) : (setCtr n x c).dma = c.dma := rfl
@[simp] theorem setCtr_xpb (n : Nat) (x : Ctr) (c : Chip) : (setCtr n x c).xpb = c.xpb := rfl
@[simp] theorem setCtr_wvm (n : Nat) (x : Ctr) (c : Chip) : (setCtr n x c).wvm = c.wvm := rfl
@[simp] theorem setCtr_mxa (n : Nat) (x : Ctr) (c : Chip) : (setCtr n x c).mxa = c.mxa := rfl
@[simp] theorem setCtr_drn (n : Nat) (x : Ctr) (c : Chip) : (setCtr n x c).drn = c.drn := rfl
@[simp] theorem setCtr_mvp (n : Nat) (x : Ctr) (c : Chip) : (setCtr n x c).mvp = c.mvp := rfl
@[simp] theorem setCtr_sct (n : Nat) (x : Ctr) (c : Chip) : (setCtr n x c).sct = c.sct := rfl
@[simp] theorem setCtr_vec (n : Nat) (x : Ctr) (c : Chip) : (setCtr n x c).vec = c.vec := rfl
@[simp] theorem setCtr_snap (n : Nat) (x : Ctr) (c : Chip) : (setCtr n x c).snap = c.snap := rfl
@[simp] theorem setCtr_events (n : Nat) (x : Ctr) (c : Chip) : (setCtr n x c).events = c.events := rfl
@[simp] theorem setCtr_firsts (n : Nat) (x : Ctr) (c : Chip) : (setCtr n x c).firsts = c.firsts := rfl
@[simp] theorem setCtr_outbox (n : Nat) (x : Ctr) (c : Chip) : (setCtr n x c).outbox = c.outbox := rfl
@[simp] theorem setCtr_free (n : Nat) (x : Ctr) (c : Chip) : (setCtr n x c).free = c.free := rfl

@[simp] theorem updBar_pages (l : Nat) (f : Line → Line) (c : Chip) : (updBar l f c).pages = c.pages := rfl
@[simp] theorem updBar_seq (l : Nat) (f : Line → Line) (c : Chip) : (updBar l f c).seq = c.seq := rfl
@[simp] theorem updBar_ring (l : Nat) (f : Line → Line) (c : Chip) : (updBar l f c).ring = c.ring := rfl
@[simp] theorem updBar_time (l : Nat) (f : Line → Line) (c : Chip) : (updBar l f c).time = c.time := rfl
@[simp] theorem updBar_lmem (l : Nat) (f : Line → Line) (c : Chip) : (updBar l f c).lmem = c.lmem := rfl
@[simp] theorem updBar_tlk (l : Nat) (f : Line → Line) (c : Chip) : (updBar l f c).tlk = c.tlk := rfl
@[simp] theorem updBar_hport (l : Nat) (f : Line → Line) (c : Chip) : (updBar l f c).hport = c.hport := rfl
@[simp] theorem updBar_rdu (l : Nat) (f : Line → Line) (c : Chip) : (updBar l f c).rdu = c.rdu := rfl
@[simp] theorem updBar_core (l : Nat) (f : Line → Line) (c : Chip) : (updBar l f c).core = c.core := rfl
@[simp] theorem updBar_pwr (l : Nat) (f : Line → Line) (c : Chip) : (updBar l f c).pwr = c.pwr := rfl
@[simp] theorem updBar_wrap (l : Nat) (f : Line → Line) (c : Chip) : (updBar l f c).wrap = c.wrap := rfl
@[simp] theorem updBar_dma (l : Nat) (f : Line → Line) (c : Chip) : (updBar l f c).dma = c.dma := rfl
@[simp] theorem updBar_xpb (l : Nat) (f : Line → Line) (c : Chip) : (updBar l f c).xpb = c.xpb := rfl
@[simp] theorem updBar_wvm (l : Nat) (f : Line → Line) (c : Chip) : (updBar l f c).wvm = c.wvm := rfl
@[simp] theorem updBar_mxa (l : Nat) (f : Line → Line) (c : Chip) : (updBar l f c).mxa = c.mxa := rfl
@[simp] theorem updBar_drn (l : Nat) (f : Line → Line) (c : Chip) : (updBar l f c).drn = c.drn := rfl
@[simp] theorem updBar_mvp (l : Nat) (f : Line → Line) (c : Chip) : (updBar l f c).mvp = c.mvp := rfl
@[simp] theorem updBar_sct (l : Nat) (f : Line → Line) (c : Chip) : (updBar l f c).sct = c.sct := rfl
@[simp] theorem updBar_vec (l : Nat) (f : Line → Line) (c : Chip) : (updBar l f c).vec = c.vec := rfl
@[simp] theorem updBar_snap (l : Nat) (f : Line → Line) (c : Chip) : (updBar l f c).snap = c.snap := rfl
@[simp] theorem updBar_events (l : Nat) (f : Line → Line) (c : Chip) : (updBar l f c).events = c.events := rfl
@[simp] theorem updBar_firsts (l : Nat) (f : Line → Line) (c : Chip) : (updBar l f c).firsts = c.firsts := rfl
@[simp] theorem updBar_outbox (l : Nat) (f : Line → Line) (c : Chip) : (updBar l f c).outbox = c.outbox := rfl
@[simp] theorem updBar_free (l : Nat) (f : Line → Line) (c : Chip) : (updBar l f c).free = c.free := rfl

@[simp] theorem updPage_seq (p : Nat) (f : PageHdr → PageHdr) (c : Chip) : (updPage p f c).seq = c.seq := rfl
@[simp] theorem updPage_ring (p : Nat) (f : PageHdr → PageHdr) (c : Chip) : (updPage p f c).ring = c.ring := rfl
@[simp] theorem updPage_sync (p : Nat) (f : PageHdr → PageHdr) (c : Chip) : (updPage p f c).sync = c.sync := rfl
@[simp] theorem updPage_time (p : Nat) (f : PageHdr → PageHdr) (c : Chip) : (updPage p f c).time = c.time := rfl
@[simp] theorem updPage_lmem (p : Nat) (f : PageHdr → PageHdr) (c : Chip) : (updPage p f c).lmem = c.lmem := rfl
@[simp] theorem updPage_tlk (p : Nat) (f : PageHdr → PageHdr) (c : Chip) : (updPage p f c).tlk = c.tlk := rfl
@[simp] theorem updPage_hport (p : Nat) (f : PageHdr → PageHdr) (c : Chip) : (updPage p f c).hport = c.hport := rfl
@[simp] theorem updPage_rdu (p : Nat) (f : PageHdr → PageHdr) (c : Chip) : (updPage p f c).rdu = c.rdu := rfl
@[simp] theorem updPage_core (p : Nat) (f : PageHdr → PageHdr) (c : Chip) : (updPage p f c).core = c.core := rfl
@[simp] theorem updPage_pwr (p : Nat) (f : PageHdr → PageHdr) (c : Chip) : (updPage p f c).pwr = c.pwr := rfl
@[simp] theorem updPage_wrap (p : Nat) (f : PageHdr → PageHdr) (c : Chip) : (updPage p f c).wrap = c.wrap := rfl
@[simp] theorem updPage_dma (p : Nat) (f : PageHdr → PageHdr) (c : Chip) : (updPage p f c).dma = c.dma := rfl
@[simp] theorem updPage_xpb (p : Nat) (f : PageHdr → PageHdr) (c : Chip) : (updPage p f c).xpb = c.xpb := rfl
@[simp] theorem updPage_wvm (p : Nat) (f : PageHdr → PageHdr) (c : Chip) : (updPage p f c).wvm = c.wvm := rfl
@[simp] theorem updPage_mxa (p : Nat) (f : PageHdr → PageHdr) (c : Chip) : (updPage p f c).mxa = c.mxa := rfl
@[simp] theorem updPage_drn (p : Nat) (f : PageHdr → PageHdr) (c : Chip) : (updPage p f c).drn = c.drn := rfl
@[simp] theorem updPage_mvp (p : Nat) (f : PageHdr → PageHdr) (c : Chip) : (updPage p f c).mvp = c.mvp := rfl
@[simp] theorem updPage_sct (p : Nat) (f : PageHdr → PageHdr) (c : Chip) : (updPage p f c).sct = c.sct := rfl
@[simp] theorem updPage_vec (p : Nat) (f : PageHdr → PageHdr) (c : Chip) : (updPage p f c).vec = c.vec := rfl
@[simp] theorem updPage_snap (p : Nat) (f : PageHdr → PageHdr) (c : Chip) : (updPage p f c).snap = c.snap := rfl
@[simp] theorem updPage_events (p : Nat) (f : PageHdr → PageHdr) (c : Chip) : (updPage p f c).events = c.events := rfl
@[simp] theorem updPage_firsts (p : Nat) (f : PageHdr → PageHdr) (c : Chip) : (updPage p f c).firsts = c.firsts := rfl
@[simp] theorem updPage_outbox (p : Nat) (f : PageHdr → PageHdr) (c : Chip) : (updPage p f c).outbox = c.outbox := rfl
@[simp] theorem updPage_free (p : Nat) (f : PageHdr → PageHdr) (c : Chip) : (updPage p f c).free = c.free := rfl

@[simp] theorem updPort_pages (n : Nat) (f : Port → Port) (c : Chip) : (updPort n f c).pages = c.pages := rfl
@[simp] theorem updPort_seq (n : Nat) (f : Port → Port) (c : Chip) : (updPort n f c).seq = c.seq := rfl
@[simp] theorem updPort_ring (n : Nat) (f : Port → Port) (c : Chip) : (updPort n f c).ring = c.ring := rfl
@[simp] theorem updPort_sync (n : Nat) (f : Port → Port) (c : Chip) : (updPort n f c).sync = c.sync := rfl
@[simp] theorem updPort_time (n : Nat) (f : Port → Port) (c : Chip) : (updPort n f c).time = c.time := rfl
@[simp] theorem updPort_lmem (n : Nat) (f : Port → Port) (c : Chip) : (updPort n f c).lmem = c.lmem := rfl
@[simp] theorem updPort_hport (n : Nat) (f : Port → Port) (c : Chip) : (updPort n f c).hport = c.hport := rfl
@[simp] theorem updPort_rdu (n : Nat) (f : Port → Port) (c : Chip) : (updPort n f c).rdu = c.rdu := rfl
@[simp] theorem updPort_core (n : Nat) (f : Port → Port) (c : Chip) : (updPort n f c).core = c.core := rfl
@[simp] theorem updPort_pwr (n : Nat) (f : Port → Port) (c : Chip) : (updPort n f c).pwr = c.pwr := rfl
@[simp] theorem updPort_wrap (n : Nat) (f : Port → Port) (c : Chip) : (updPort n f c).wrap = c.wrap := rfl
@[simp] theorem updPort_dma (n : Nat) (f : Port → Port) (c : Chip) : (updPort n f c).dma = c.dma := rfl
@[simp] theorem updPort_xpb (n : Nat) (f : Port → Port) (c : Chip) : (updPort n f c).xpb = c.xpb := rfl
@[simp] theorem updPort_wvm (n : Nat) (f : Port → Port) (c : Chip) : (updPort n f c).wvm = c.wvm := rfl
@[simp] theorem updPort_mxa (n : Nat) (f : Port → Port) (c : Chip) : (updPort n f c).mxa = c.mxa := rfl
@[simp] theorem updPort_drn (n : Nat) (f : Port → Port) (c : Chip) : (updPort n f c).drn = c.drn := rfl
@[simp] theorem updPort_mvp (n : Nat) (f : Port → Port) (c : Chip) : (updPort n f c).mvp = c.mvp := rfl
@[simp] theorem updPort_sct (n : Nat) (f : Port → Port) (c : Chip) : (updPort n f c).sct = c.sct := rfl
@[simp] theorem updPort_vec (n : Nat) (f : Port → Port) (c : Chip) : (updPort n f c).vec = c.vec := rfl
@[simp] theorem updPort_snap (n : Nat) (f : Port → Port) (c : Chip) : (updPort n f c).snap = c.snap := rfl
@[simp] theorem updPort_events (n : Nat) (f : Port → Port) (c : Chip) : (updPort n f c).events = c.events := rfl
@[simp] theorem updPort_firsts (n : Nat) (f : Port → Port) (c : Chip) : (updPort n f c).firsts = c.firsts := rfl
@[simp] theorem updPort_outbox (n : Nat) (f : Port → Port) (c : Chip) : (updPort n f c).outbox = c.outbox := rfl
@[simp] theorem updPort_free (n : Nat) (f : Port → Port) (c : Chip) : (updPort n f c).free = c.free := rfl

@[simp] theorem updTrace_pages (r : Nat) (f : Trace → Trace) (c : Chip) : (updTrace r f c).pages = c.pages := rfl
@[simp] theorem updTrace_seq (r : Nat) (f : Trace → Trace) (c : Chip) : (updTrace r f c).seq = c.seq := rfl
@[simp] theorem updTrace_ring (r : Nat) (f : Trace → Trace) (c : Chip) : (updTrace r f c).ring = c.ring := rfl
@[simp] theorem updTrace_sync (r : Nat) (f : Trace → Trace) (c : Chip) : (updTrace r f c).sync = c.sync := rfl
@[simp] theorem updTrace_lmem (r : Nat) (f : Trace → Trace) (c : Chip) : (updTrace r f c).lmem = c.lmem := rfl
@[simp] theorem updTrace_tlk (r : Nat) (f : Trace → Trace) (c : Chip) : (updTrace r f c).tlk = c.tlk := rfl
@[simp] theorem updTrace_hport (r : Nat) (f : Trace → Trace) (c : Chip) : (updTrace r f c).hport = c.hport := rfl
@[simp] theorem updTrace_rdu (r : Nat) (f : Trace → Trace) (c : Chip) : (updTrace r f c).rdu = c.rdu := rfl
@[simp] theorem updTrace_core (r : Nat) (f : Trace → Trace) (c : Chip) : (updTrace r f c).core = c.core := rfl
@[simp] theorem updTrace_pwr (r : Nat) (f : Trace → Trace) (c : Chip) : (updTrace r f c).pwr = c.pwr := rfl
@[simp] theorem updTrace_wrap (r : Nat) (f : Trace → Trace) (c : Chip) : (updTrace r f c).wrap = c.wrap := rfl
@[simp] theorem updTrace_dma (r : Nat) (f : Trace → Trace) (c : Chip) : (updTrace r f c).dma = c.dma := rfl
@[simp] theorem updTrace_xpb (r : Nat) (f : Trace → Trace) (c : Chip) : (updTrace r f c).xpb = c.xpb := rfl
@[simp] theorem updTrace_wvm (r : Nat) (f : Trace → Trace) (c : Chip) : (updTrace r f c).wvm = c.wvm := rfl
@[simp] theorem updTrace_mxa (r : Nat) (f : Trace → Trace) (c : Chip) : (updTrace r f c).mxa = c.mxa := rfl
@[simp] theorem updTrace_drn (r : Nat) (f : Trace → Trace) (c : Chip) : (updTrace r f c).drn = c.drn := rfl
@[simp] theorem updTrace_mvp (r : Nat) (f : Trace → Trace) (c : Chip) : (updTrace r f c).mvp = c.mvp := rfl
@[simp] theorem updTrace_sct (r : Nat) (f : Trace → Trace) (c : Chip) : (updTrace r f c).sct = c.sct := rfl
@[simp] theorem updTrace_vec (r : Nat) (f : Trace → Trace) (c : Chip) : (updTrace r f c).vec = c.vec := rfl
@[simp] theorem updTrace_snap (r : Nat) (f : Trace → Trace) (c : Chip) : (updTrace r f c).snap = c.snap := rfl
@[simp] theorem updTrace_events (r : Nat) (f : Trace → Trace) (c : Chip) : (updTrace r f c).events = c.events := rfl
@[simp] theorem updTrace_firsts (r : Nat) (f : Trace → Trace) (c : Chip) : (updTrace r f c).firsts = c.firsts := rfl
@[simp] theorem updTrace_outbox (r : Nat) (f : Trace → Trace) (c : Chip) : (updTrace r f c).outbox = c.outbox := rfl
@[simp] theorem updTrace_free (r : Nat) (f : Trace → Trace) (c : Chip) : (updTrace r f c).free = c.free := rfl

@[simp] theorem updBank_pages (b : Nat) (f : Bank → Bank) (c : Chip) : (updBank b f c).pages = c.pages := rfl
@[simp] theorem updBank_seq (b : Nat) (f : Bank → Bank) (c : Chip) : (updBank b f c).seq = c.seq := rfl
@[simp] theorem updBank_ring (b : Nat) (f : Bank → Bank) (c : Chip) : (updBank b f c).ring = c.ring := rfl
@[simp] theorem updBank_sync (b : Nat) (f : Bank → Bank) (c : Chip) : (updBank b f c).sync = c.sync := rfl
@[simp] theorem updBank_time (b : Nat) (f : Bank → Bank) (c : Chip) : (updBank b f c).time = c.time := rfl
@[simp] theorem updBank_tlk (b : Nat) (f : Bank → Bank) (c : Chip) : (updBank b f c).tlk = c.tlk := rfl
@[simp] theorem updBank_hport (b : Nat) (f : Bank → Bank) (c : Chip) : (updBank b f c).hport = c.hport := rfl
@[simp] theorem updBank_rdu (b : Nat) (f : Bank → Bank) (c : Chip) : (updBank b f c).rdu = c.rdu := rfl
@[simp] theorem updBank_core (b : Nat) (f : Bank → Bank) (c : Chip) : (updBank b f c).core = c.core := rfl
@[simp] theorem updBank_pwr (b : Nat) (f : Bank → Bank) (c : Chip) : (updBank b f c).pwr = c.pwr := rfl
@[simp] theorem updBank_wrap (b : Nat) (f : Bank → Bank) (c : Chip) : (updBank b f c).wrap = c.wrap := rfl
@[simp] theorem updBank_dma (b : Nat) (f : Bank → Bank) (c : Chip) : (updBank b f c).dma = c.dma := rfl
@[simp] theorem updBank_xpb (b : Nat) (f : Bank → Bank) (c : Chip) : (updBank b f c).xpb = c.xpb := rfl
@[simp] theorem updBank_wvm (b : Nat) (f : Bank → Bank) (c : Chip) : (updBank b f c).wvm = c.wvm := rfl
@[simp] theorem updBank_mxa (b : Nat) (f : Bank → Bank) (c : Chip) : (updBank b f c).mxa = c.mxa := rfl
@[simp] theorem updBank_drn (b : Nat) (f : Bank → Bank) (c : Chip) : (updBank b f c).drn = c.drn := rfl
@[simp] theorem updBank_mvp (b : Nat) (f : Bank → Bank) (c : Chip) : (updBank b f c).mvp = c.mvp := rfl
@[simp] theorem updBank_sct (b : Nat) (f : Bank → Bank) (c : Chip) : (updBank b f c).sct = c.sct := rfl
@[simp] theorem updBank_vec (b : Nat) (f : Bank → Bank) (c : Chip) : (updBank b f c).vec = c.vec := rfl
@[simp] theorem updBank_snap (b : Nat) (f : Bank → Bank) (c : Chip) : (updBank b f c).snap = c.snap := rfl
@[simp] theorem updBank_events (b : Nat) (f : Bank → Bank) (c : Chip) : (updBank b f c).events = c.events := rfl
@[simp] theorem updBank_firsts (b : Nat) (f : Bank → Bank) (c : Chip) : (updBank b f c).firsts = c.firsts := rfl
@[simp] theorem updBank_outbox (b : Nat) (f : Bank → Bank) (c : Chip) : (updBank b f c).outbox = c.outbox := rfl
@[simp] theorem updBank_free (b : Nat) (f : Bank → Bank) (c : Chip) : (updBank b f c).free = c.free := rfl

@[simp] theorem emit_pages (k p : Nat) (d0 d1 : W64) (c : Chip) : (emit k p d0 d1 c).pages = c.pages := rfl
@[simp] theorem emit_seq (k p : Nat) (d0 d1 : W64) (c : Chip) : (emit k p d0 d1 c).seq = c.seq := rfl
@[simp] theorem emit_ring (k p : Nat) (d0 d1 : W64) (c : Chip) : (emit k p d0 d1 c).ring = c.ring := rfl
@[simp] theorem emit_sync (k p : Nat) (d0 d1 : W64) (c : Chip) : (emit k p d0 d1 c).sync = c.sync := rfl
@[simp] theorem emit_time (k p : Nat) (d0 d1 : W64) (c : Chip) : (emit k p d0 d1 c).time = c.time := rfl
@[simp] theorem emit_lmem (k p : Nat) (d0 d1 : W64) (c : Chip) : (emit k p d0 d1 c).lmem = c.lmem := rfl
@[simp] theorem emit_tlk (k p : Nat) (d0 d1 : W64) (c : Chip) : (emit k p d0 d1 c).tlk = c.tlk := rfl
@[simp] theorem emit_hport (k p : Nat) (d0 d1 : W64) (c : Chip) : (emit k p d0 d1 c).hport = c.hport := rfl
@[simp] theorem emit_rdu (k p : Nat) (d0 d1 : W64) (c : Chip) : (emit k p d0 d1 c).rdu = c.rdu := rfl
@[simp] theorem emit_core (k p : Nat) (d0 d1 : W64) (c : Chip) : (emit k p d0 d1 c).core = c.core := rfl
@[simp] theorem emit_pwr (k p : Nat) (d0 d1 : W64) (c : Chip) : (emit k p d0 d1 c).pwr = c.pwr := rfl
@[simp] theorem emit_wrap (k p : Nat) (d0 d1 : W64) (c : Chip) : (emit k p d0 d1 c).wrap = c.wrap := rfl
@[simp] theorem emit_dma (k p : Nat) (d0 d1 : W64) (c : Chip) : (emit k p d0 d1 c).dma = c.dma := rfl
@[simp] theorem emit_xpb (k p : Nat) (d0 d1 : W64) (c : Chip) : (emit k p d0 d1 c).xpb = c.xpb := rfl
@[simp] theorem emit_wvm (k p : Nat) (d0 d1 : W64) (c : Chip) : (emit k p d0 d1 c).wvm = c.wvm := rfl
@[simp] theorem emit_mxa (k p : Nat) (d0 d1 : W64) (c : Chip) : (emit k p d0 d1 c).mxa = c.mxa := rfl
@[simp] theorem emit_drn (k p : Nat) (d0 d1 : W64) (c : Chip) : (emit k p d0 d1 c).drn = c.drn := rfl
@[simp] theorem emit_mvp (k p : Nat) (d0 d1 : W64) (c : Chip) : (emit k p d0 d1 c).mvp = c.mvp := rfl
@[simp] theorem emit_sct (k p : Nat) (d0 d1 : W64) (c : Chip) : (emit k p d0 d1 c).sct = c.sct := rfl
@[simp] theorem emit_vec (k p : Nat) (d0 d1 : W64) (c : Chip) : (emit k p d0 d1 c).vec = c.vec := rfl
@[simp] theorem emit_snap (k p : Nat) (d0 d1 : W64) (c : Chip) : (emit k p d0 d1 c).snap = c.snap := rfl
@[simp] theorem emit_firsts (k p : Nat) (d0 d1 : W64) (c : Chip) : (emit k p d0 d1 c).firsts = c.firsts := rfl
@[simp] theorem emit_outbox (k p : Nat) (d0 d1 : W64) (c : Chip) : (emit k p d0 d1 c).outbox = c.outbox := rfl
@[simp] theorem emit_free (k p : Nat) (d0 d1 : W64) (c : Chip) : (emit k p d0 d1 c).free = c.free := rfl

@[simp] theorem takeFree_pages (c : Chip) : ((takeFree c).2).pages = c.pages := rfl
@[simp] theorem takeFree_seq (c : Chip) : ((takeFree c).2).seq = c.seq := rfl
@[simp] theorem takeFree_ring (c : Chip) : ((takeFree c).2).ring = c.ring := rfl
@[simp] theorem takeFree_sync (c : Chip) : ((takeFree c).2).sync = c.sync := rfl
@[simp] theorem takeFree_time (c : Chip) : ((takeFree c).2).time = c.time := rfl
@[simp] theorem takeFree_lmem (c : Chip) : ((takeFree c).2).lmem = c.lmem := rfl
@[simp] theorem takeFree_tlk (c : Chip) : ((takeFree c).2).tlk = c.tlk := rfl
@[simp] theorem takeFree_hport (c : Chip) : ((takeFree c).2).hport = c.hport := rfl
@[simp] theorem takeFree_rdu (c : Chip) : ((takeFree c).2).rdu = c.rdu := rfl
@[simp] theorem takeFree_core (c : Chip) : ((takeFree c).2).core = c.core := rfl
@[simp] theorem takeFree_pwr (c : Chip) : ((takeFree c).2).pwr = c.pwr := rfl
@[simp] theorem takeFree_wrap (c : Chip) : ((takeFree c).2).wrap = c.wrap := rfl
@[simp] theorem takeFree_dma (c : Chip) : ((takeFree c).2).dma = c.dma := rfl
@[simp] theorem takeFree_xpb (c : Chip) : ((takeFree c).2).xpb = c.xpb := rfl
@[simp] theorem takeFree_wvm (c : Chip) : ((takeFree c).2).wvm = c.wvm := rfl
@[simp] theorem takeFree_mxa (c : Chip) : ((takeFree c).2).mxa = c.mxa := rfl
@[simp] theorem takeFree_drn (c : Chip) : ((takeFree c).2).drn = c.drn := rfl
@[simp] theorem takeFree_mvp (c : Chip) : ((takeFree c).2).mvp = c.mvp := rfl
@[simp] theorem takeFree_sct (c : Chip) : ((takeFree c).2).sct = c.sct := rfl
@[simp] theorem takeFree_vec (c : Chip) : ((takeFree c).2).vec = c.vec := rfl
@[simp] theorem takeFree_snap (c : Chip) : ((takeFree c).2).snap = c.snap := rfl
@[simp] theorem takeFree_events (c : Chip) : ((takeFree c).2).events = c.events := rfl
@[simp] theorem takeFree_firsts (c : Chip) : ((takeFree c).2).firsts = c.firsts := rfl
@[simp] theorem takeFree_outbox (c : Chip) : ((takeFree c).2).outbox = c.outbox := rfl

@[simp] theorem issued_pages (n : Nat) (c : Chip) : (issued n c).pages = c.pages := rfl
@[simp] theorem issued_ring (n : Nat) (c : Chip) : (issued n c).ring = c.ring := rfl
@[simp] theorem issued_sync (n : Nat) (c : Chip) : (issued n c).sync = c.sync := rfl
@[simp] theorem issued_time (n : Nat) (c : Chip) : (issued n c).time = c.time := rfl
@[simp] theorem issued_lmem (n : Nat) (c : Chip) : (issued n c).lmem = c.lmem := rfl
@[simp] theorem issued_tlk (n : Nat) (c : Chip) : (issued n c).tlk = c.tlk := rfl
@[simp] theorem issued_hport (n : Nat) (c : Chip) : (issued n c).hport = c.hport := rfl
@[simp] theorem issued_rdu (n : Nat) (c : Chip) : (issued n c).rdu = c.rdu := rfl
@[simp] theorem issued_core (n : Nat) (c : Chip) : (issued n c).core = c.core := rfl
@[simp] theorem issued_pwr (n : Nat) (c : Chip) : (issued n c).pwr = c.pwr := rfl
@[simp] theorem issued_wrap (n : Nat) (c : Chip) : (issued n c).wrap = c.wrap := rfl
@[simp] theorem issued_dma (n : Nat) (c : Chip) : (issued n c).dma = c.dma := rfl
@[simp] theorem issued_xpb (n : Nat) (c : Chip) : (issued n c).xpb = c.xpb := rfl
@[simp] theorem issued_wvm (n : Nat) (c : Chip) : (issued n c).wvm = c.wvm := rfl
@[simp] theorem issued_mxa (n : Nat) (c : Chip) : (issued n c).mxa = c.mxa := rfl
@[simp] theorem issued_drn (n : Nat) (c : Chip) : (issued n c).drn = c.drn := rfl
@[simp] theorem issued_mvp (n : Nat) (c : Chip) : (issued n c).mvp = c.mvp := rfl
@[simp] theorem issued_sct (n : Nat) (c : Chip) : (issued n c).sct = c.sct := rfl
@[simp] theorem issued_vec (n : Nat) (c : Chip) : (issued n c).vec = c.vec := rfl
@[simp] theorem issued_snap (n : Nat) (c : Chip) : (issued n c).snap = c.snap := rfl
@[simp] theorem issued_events (n : Nat) (c : Chip) : (issued n c).events = c.events := rfl
@[simp] theorem issued_firsts (n : Nat) (c : Chip) : (issued n c).firsts = c.firsts := rfl
@[simp] theorem issued_outbox (n : Nat) (c : Chip) : (issued n c).outbox = c.outbox := rfl
@[simp] theorem issued_free (n : Nat) (c : Chip) : (issued n c).free = c.free := rfl

@[simp] theorem recordFault_seq (p : Nat) (k : Cause) (code x r : Nat) (d : W64) (c : Chip) : (recordFault p k code x r d c).seq = c.seq := rfl
@[simp] theorem recordFault_ring (p : Nat) (k : Cause) (code x r : Nat) (d : W64) (c : Chip) : (recordFault p k code x r d c).ring = c.ring := rfl
@[simp] theorem recordFault_sync (p : Nat) (k : Cause) (code x r : Nat) (d : W64) (c : Chip) : (recordFault p k code x r d c).sync = c.sync := rfl
@[simp] theorem recordFault_time (p : Nat) (k : Cause) (code x r : Nat) (d : W64) (c : Chip) : (recordFault p k code x r d c).time = c.time := rfl
@[simp] theorem recordFault_lmem (p : Nat) (k : Cause) (code x r : Nat) (d : W64) (c : Chip) : (recordFault p k code x r d c).lmem = c.lmem := rfl
@[simp] theorem recordFault_tlk (p : Nat) (k : Cause) (code x r : Nat) (d : W64) (c : Chip) : (recordFault p k code x r d c).tlk = c.tlk := rfl
@[simp] theorem recordFault_hport (p : Nat) (k : Cause) (code x r : Nat) (d : W64) (c : Chip) : (recordFault p k code x r d c).hport = c.hport := rfl
@[simp] theorem recordFault_rdu (p : Nat) (k : Cause) (code x r : Nat) (d : W64) (c : Chip) : (recordFault p k code x r d c).rdu = c.rdu := rfl
@[simp] theorem recordFault_core (p : Nat) (k : Cause) (code x r : Nat) (d : W64) (c : Chip) : (recordFault p k code x r d c).core = c.core := rfl
@[simp] theorem recordFault_pwr (p : Nat) (k : Cause) (code x r : Nat) (d : W64) (c : Chip) : (recordFault p k code x r d c).pwr = c.pwr := rfl
@[simp] theorem recordFault_wrap (p : Nat) (k : Cause) (code x r : Nat) (d : W64) (c : Chip) : (recordFault p k code x r d c).wrap = c.wrap := rfl
@[simp] theorem recordFault_dma (p : Nat) (k : Cause) (code x r : Nat) (d : W64) (c : Chip) : (recordFault p k code x r d c).dma = c.dma := rfl
@[simp] theorem recordFault_xpb (p : Nat) (k : Cause) (code x r : Nat) (d : W64) (c : Chip) : (recordFault p k code x r d c).xpb = c.xpb := rfl
@[simp] theorem recordFault_wvm (p : Nat) (k : Cause) (code x r : Nat) (d : W64) (c : Chip) : (recordFault p k code x r d c).wvm = c.wvm := rfl
@[simp] theorem recordFault_mxa (p : Nat) (k : Cause) (code x r : Nat) (d : W64) (c : Chip) : (recordFault p k code x r d c).mxa = c.mxa := rfl
@[simp] theorem recordFault_drn (p : Nat) (k : Cause) (code x r : Nat) (d : W64) (c : Chip) : (recordFault p k code x r d c).drn = c.drn := rfl
@[simp] theorem recordFault_mvp (p : Nat) (k : Cause) (code x r : Nat) (d : W64) (c : Chip) : (recordFault p k code x r d c).mvp = c.mvp := rfl
@[simp] theorem recordFault_sct (p : Nat) (k : Cause) (code x r : Nat) (d : W64) (c : Chip) : (recordFault p k code x r d c).sct = c.sct := rfl
@[simp] theorem recordFault_vec (p : Nat) (k : Cause) (code x r : Nat) (d : W64) (c : Chip) : (recordFault p k code x r d c).vec = c.vec := rfl
@[simp] theorem recordFault_snap (p : Nat) (k : Cause) (code x r : Nat) (d : W64) (c : Chip) : (recordFault p k code x r d c).snap = c.snap := rfl
@[simp] theorem recordFault_outbox (p : Nat) (k : Cause) (code x r : Nat) (d : W64) (c : Chip) : (recordFault p k code x r d c).outbox = c.outbox := rfl
@[simp] theorem recordFault_free (p : Nat) (k : Cause) (code x r : Nat) (d : W64) (c : Chip) : (recordFault p k code x r d c).free = c.free := rfl

@[simp] theorem pageFault_seq (p : Nat) (k : Cause) (c : Chip) : (pageFault p k c).seq = c.seq := rfl
@[simp] theorem pageFault_ring (p : Nat) (k : Cause) (c : Chip) : (pageFault p k c).ring = c.ring := rfl
@[simp] theorem pageFault_sync (p : Nat) (k : Cause) (c : Chip) : (pageFault p k c).sync = c.sync := rfl
@[simp] theorem pageFault_time (p : Nat) (k : Cause) (c : Chip) : (pageFault p k c).time = c.time := rfl
@[simp] theorem pageFault_lmem (p : Nat) (k : Cause) (c : Chip) : (pageFault p k c).lmem = c.lmem := rfl
@[simp] theorem pageFault_tlk (p : Nat) (k : Cause) (c : Chip) : (pageFault p k c).tlk = c.tlk := rfl
@[simp] theorem pageFault_hport (p : Nat) (k : Cause) (c : Chip) : (pageFault p k c).hport = c.hport := rfl
@[simp] theorem pageFault_rdu (p : Nat) (k : Cause) (c : Chip) : (pageFault p k c).rdu = c.rdu := rfl
@[simp] theorem pageFault_core (p : Nat) (k : Cause) (c : Chip) : (pageFault p k c).core = c.core := rfl
@[simp] theorem pageFault_pwr (p : Nat) (k : Cause) (c : Chip) : (pageFault p k c).pwr = c.pwr := rfl
@[simp] theorem pageFault_wrap (p : Nat) (k : Cause) (c : Chip) : (pageFault p k c).wrap = c.wrap := rfl
@[simp] theorem pageFault_dma (p : Nat) (k : Cause) (c : Chip) : (pageFault p k c).dma = c.dma := rfl
@[simp] theorem pageFault_xpb (p : Nat) (k : Cause) (c : Chip) : (pageFault p k c).xpb = c.xpb := rfl
@[simp] theorem pageFault_wvm (p : Nat) (k : Cause) (c : Chip) : (pageFault p k c).wvm = c.wvm := rfl
@[simp] theorem pageFault_mxa (p : Nat) (k : Cause) (c : Chip) : (pageFault p k c).mxa = c.mxa := rfl
@[simp] theorem pageFault_drn (p : Nat) (k : Cause) (c : Chip) : (pageFault p k c).drn = c.drn := rfl
@[simp] theorem pageFault_mvp (p : Nat) (k : Cause) (c : Chip) : (pageFault p k c).mvp = c.mvp := rfl
@[simp] theorem pageFault_sct (p : Nat) (k : Cause) (c : Chip) : (pageFault p k c).sct = c.sct := rfl
@[simp] theorem pageFault_vec (p : Nat) (k : Cause) (c : Chip) : (pageFault p k c).vec = c.vec := rfl
@[simp] theorem pageFault_snap (p : Nat) (k : Cause) (c : Chip) : (pageFault p k c).snap = c.snap := rfl
@[simp] theorem pageFault_outbox (p : Nat) (k : Cause) (c : Chip) : (pageFault p k c).outbox = c.outbox := rfl
@[simp] theorem pageFault_free (p : Nat) (k : Cause) (c : Chip) : (pageFault p k c).free = c.free := rfl

end Sys2Proof.Machine
end

