-- ==== Sys2Proof/Laws/Settle.lean ====
section
/-! SUPPORT. What follows from a command: the shape of every answer, and what settling leaves alone. -/

namespace Sys2Proof.Machine

/-! ## The shape of every answer -/

theorem run_next {f : Chip → Chip} {s t : State} (h : run f s = .next t) : t = { s with chip := settle (f s.chip) } := by
  unfold run runAlways at h
  split at h
  · cases h
  · exact (Host.Outcome.next.inj h).symm

theorem runAlways_next {f : Chip → Chip} {s t : State} (h : runAlways f s = .next t) :
    t = { s with chip := settle (f s.chip) } := (Host.Outcome.next.inj h).symm

/-- Nothing that a command answers is anything but a settled core with the queue as it was. -/
def Shaped (s : State) (o : Out) : Prop := ∀ t, o = .next t → ∃ c, t = { s with chip := settle c }

theorem Shaped.run (f : Chip → Chip) (s : State) : Shaped s (run f s) := fun _ h => ⟨_, run_next h⟩
theorem Shaped.runAlways (f : Chip → Chip) (s : State) : Shaped s (runAlways f s) := fun _ h => ⟨_, runAlways_next h⟩

/-- Every command answers a settled core with the queue as it was, or stops. -/
theorem exec_shaped (i : Instr) (s : State) : Shaped s (exec i s) := by
  cases i <;> first | exact Shaped.run _ s | exact Shaped.runAlways _ s

/-- A command that is not stopped by the undefined state runs. -/
theorem run_eq {f : Chip → Chip} {s : State} (h : s.chip.core.phase ≠ .undefined) :
    run f s = .next { s with chip := settle (f s.chip) } := by simp [run, runAlways, h]

theorem isUp_iff (c : Chip) : isUp c = true ↔ c.core.phase = .running := by simp [isUp]

theorem isAwake_iff (c : Chip) : isAwake c = true ↔ c.core.phase = .running ∧ c.pwr.state = 0 := by simp [isAwake, isUp]

theorem awake_defined {c : Chip} (h : isAwake c = true) : c.core.phase ≠ .undefined := by
  rw [isAwake_iff] at h; rw [h.1]; decide

/-! ## Sequencer instructions -/

theorem canIssue_awake {c : Chip} {n : Nat} (h : canIssue c n = true) : isAwake c = true := by
  simp only [canIssue, Bool.and_eq_true] at h; exact h.1.1.1

/-- An instruction that issues has its effect, once its context has been noted as its pipe's last. -/
theorem seqIssue_eq {o : SeqOp} {f : SeqForm} {g : Ctx → Chip → Chip} {c : Chip} (h : Issues o f c) :
    seqIssue o f g c = g (ctxOf (issued o.ctx c) o.ctx) (issued o.ctx c) := by
  simp [seqIssue, h.can, h.fetch, h.legal, h.guard, h.free]

/-- What it takes to show that an instruction completes wherever it issues. -/
theorem firesWith_of {i : Instr} {o : SeqOp} {f : SeqForm} {g : SeqOp → Ctx → Chip → Chip} (hf : formOf i = some (o, f))
    (h : ∀ s, exec i s = run (seqIssue o f (g o)) s) : FiresWith i g := by
  intro p k e s hs
  obtain ⟨rfl, rfl⟩ := Prod.mk.inj (Option.some.inj (hf.symm.trans e))
  unfold Answers
  rw [h s, run_eq (awake_defined (canIssue_awake hs.can)), seqIssue_eq hs]

theorem fires_of {i : Instr} {o : SeqOp} {f : SeqForm} {g : Ctx → Chip → Chip} (hf : formOf i = some (o, f))
    (h : ∀ s, exec i s = run (seqIssue o f g) s) : Fires i g := firesWith_of (g := fun _ => g) hf h

/-- The same for an instruction that changes its own context. -/
theorem moves_of {i : Instr} {o : SeqOp} {f : SeqForm} {g : Ctx → Ctx → Ctx} (hf : formOf i = some (o, f))
    (h : ∀ s, exec i s = run (seqIssue o f fun x => stepPast o.ctx (g x)) s) : Moves i g :=
  firesWith_of (g := fun o x => stepPast o.ctx (g x)) hf h

/-- The same for an instruction that writes rd. -/
theorem sets_of {i : Instr} {o : SeqOp} {f : SeqForm} {v : Ctx → W64} (hf : formOf i = some (o, f))
    (h : ∀ s, exec i s = run (seqIssue o f fun x => stepPast o.ctx fun y => y.setReg (opRd o) (v x)) s) : Sets i v :=
  firesWith_of (g := fun o x => stepPast o.ctx fun y => y.setReg (opRd o) (v x)) hf h

/-- The same for an instruction that writes pd. -/
theorem tests_of {i : Instr} {o : SeqOp} {f : SeqForm} {v : Ctx → Bool} (hf : formOf i = some (o, f))
    (h : ∀ s, exec i s = run (seqIssue o f fun x => stepPast o.ctx fun y => y.setPred (opRd o) (v x)) s) : Tests i v :=
  firesWith_of (g := fun o x => stepPast o.ctx fun y => y.setPred (opRd o) (v x)) hf h

/-- An effect may be written in another way. -/
theorem Fires.congr {i : Instr} {g h : Ctx → Chip → Chip} (hi : Fires i g) (e : ∀ x c, g x c = h x c) : Fires i h :=
  (funext fun x => funext (e x) : g = h) ▸ hi
theorem Moves.congr {i : Instr} {g h : Ctx → Ctx → Ctx} (hi : Moves i g) (e : ∀ x y, g x y = h x y) : Moves i h :=
  (funext fun x => funext (e x) : g = h) ▸ hi
theorem Sets.congr {i : Instr} {v w : Ctx → W64} (hi : Sets i v) (e : ∀ x, v x = w x) : Sets i w := (funext e : v = w) ▸ hi
theorem Tests.congr {i : Instr} {v w : Ctx → Bool} (hi : Tests i v) (e : ∀ x, v x = w x) : Tests i w := (funext e : v = w) ▸ hi

/-! ## Commands to blocks -/

/-- What it takes to show that a command completes with an effect. -/
theorem takes_of {i : Instr} {h : Chip → Prop} {f g : Chip → Chip} (hx : ∀ s, exec i s = run g s := by intro; rfl)
    (hg : ∀ c, h c → g c = f c) : Takes i h f := fun s hd hs => by
  unfold Answers
  rw [hx s, run_eq hd, hg _ hs]

/-- The same for a command that acts in P0 only. -/
theorem acts_of {i : Instr} {h : Chip → Prop} {f g : Chip → Chip} (hx : ∀ s, exec i s = run g s := by intro; rfl)
    (hg : ∀ c, isAwake c = true → h c → g c = f c) : Acts i h f := takes_of hx fun c hc => hg c hc.1 hc.2

theorem inP0_eq {f : Chip → Chip} {c : Chip} (h : isAwake c = true) : inP0 f c = f c := by simp [inP0, h]
theorem inUp_eq {f : Chip → Chip} {c : Chip} (h : isUp c = true) : inUp f c = f c := by simp [inUp, h]
theorem onLink_eq {f : Chip → Chip} {c : Chip} (h : isUp c = true) : onLink f c = f c := by simp [onLink, h]
theorem onLanes_eq {f : Chip → Chip} {c : Chip} (h : hpAwake c = true) : onLanes f c = f c := by simp [onLanes, h]
theorem onHport_eq {f : Chip → Chip} {c : Chip} (h : isUp c = true) : onHport f c = f c := by simp [onHport, h]
theorem awake_hp {c : Chip} (h : isAwake c = true) : hpAwake c = true := by
  simp [hpAwake, ((isAwake_iff c).1 h).1, ((isAwake_iff c).1 h).2]

theorem awake_up {c : Chip} (h : isAwake c = true) : isUp c = true := (isUp_iff c).2 ((isAwake_iff c).1 h).1

theorem awake_not_asleep {c : Chip} (h : isAwake c = true) : asleep c = false := by
  simp [asleep, ((isAwake_iff c).1 h).2]

/-- In P0 a register write has its effect. -/
theorem regWrite_eq {p off : Nat} {v : W64} {f : Chip → Chip} {c : Chip} (h : isAwake c = true) : regWrite p off v f c = f c := by
  simp [regWrite, awake_up h, awake_not_asleep h]

/-- What it takes for a command that writes a register. -/
theorem acts_regWrite {i : Instr} {p off : Nat} {v : W64} {f k : Chip → Chip} {h : Chip → Prop}
    (hx : ∀ s, exec i s = run (regWrite p off v f) s) (e : ∀ c, h c → f c = k c) : Acts i h k :=
  acts_of hx fun c ha hc => (regWrite_eq ha).trans (e c hc)

/-- The same for one that acts in P0 only. -/
theorem acts_inP0 {i : Instr} {f k : Chip → Chip} {h : Chip → Prop} (hx : ∀ s, exec i s = run (inP0 f) s)
    (e : ∀ c, h c → f c = k c) : Acts i h k := acts_of hx fun c ha hc => (inP0_eq ha).trans (e c hc)

/-- The same for one that acts in P0, P1 and P2. -/
theorem runs_inUp {i : Instr} {f k : Chip → Chip} {h : Chip → Prop} (hx : ∀ s, exec i s = run (inUp f) s)
    (e : ∀ c, h c → f c = k c) : Runs i h k := takes_of hx fun c hc => (inUp_eq hc.1).trans (e c hc.2)

/-- What holds whenever the core runs holds in P0. -/
theorem Runs.acts {i : Instr} {f : Chip → Chip} {h : Chip → Prop} (hr : Runs i h f) : Acts i h f :=
  fun s hd hs => hr s hd ⟨awake_up hs.1, hs.2⟩

theorem does_inP0 {i : Instr} {f : Chip → Chip} (hx : ∀ s, exec i s = run (inP0 f) s := by intro; rfl) : Does i f :=
  acts_of hx fun _ hc _ => inP0_eq hc

theorem does_regWrite {i : Instr} {p off : Nat} {v : W64} {f : Chip → Chip}
    (hx : ∀ s, exec i s = run (regWrite p off v f) s := by intro; rfl) : Does i f := acts_of hx fun _ hc _ => regWrite_eq hc

/-! ## The work of descriptors -/

/-- The work of a running descriptor of the right class and opcode happens. -/
theorem onRunning_eq {q : DescRef} {cls opc : Nat} {f : Desc → Chip → Chip} {c : Chip} {d : Desc} (h : Running c q cls opc d) :
    onRunning q cls opc f c = f d c := by simp [onRunning, h.found, h.cls, h.opc, h.phase]

/-- Bytes at hand are read at once. -/
theorem withBytes_eq {lc : Nat} {q : DescRef} {d e : Desc} {names : List Nat} {f : Desc → Chip → Chip} {c : Chip}
    (h : AtHand c lc q (names.map (mapAddr c d.rmap))) (hd : descOf c q = some e) :
    withBytes lc vcData q d names f c = f e c := by
  unfold AtHand at h
  simp [withBytes, h, andThen, hd]

theorem works_of {i : Instr} {q : DescRef} {cls opc : Nat} {h : Chip → Desc → Prop} {f g : Desc → Chip → Chip}
    (hg : ∀ c d, Running c q cls opc d → h c d → g d c = f d c)
    (hx : ∀ s, exec i s = run (inP0 (onRunning q cls opc g)) s := by intro; rfl) :
    Works i q cls opc h f := fun s d hr hs => by
  unfold Answers
  rw [hx s, run_eq (awake_defined hr.awake), inP0_eq hr.awake, onRunning_eq hr, hg _ _ hr hs]

theorem reads_of {i : Instr} {q : DescRef} {cls opc lc : Nat} {names : Chip → Desc → List Nat} {f g : Desc → Chip → Chip}
    (hg : ∀ c d, g d c = withBytes lc vcData q d (names c d) f c)
    (hx : ∀ s, exec i s = run (inP0 (onRunning q cls opc g)) s := by intro; rfl) :
    WorksOn i q cls opc lc names f :=
  works_of (fun c d hr hh => by rw [hg c d, withBytes_eq hh hr.found]) hx

/-! ## Nothing to follow -/

theorem foldl_id {α β : Type} (f : β → α → β) (b : β) (l : List α) (h : ∀ a ∈ l, f b a = b) : l.foldl f b = b := by
  induction l with
  | nil => rfl
  | cons a l ih =>
    rw [List.foldl_cons, h a (List.mem_cons_self ..)]
    exact ih fun x hx => h x (List.mem_cons_of_mem _ hx)

/-- Writing back what fields hold changes nothing. -/
theorem keep_queues {c : Chip} {x y z : List Req} (hx : x = c.tlk.heldReqs) (hy : y = c.tlk.waitReqs) (hz : z = c.outbox) :
    { c with tlk.heldReqs := x, tlk.waitReqs := y, outbox := z } = c := by subst hx hy hz; rfl
theorem keep_events {c : Chip} {x : List Event} {y : List Nat} (hx : x = c.events) (hy : y = c.firsts) :
    { c with events := x, firsts := y } = c := by subst hx hy; rfl
theorem keep_records {c : Chip} {x : List (Nat × Nat × List Byte)} (h : x = c.time.waiting) : { c with time.waiting := x } = c := by
  subst h; rfl
theorem keep_grant {c : Chip} {x : SMap Nat} {y : List (Nat × Nat)} {v w : List RspItem} (hv : v = c.hport.responses)
    (hw : w = c.hport.rspWait) (hx : x = c.hport.grant) (hy : y = c.hport.owed) :
    { c with hport.responses := v, hport.rspWait := w, hport.grant := x, hport.owed := y } = c := by subst hv hw hx hy; rfl
theorem keep_starts {c : Chip} {x : List PwrReq} (h : x = c.pwr.queue) : { c with pwr.queue := x } = c := by subst h; rfl

theorem servePages_idle {c : Chip} (ho : c.outbox = []) (hw : c.tlk.waitReqs = []) (hh : c.tlk.heldReqs = []) : servePages c = c := by
  simp only [servePages, ho, hw, hh, List.filter_nil, List.append_nil, List.foldl_nil]
  exact keep_queues hh.symm hw.symm ho.symm

theorem commitWrites_idle {c : Chip} (h : ∀ kr ∈ c.ring.rings, ∀ d ∈ kr.2.descs, d.owes = false) : commitWrites c = c := by
  have e : (c.ring.rings.flatMap fun kr => (kr.2.descs.filter Desc.owes).map fun d => (kr.1, d.idx)) = [] := by
    rw [List.flatMap_eq_nil_iff]
    intro kr hk
    simp only [List.map_eq_nil_iff, List.filter_eq_nil_iff]
    intro d hd
    simp [h kr hk d hd]
  simp [commitWrites, e]

theorem noteLatchWait_idle {c : Chip} (h : c.snap.latCopy = true → c.wvm.wants = none) : noteLatchWait c = c := by
  unfold noteLatchWait
  split
  · rfl
  · rename_i w e
    cases hl : c.snap.latCopy
    · simp
    · simp [h hl] at e

theorem noteJournals_idle {c : Chip} (h : classDescs c 6 (fun d => decide (d.phase = .running ∧ d.opc = 2 ∧ d.prog = 1)) = []) :
    noteJournals c = c := by unfold noteJournals; rw [h]; rfl

theorem sendAcks_idle {c : Chip} (hg : gives c = true) (h : ∀ n, (portOf c n).flows = true → (portOf c n).owing true = false) :
    sendAcks c = c :=
  foldl_id _ _ _ fun n _ => by
    cases hf : (portOf c n).flows
    · simp
    · simp [hg, h n hf]

theorem returnGrant_idle {c : Chip} (h : c.hport.owed = []) (hr : c.hport.rspWait = []) : returnGrant c = c := by
  unfold returnGrant
  split
  · simp only [h, hr, List.foldl_nil, List.append_nil]; exact keep_grant rfl hr.symm rfl h.symm
  · rfl

theorem eachRing_idle {f : Nat → Chip → Chip} {c : Chip} (h : ∀ n ∈ ringKeys c, f n c = c) : eachRing f c = c :=
  foldl_id _ _ _ h

theorem retireFront_idle {c : Chip} {n k : Nat} (h : (ringOf c n).Still c) : retireFront n k c = c := by
  cases k with
  | zero => rfl
  | succ k =>
    unfold retireFront
    simp only
    split
    · rfl
    · rename_i d rest e
      simp [h.front d rest e]

theorem reachStep2_idle {c : Chip} {n : Nat} (h : (ringOf c n).Still c) : reachStep2 n c = c := by
  unfold reachStep2
  simp only
  split
  · rfl
  · rename_i hr
    simp only [Bool.or_eq_true, Bool.not_eq_true', not_or] at hr
    split
    · rfl
    · rename_i d e
      have := (h.next d e).1
      split
      · rfl
      · rename_i hd
        simp only [not_or, ne_eq, Decidable.not_not] at hd
        simp_all

theorem markReady_idle {c : Chip} {n : Nat} (h : (ringOf c n).Still c) : markReady n c = c := by
  unfold markReady
  simp only
  split
  · rfl
  · rename_i d e
    have := (h.next d e).2
    split
    · rename_i hd; exact absurd hd.2 (this hd.1)
    · rfl

theorem advanceRings_idle {c : Chip} (h : ∀ n ∈ ringKeys c, (ringOf c n).Still c) : advanceRings c = c := by
  unfold advanceRings
  rw [eachRing_idle (f := fun n c => retireFront n (ringOf c n).descs.length c) fun n hn => retireFront_idle (h n hn),
    eachRing_idle fun n hn => reachStep2_idle (h n hn), eachRing_idle fun n hn => markReady_idle (h n hn)]

theorem drainSums_idle {c : Chip} (h : ∀ kr ∈ c.ring.rings, ∀ d ∈ kr.2.descs, d.sums = []) : drainSums c = c := by
  have none_ {β : Type} (p : Desc → Bool) (g : Nat → Desc → β) (hp : ∀ d : Desc, d.sums = [] → p d = false) :
      (c.ring.rings.flatMap fun kr => (kr.2.descs.filter p).map (g kr.1)) = [] := by
    rw [List.flatMap_eq_nil_iff]
    intro kr hk
    simp only [List.map_eq_nil_iff, List.filter_eq_nil_iff]
    intro d hd
    simp [hp d (h kr hk d hd)]
  have e1 : newlyDue c = [] := by
    rw [newlyDue, List.flatMap_eq_nil_iff]
    intro kr hk
    simp only [List.map_eq_nil_iff, List.filter_eq_nil_iff]
    intro d hd
    simp [h kr hk d hd]
  have e2 : dueOrder c = [] := by
    unfold dueOrder
    rw [none_ (fun d => !d.sums.isEmpty && d.due != 0) (fun n d => (d.due, n, d.idx)) fun d hd => by simp [hd]]
    rfl
  simp [drainSums, e1, e2]

theorem dropStarts_idle {c : Chip} {u : Nat} (h : ∀ q ∈ c.pwr.queue, unitOf q.unit ≠ u) : dropStarts u c = c :=
  keep_starts (List.filter_eq_self.2 fun q hq => by simp [h q hq])

theorem keepGated_idle {c : Chip} (h : ∀ u, unitKept c u = false) (hm : ∀ q ∈ c.pwr.queue, unitOf q.unit ≠ 11) : keepGated c = c := by
  have e : (rangeFrom 1 11).foldl (fun c u => if unitKept c u then blockGate u (dropStarts u c) else c) c = c :=
    foldl_id _ _ _ fun u _ => by simp [h u]
  unfold keepGated
  simp only [e, dropStarts_idle hm, ite_self]

theorem answerProxies_idle {c : Chip} (h : c.tlk.proxies = []) : answerProxies c = c := by simp [answerProxies, h]

theorem sendAll_idle {c : Chip} (ho : c.outbox = []) (hw : c.tlk.waitReqs = []) (hs : c.sync.held = []) : sendAll c = c := by
  have e : { c with tlk.waitReqs := [], outbox := [] } = c :=
    calc _ = { c with tlk.waitReqs := c.tlk.waitReqs, outbox := c.outbox } := by rw [ho, hw]
      _ = c := rfl
  simp [sendAll, ho, hw, e, sendSignals, hs]

theorem flushWaiting_idle {c : Chip} (h : c.time.waiting = []) : flushWaiting c = c := by
  unfold flushWaiting
  split
  · simp only [h, List.foldl_nil]; exact keep_records h.symm
  · rfl

theorem flushEvents_idle {c : Chip} (he : c.events = []) (hf : c.firsts = []) (hw : c.time.waiting = []) : flushEvents c = c := by
  simp only [flushEvents, he, List.foldl_nil, flushWaiting_idle hw]
  exact keep_events he.symm hf.symm

/-- A map that changes nothing listed leaves a canonical table as it is. -/
theorem SMap.mapVal_idle {α : Type} [DecidableEq α] {d : α} {f : Nat → α → α} {m : SMap α} {lo : Nat}
    (hw : SMap.wfFrom d lo m = true) (h : ∀ p ∈ m, f p.1 p.2 = p.2) : SMap.mapVal d f m = m := by
  induction m generalizing lo with
  | nil => rfl
  | cons p m ih =>
    obtain ⟨k, v⟩ := p
    simp only [SMap.wfFrom, Bool.and_eq_true, decide_eq_true_eq, Bool.not_eq_true', decide_eq_false_iff_not] at hw
    unfold SMap.mapVal
    rw [h (k, v) (by simp), ih hw.2 fun p hp => h p (List.mem_cons_of_mem _ hp), SMap.set, if_neg hw.1.2]
    cases m with
    | nil => rfl
    | cons q m =>
      obtain ⟨j, w⟩ := q
      have := hw.2
      simp only [SMap.wfFrom, Bool.and_eq_true, decide_eq_true_eq] at this
      simp [SMap.insert, show k < j by omega]

/-- A context whose wait is not over is not released. -/
theorem releaseCtx_idle {c : Chip} {x : Ctx} (h : x.due c = false) : releaseCtx c x = x := by
  unfold releaseCtx
  split
  · rfl
  · rename_i hw
    simp only [Bool.not_eq_true', Bool.not_eq_false] at hw
    simp only [Ctx.due, hw, Bool.true_and] at h
    split <;> simp_all

theorem endCtx_idle {c : Chip} {x : Ctx} (he : x.ending = false) (hs : x.stopping = false) : endCtx c x = x := by
  simp [endCtx, he, hs]

theorem quiesceCtx_idle {c : Chip} {x : Ctx} (h : (pageOf c pSEQ).qreq = false) : quiesceCtx c x = x := by
  simp [quiesceCtx, h]

theorem wakeAll_idle {c : Chip} (hw : SMap.wf Ctx.idle c.seq.ctxs = true) (hq : (pageOf c pSEQ).qreq = false)
    (h : ∀ p ∈ c.seq.ctxs, p.2.due c = false ∧ p.2.ending = false ∧ p.2.stopping = false) : wakeAll c = c := by
  have e : SMap.mapVal Ctx.idle (fun _ x => releaseCtx c (endCtx c (quiesceCtx c x))) c.seq.ctxs = c.seq.ctxs :=
    SMap.mapVal_idle hw fun p hp => by
      obtain ⟨h1, h2, h3⟩ := h p hp
      rw [quiesceCtx_idle hq, endCtx_idle h2 h3, releaseCtx_idle h1]
  unfold wakeAll
  rw [e]

theorem isQuiet_busy {c : Chip} (h : ∃ p ∈ c.seq.ctxs, p.2.st = .ready) : isQuiet c = false := by
  obtain ⟨p, hp, hr⟩ := h
  unfold isQuiet
  rw [Bool.and_eq_false_iff]
  left
  rw [List.all_eq_false]
  exact ⟨p, hp, by simp [hr]⟩

theorem noteQuiet_busy {c : Chip} (hb : ∃ p ∈ c.seq.ctxs, p.2.st = .ready) (hq : c.sync.quietSince = none)
    (hl : c.pwr.lend ≠ 1 ∧ c.pwr.lend ≠ 2) : noteQuiet c = c := by
  have e : { c with sync.quietSince := none } = c :=
    calc { c with sync.quietSince := none } = { c with sync.quietSince := c.sync.quietSince } := by rw [hq]
      _ = c := rfl
  simp only [noteQuiet, isQuiet_busy hb, Bool.and_false, e, Bool.false_eq_true, if_false]
  unfold reclaim
  split
  · rename_i h; exact absurd h hl.1
  · rename_i h; exact absurd h hl.2
  · rfl


/-! ## Calm states stay calm -/

theorem SMap.self_mem_insert {α : Type} (v : α) (m : SMap α) (n : Nat) : (n, v) ∈ SMap.insert v m n := by
  induction m with
  | nil => simp [SMap.insert]
  | cons q m ih =>
    obtain ⟨k, w⟩ := q
    unfold SMap.insert
    split
    · simp
    · split
      · simp
      · exact List.mem_cons_of_mem _ ih

/-- What a canonical table lists under a key is what it reads as. -/
theorem SMap.get_listed {α : Type} [DecidableEq α] {d : α} {m : SMap α} {lo k : Nat} {v : α} (hw : SMap.wfFrom d lo m = true)
    (h : (k, v) ∈ m) : SMap.get d m k = v ∧ lo ≤ k ∧ v ≠ d := by
  induction m generalizing lo with
  | nil => simp at h
  | cons q m ih =>
    obtain ⟨j, w⟩ := q
    simp only [SMap.wfFrom, Bool.and_eq_true, decide_eq_true_eq, Bool.not_eq_true', decide_eq_false_iff_not] at hw
    rcases List.mem_cons.1 h with h | h
    · obtain ⟨rfl, rfl⟩ := Prod.mk.inj h
      exact ⟨by simp [SMap.get], hw.1.1, hw.1.2⟩
    · obtain ⟨h1, h2, h3⟩ := ih hw.2 h
      exact ⟨by simp [SMap.get, show j ≠ k by omega, h1], by omega, h3⟩

/-- What a table reads as is listed, if it is not the default. -/
theorem SMap.listed {α : Type} (d : α) (m : SMap α) (n : Nat) (h : SMap.get d m n ≠ d) : (n, SMap.get d m n) ∈ m :=
  (SMap.get_mem d m n).resolve_left h

theorem ready_ne_idle {x : Ctx} (h : x.st = .ready) : x ≠ Ctx.idle := by
  rintro rfl; exact absurd h (by decide)

theorem due_ready {c : Chip} {x : Ctx} (h : x.st = .ready) : x.due c = false := by simp [Ctx.due, waitsNow, h]

theorem reached_congr {c d : Chip} (h : d.sync = c.sync) : reached d = reached c := by
  funext p t; unfold reached ctrOf; rw [h]

/-- Stillness looks at counters and the ring alone. -/
theorem still_of {c d : Chip} {r : Ring} (h : r.Still c) (hs : d.sync = c.sync := by rfl) : r.Still d :=
  { front := h.front, sums := h.sums
    next := fun x hx => ⟨(h.next x hx).1, fun h2 => (h.next x hx).2 (by
      simpa only [step2Holds, reached_congr hs] using h2)⟩ }

/-- A context that runs on leaves a calm core calm. -/
theorem calm_setCtx {c : Chip} {n : Nat} {x : Ctx} (h : Calm c) (hr : x.st = .ready) (he : x.ending = false)
    (hs : x.stopping = false) : Calm (setCtx n x c) := by
  have hx : SMap.set Ctx.idle c.seq.ctxs n x = SMap.insert x c.seq.ctxs n := by simp [SMap.set, ready_ne_idle hr]
  exact
  { running := h.running, p0 := h.p0, outbox := h.outbox, waiting := h.waiting, held := h.held, signals := h.signals
    proxies := h.proxies, events := h.events, firsts := h.firsts, records := h.records, acks := h.acks, credits := h.credits
    responses := h.responses, moves := h.moves, latch := h.latch
    warm := h.warm, detach := h.detach, gates := h.gates, journals := h.journals
    rings := fun kr hk => ⟨still_of (h.rings kr hk).1, (h.rings kr hk).2⟩, sequencer := h.sequencer, quiet := h.quiet, lend := h.lend
    contexts := fun p hp => by
      have hp : p ∈ SMap.insert x c.seq.ctxs n := hx ▸ hp
      rcases SMap.mem_insert hp with rfl | hp
      · exact ⟨due_ready hr, he, hs⟩
      · exact h.contexts p hp
    canonical := SMap.wf_set _ _ _ _ h.canonical
    busy := ⟨(n, x), by
      show (n, x) ∈ SMap.set Ctx.idle c.seq.ctxs n x
      rw [hx]; exact SMap.self_mem_insert _ _ _, hr⟩ }

/-- An issue leaves a calm core calm. -/
theorem calm_issued {c : Chip} {n : Nat} (h : Calm c) : Calm (issued n c) := by
  have key : ∀ p ∈ (issued n c).seq.ctxs, ∃ y, (p.1, y) ∈ c.seq.ctxs ∧ p.2.st = y.st ∧ p.2.wait = y.wait ∧
      p.2.ending = y.ending ∧ p.2.stopping = y.stopping ∧ p.2.sums = y.sums ∧ p.2.accs = y.accs := by
    intro p hp
    obtain ⟨y, hy, e⟩ := SMap.mem_mapVal _ _ _ hp
    refine ⟨y, hy, ?_⟩
    rw [e]
    split <;> simp
  exact
  { running := h.running, p0 := h.p0, outbox := h.outbox, waiting := h.waiting, held := h.held, signals := h.signals
    proxies := h.proxies, events := h.events, firsts := h.firsts, records := h.records, acks := h.acks, credits := h.credits
    responses := h.responses, moves := h.moves, latch := h.latch
    warm := h.warm, detach := h.detach, gates := h.gates, journals := h.journals
    rings := fun kr hk => ⟨still_of (h.rings kr hk).1, (h.rings kr hk).2⟩, sequencer := h.sequencer, quiet := h.quiet, lend := h.lend
    contexts := fun p hp => by
      obtain ⟨y, hy, h1, h2, h3, h4, h5, h6⟩ := key p hp
      obtain ⟨d, he, hs⟩ := h.contexts _ hy
      refine ⟨?_, by rw [h3]; exact he, by rw [h4]; exact hs⟩
      have hw : waitsNow p.2 = waitsNow y := by simp [waitsNow, h1, h3]
      have hm : ∀ m, MemWait.over (Machine.issued n c) p.2 m = MemWait.over c y m := by
        intro m
        cases m <;> simp only [MemWait.over, Ctx.busy, Ctx.loads, Ctx.stores, h6] <;> rfl
      rw [← d]
      simp only [Ctx.due, hw, h2, h5]
      cases y.wait with
      | counter v q t => cases q <;> rfl
      | memory m => simp only [hm]
      | _ => rfl
    canonical := SMap.wf_mapVal _ _ _
    busy := by
      obtain ⟨p, hp, hr⟩ := h.busy
      have hg := (SMap.get_listed h.canonical hp).1
      have e : ctxOf (Machine.issued n c) p.1 = if p.1 ≠ n ∧ p.1 % Config.pipes = n % Config.pipes ∧ p.2.st = .ready then
          { p.2 with passOver := p.2.passOver - 1 } else p.2 := by
        rw [← hg]; exact SMap.get_mapVal Ctx.idle _ _ p.1 (by simp [Ctx.idle])
      have hs : (ctxOf (Machine.issued n c) p.1).st = .ready := by rw [e]; split <;> exact hr
      exact ⟨(p.1, _), SMap.listed Ctx.idle _ p.1 (ready_ne_idle hs), hs⟩ }

/-! ## Settled contexts -/

/-- Whether a wait is over depends on counters, held signals, bridle lines and rings alone. -/
theorem due_congr {c d : Chip} (x : Ctx) (hs : d.sync.ctrs = c.sync.ctrs) (hh : d.sync.held = c.sync.held)
    (hl : d.sync.lines = c.sync.lines) (hr : d.ring = c.ring) : x.due d = x.due c := by
  have h1 : reached d = reached c := by funext p t; unfold reached ctrOf; rw [hs]
  have h2 : ringOf d = ringOf c := by funext n; unfold ringOf; rw [hr]
  have h3 : barDone d = barDone c := by funext l t; unfold barDone barOf; rw [hl]
  have h4 : ∀ m, MemWait.over d x m = MemWait.over c x m := by
    intro m; cases m <;> first | rfl | simp only [MemWait.over, hh]
  simp only [Ctx.due, h1, h2, h3, h4]

/-- A KILL or EXIT that is left waits for an access. -/
theorem endCtx_ends (c : Chip) (x : Ctx) : (endCtx c x).ending = true → (endCtx c x).accs ≠ [] := by
  unfold endCtx
  split
  · intro h; exact absurd h (by simp [Ctx.idle])
  · rename_i h1
    simp only [Bool.and_eq_true, List.isEmpty_iff, not_and] at h1
    split <;> exact h1

/-- A STOP that is left waits for a load or an atomic. -/
theorem endCtx_stops (c : Chip) (x : Ctx) : (endCtx c x).stopping = true → (endCtx c x).accs.any Acc.loading = true := by
  unfold endCtx
  split
  · intro h; exact absurd h (by simp [Ctx.idle])
  · split
    · intro h; exact absurd h (by simp)
    · rename_i h
      intro hs
      simpa [hs] using h

/-- A quiesce request leaves no context that runs or waits without a stop or an end under way. -/
theorem quiesce_quiet (c : Chip) (x : Ctx) (hq : (pageOf c pSEQ).qreq = true) :
    ((quiesceCtx c x).st = .ready ∨ (quiesceCtx c x).st = .waiting) →
      (quiesceCtx c x).ending = true ∨ (quiesceCtx c x).stopping = true := by
  unfold quiesceCtx
  split
  · intro _; right; rfl
  · rename_i h
    intro hs
    simp only [hq, Bool.true_and, Bool.and_eq_true, decide_eq_true_eq, Bool.not_eq_true', not_and, Bool.not_eq_false] at h
    by_cases he : x.ending = true
    · exact .inl he
    · exact .inr (h ⟨hs, by simpa using he⟩)

/-- Ending and stopping keep that. -/
theorem endCtx_quiet (c : Chip) (x : Ctx)
    (h : (x.st = .ready ∨ x.st = .waiting) → x.ending = true ∨ x.stopping = true) :
    ((endCtx c x).st = .ready ∨ (endCtx c x).st = .waiting) → (endCtx c x).ending = true ∨ (endCtx c x).stopping = true := by
  unfold endCtx
  split
  · intro h; exact absurd h (by simp [Ctx.idle])
  · split
    · intro h; exact absurd h (by simp)
    · exact h

/-- A released context is as it was, or ready to go on. -/
theorem releaseCtx_cases (c : Chip) (x : Ctx) :
    (releaseCtx c x = x ∧ x.due c = false) ∨ ((releaseCtx c x).st = .ready ∧ x.st = .waiting ∧ (releaseCtx c x).ending = x.ending ∧
      (releaseCtx c x).stopping = x.stopping ∧ (releaseCtx c x).accs = x.accs) := by
  by_cases hw : waitsNow x = true
  · have hst : x.st = .waiting := by simp only [waitsNow, Bool.and_eq_true, decide_eq_true_eq] at hw; exact hw.1
    simp only [releaseCtx, Ctx.due, hw, Bool.not_true, Bool.false_eq_true, if_false, Bool.true_and]
    cases hwt : x.wait with
    | counter v q t =>
      cases q with
      | none => exact .inl ⟨rfl, rfl⟩
      | some p =>
        by_cases hp : reached c p t = true
        · simp [hp, Ctx.goPast, hst]
        · simp [hp]
    | summary => by_cases hp : x.sums = [] <;> simp [hp, Ctx.goOn, hst]
    | ringSpace n k => by_cases hp : k ≤ (ringOf c n).freeSlots <;> simp [hp, Ctx.goOn, hst]
    | memory m => by_cases hp : m.over c x = true <;> simp [hp, Ctx.goOn, hst]
    | barrier l t => by_cases hp : barDone c l t = true <;> simp [hp, Ctx.goPast, hst]
    | _ => exact .inl ⟨rfl, rfl⟩
  · left
    simp [releaseCtx, Ctx.due, hw]

/-- A context that has been stopped, ended and released is settled. -/
theorem settled_release (c : Chip) (x : Ctx) : (releaseCtx c (endCtx c (quiesceCtx c x))).Settled c := by
  rcases releaseCtx_cases c (endCtx c (quiesceCtx c x)) with ⟨e, hd⟩ | ⟨hr, hw, h1, h2, h3⟩
  · rw [e]
    exact ⟨hd, endCtx_ends c _, endCtx_stops c _, fun hq => endCtx_quiet c _ (quiesce_quiet c x hq)⟩
  · refine ⟨due_ready hr, ?_, ?_, fun hq _ => ?_⟩
    · rw [h1, h3]; exact endCtx_ends c _
    · rw [h2, h3]; exact endCtx_stops c _
    · rw [h1, h2]; exact endCtx_quiet c _ (quiesce_quiet c x hq) (.inr hw)

/-- Being settled depends on counters, held signals, bridle lines, rings and pages alone. -/
theorem settled_congr {c d : Chip} {x : Ctx} (h : x.Settled c) (hs : d.sync.ctrs = c.sync.ctrs) (hh : d.sync.held = c.sync.held)
    (hl : d.sync.lines = c.sync.lines) (hr : d.ring = c.ring) (hp : d.pages = c.pages) : x.Settled d :=
  ⟨(due_congr x hs hh hl hr).trans h.waits, h.ends, h.stops, fun hq => h.quiet (by simpa only [pageOf, hp] using hq)⟩

/-- The record of quiet touches nothing that contexts look at. -/
theorem noteQuiet_keeps (c : Chip) : (noteQuiet c).sync.ctrs = c.sync.ctrs ∧ (noteQuiet c).sync.held = c.sync.held ∧
    (noteQuiet c).sync.lines = c.sync.lines ∧ (noteQuiet c).ring = c.ring ∧ (noteQuiet c).pages = c.pages ∧
    (noteQuiet c).seq = c.seq ∧ (noteQuiet c).core = c.core ∧ (noteQuiet c).pwr.state = c.pwr.state := by
  unfold noteQuiet
  split
  · exact ⟨rfl, rfl, rfl, rfl, rfl, rfl, rfl, rfl⟩
  · unfold reclaim
    split <;> exact ⟨rfl, rfl, rfl, rfl, rfl, rfl, rfl, rfl⟩

end Sys2Proof.Machine
end

