-- ==== Sys2Proof/Laws/Issue.lean ====
section
/-! SUPPORT. How every sequencer instruction is issued. -/

namespace Sys2Proof.Machine

/-- What it takes to show how an instruction is issued. -/
theorem issues_of {i : Instr} {o : SeqOp} {f : SeqForm} (h : formOf i = some (o, f)) {p : SeqOp} {k : SeqForm} {m : Chip → Chip}
    (hp : formOf i = some (p, k)) (hm : ∀ s, exec i s = run m s) (g : Ctx → Chip → Chip) (hg : ∀ c, m c = seqIssue p k g c) :
    ∃ g, ∀ s, exec i s = run (seqIssue o f g) s := by
  obtain ⟨rfl, rfl⟩ := Prod.mk.inj (Option.some.inj (hp.symm.trans h))
  exact ⟨g, fun s => by rw [hm, funext hg]⟩

/-- Every sequencer instruction is issued in the same way, with an effect of its own. -/
theorem exec_issues {i : Instr} {o : SeqOp} {f : SeqForm} (h : formOf i = some (o, f)) :
    ∃ g, ∀ s, exec i s = run (seqIssue o f g) s := by
  cases i
  case add p => exact issues_of h rfl (fun _ => rfl) _ fun _ => by unfold seqAdd aluReg; rfl
  case sub p => exact issues_of h rfl (fun _ => rfl) _ fun _ => by unfold seqSub aluReg; rfl
  case mul p => exact issues_of h rfl (fun _ => rfl) _ fun _ => by unfold seqMul aluReg; rfl
  case mulhu p => exact issues_of h rfl (fun _ => rfl) _ fun _ => by unfold seqMulhu aluReg; rfl
  case mulhs p => exact issues_of h rfl (fun _ => rfl) _ fun _ => by unfold seqMulhs aluReg; rfl
  case divu p => exact issues_of h rfl (fun _ => rfl) _ fun _ => by unfold seqDivu aluReg; rfl
  case divs p => exact issues_of h rfl (fun _ => rfl) _ fun _ => by unfold seqDivs aluReg; rfl
  case remu p => exact issues_of h rfl (fun _ => rfl) _ fun _ => by unfold seqRemu aluReg; rfl
  case rems p => exact issues_of h rfl (fun _ => rfl) _ fun _ => by unfold seqRems aluReg; rfl
  case and p => exact issues_of h rfl (fun _ => rfl) _ fun _ => by unfold seqAnd aluReg; rfl
  case or p => exact issues_of h rfl (fun _ => rfl) _ fun _ => by unfold seqOr aluReg; rfl
  case xor p => exact issues_of h rfl (fun _ => rfl) _ fun _ => by unfold seqXor aluReg; rfl
  case andn p => exact issues_of h rfl (fun _ => rfl) _ fun _ => by unfold seqAndn aluReg; rfl
  case shl p => exact issues_of h rfl (fun _ => rfl) _ fun _ => by unfold seqShl aluReg; rfl
  case shr p => exact issues_of h rfl (fun _ => rfl) _ fun _ => by unfold seqShr aluReg; rfl
  case sar p => exact issues_of h rfl (fun _ => rfl) _ fun _ => by unfold seqSar aluReg; rfl
  case rol p => exact issues_of h rfl (fun _ => rfl) _ fun _ => by unfold seqRol aluReg; rfl
  case min p => exact issues_of h rfl (fun _ => rfl) _ fun _ => by unfold seqMin aluReg; rfl
  case max p => exact issues_of h rfl (fun _ => rfl) _ fun _ => by unfold seqMax aluReg; rfl
  case minu p => exact issues_of h rfl (fun _ => rfl) _ fun _ => by unfold seqMinu aluReg; rfl
  case maxu p => exact issues_of h rfl (fun _ => rfl) _ fun _ => by unfold seqMaxu aluReg; rfl
  case clz p => exact issues_of h rfl (fun _ => rfl) _ fun _ => by unfold seqClz aluReg; rfl
  case ctz p => exact issues_of h rfl (fun _ => rfl) _ fun _ => by unfold seqCtz aluReg; rfl
  case popc p => exact issues_of h rfl (fun _ => rfl) _ fun _ => by unfold seqPopc aluReg; rfl
  case sel p => exact issues_of h rfl (fun _ => rfl) _ fun _ => by unfold seqSel aluReg; rfl
  case madd p => exact issues_of h rfl (fun _ => rfl) _ fun _ => by unfold seqMadd aluReg; rfl
  case bfx p => exact issues_of h rfl (fun _ => rfl) _ fun _ => by unfold seqBfx aluReg; rfl
  case bfi p => exact issues_of h rfl (fun _ => rfl) _ fun _ => by unfold seqBfi aluReg; rfl
  case cmpeq p => exact issues_of h rfl (fun _ => rfl) _ fun _ => by unfold seqCmpeq aluPred; rfl
  case cmpne p => exact issues_of h rfl (fun _ => rfl) _ fun _ => by unfold seqCmpne aluPred; rfl
  case cmplt p => exact issues_of h rfl (fun _ => rfl) _ fun _ => by unfold seqCmplt aluPred; rfl
  case cmple p => exact issues_of h rfl (fun _ => rfl) _ fun _ => by unfold seqCmple aluPred; rfl
  case cmpltu p => exact issues_of h rfl (fun _ => rfl) _ fun _ => by unfold seqCmpltu aluPred; rfl
  case cmpleu p => exact issues_of h rfl (fun _ => rfl) _ fun _ => by unfold seqCmpleu aluPred; rfl
  case pand p => exact issues_of h rfl (fun _ => rfl) _ fun _ => by unfold seqPand predOp; rfl
  case por p => exact issues_of h rfl (fun _ => rfl) _ fun _ => by unfold seqPor predOp; rfl
  case pxor p => exact issues_of h rfl (fun _ => rfl) _ fun _ => by unfold seqPxor predOp; rfl
  case pandn p => exact issues_of h rfl (fun _ => rfl) _ fun _ => by unfold seqPandn predOp; rfl
  case movp p => exact issues_of h rfl (fun _ => rfl) _ fun _ => by unfold seqMovp; rfl
  case movtp p => exact issues_of h rfl (fun _ => rfl) _ fun _ => by unfold seqMovtp; rfl
  case fadd p => exact issues_of h rfl (fun _ => rfl) _ fun _ => by unfold seqFadd aluReg; rfl
  case fsub p => exact issues_of h rfl (fun _ => rfl) _ fun _ => by unfold seqFsub aluReg; rfl
  case fmul p => exact issues_of h rfl (fun _ => rfl) _ fun _ => by unfold seqFmul aluReg; rfl
  case fdiv p => exact issues_of h rfl (fun _ => rfl) _ fun _ => by unfold seqFdiv aluReg; rfl
  case fsqrt p => exact issues_of h rfl (fun _ => rfl) _ fun _ => by unfold seqFsqrt aluReg; rfl
  case fma p => exact issues_of h rfl (fun _ => rfl) _ fun _ => by unfold seqFma aluReg; rfl
  case fmin p => exact issues_of h rfl (fun _ => rfl) _ fun _ => by unfold seqFmin aluReg; rfl
  case fmax p => exact issues_of h rfl (fun _ => rfl) _ fun _ => by unfold seqFmax aluReg; rfl
  case fcmplt p => exact issues_of h rfl (fun _ => rfl) _ fun _ => by unfold seqFcmplt aluPred; rfl
  case fcmple p => exact issues_of h rfl (fun _ => rfl) _ fun _ => by unfold seqFcmple aluPred; rfl
  case fcmpeq p => exact issues_of h rfl (fun _ => rfl) _ fun _ => by unfold seqFcmpeq aluPred; rfl
  case fcvti p => exact issues_of h rfl (fun _ => rfl) _ fun _ => by unfold seqFcvti aluReg; rfl
  case icvtf p => exact issues_of h rfl (fun _ => rfl) _ fun _ => by unfold seqIcvtf aluReg; rfl
  case fisfin p => exact issues_of h rfl (fun _ => rfl) _ fun _ => by unfold seqFisfin aluPred; rfl
  case movi p => exact issues_of h rfl (fun _ => rfl) _ fun _ => by unfold seqMovi aluReg; rfl
  case orhi p => exact issues_of h rfl (fun _ => rfl) _ fun _ => by unfold seqOrhi aluReg; rfl
  case ld p => exact issues_of h rfl (fun _ => rfl) _ fun _ => by unfold seqLd; rfl
  case st p => exact issues_of h rfl (fun _ => rfl) _ fun _ => by unfold seqSt; rfl
  case amoadd p => exact issues_of h rfl (fun _ => rfl) _ fun _ => by unfold seqAmoadd seqAmo; rfl
  case amoswap p => exact issues_of h rfl (fun _ => rfl) _ fun _ => by unfold seqAmoswap seqAmo; rfl
  case amocas p => exact issues_of h rfl (fun _ => rfl) _ fun _ => by unfold seqAmocas seqAmo; rfl
  case amomaxu p => exact issues_of h rfl (fun _ => rfl) _ fun _ => by unfold seqAmomaxu seqAmo; rfl
  case b p => exact issues_of h rfl (fun _ => rfl) _ fun _ => by unfold seqB; rfl
  case bl p => exact issues_of h rfl (fun _ => rfl) _ fun _ => by unfold seqBl; rfl
  case jr p => exact issues_of h rfl (fun _ => rfl) _ fun _ => by unfold seqJr; rfl
  case jlr p => exact issues_of h rfl (fun _ => rfl) _ fun _ => by unfold seqJlr; rfl
  case dbnz p => exact issues_of h rfl (fun _ => rfl) _ fun _ => by unfold seqDbnz; rfl
  case bz p => exact issues_of h rfl (fun _ => rfl) _ fun _ => by unfold seqBz; rfl
  case bnz p => exact issues_of h rfl (fun _ => rfl) _ fun _ => by unfold seqBnz; rfl
  case ringPut p => exact issues_of h rfl (fun _ => rfl) _ fun _ => by unfold seqRingPut; rfl
  case ringPut2 p => exact issues_of h rfl (fun _ => rfl) _ fun _ => by unfold seqRingPut2; rfl
  case ringGetw p => exact issues_of h rfl (fun _ => rfl) _ fun _ => by unfold seqRingGetw; rfl
  case ringClr p => exact issues_of h rfl (fun _ => rfl) _ fun _ => by unfold seqRingClr; rfl
  case ringPush p => exact issues_of h rfl (fun _ => rfl) _ fun _ => by unfold seqRingPush; rfl
  case ringPushr p => exact issues_of h rfl (fun _ => rfl) _ fun _ => by unfold seqRingPushr; rfl
  case ringTail p => exact issues_of h rfl (fun _ => rfl) _ fun _ => by unfold seqRingTail; rfl
  case ringHead p => exact issues_of h rfl (fun _ => rfl) _ fun _ => by unfold seqRingHead; rfl
  case wait p => exact issues_of h rfl (fun _ => rfl) _ fun _ => by unfold seqWait; rfl
  case test p => exact issues_of h rfl (fun _ => rfl) _ fun _ => by unfold seqTest; rfl
  case signal p => exact issues_of h rfl (fun _ => rfl) _ fun _ => by unfold seqSignal; rfl
  case signalr p => exact issues_of h rfl (fun _ => rfl) _ fun _ => by unfold seqSignalr; rfl
  case ctrrd p => exact issues_of h rfl (fun _ => rfl) _ fun _ => by unfold seqCtrrd; rfl
  case fenceLd p => exact issues_of h rfl (fun _ => rfl) _ fun _ => by unfold seqFenceLd fence; rfl
  case fenceSt p => exact issues_of h rfl (fun _ => rfl) _ fun _ => by unfold seqFenceSt fence; rfl
  case fenceAll p => exact issues_of h rfl (fun _ => rfl) _ fun _ => by unfold seqFenceAll fence; rfl
  case bararr p => exact issues_of h rfl (fun _ => rfl) _ fun _ => by unfold seqBararr; rfl
  case barwait p => exact issues_of h rfl (fun _ => rfl) _ fun _ => by unfold seqBarwait; rfl
  case sumPop p => exact issues_of h rfl (fun _ => rfl) _ fun _ => by unfold seqSumPop; rfl
  case sumTry p => exact issues_of h rfl (fun _ => rfl) _ fun _ => by unfold seqSumTry; rfl
  case sumPeek p => exact issues_of h rfl (fun _ => rfl) _ fun _ => by unfold seqSumPeek; rfl
  case sumCount p => exact issues_of h rfl (fun _ => rfl) _ fun _ => by unfold seqSumCount; rfl
  case sumDrop p => exact issues_of h rfl (fun _ => rfl) _ fun _ => by unfold seqSumDrop; rfl
  case sysNop p => exact issues_of h rfl (fun _ => rfl) _ fun _ => by unfold seqNop; rfl
  case yield p => exact issues_of h rfl (fun _ => rfl) _ fun _ => by unfold seqYield; rfl
  case exit p => exact issues_of h rfl (fun _ => rfl) _ fun _ => by unfold seqExit; rfl
  case spawn p => exact issues_of h rfl (fun _ => rfl) _ fun _ => by unfold seqSpawnOp; rfl
  case cid p => exact issues_of h rfl (fun _ => rfl) _ fun _ => by unfold seqCid; rfl
  case timerd p => exact issues_of h rfl (fun _ => rfl) _ fun _ => by unfold seqTimerd; rfl
  case sleept p => exact issues_of h rfl (fun _ => rfl) _ fun _ => by unfold seqSleept; rfl
  case pgrd p => exact issues_of h rfl (fun _ => rfl) _ fun _ => by unfold seqPgrd; rfl
  case pgwr p => exact issues_of h rfl (fun _ => rfl) _ fun _ => by unfold seqPgwr; rfl
  case notify p => exact issues_of h rfl (fun _ => rfl) _ fun _ => by unfold seqNotify; rfl
  case swfault p => exact issues_of h rfl (fun _ => rfl) _ fun _ => by unfold seqSwfault; rfl
  case iflush p => exact issues_of h rfl (fun _ => rfl) _ fun _ => by unfold seqIflush; rfl
  all_goals exact (Option.some_ne_none _ h.symm).elim

/-- What it takes to show that an instruction completes with an effect written in another way. -/
theorem fires_via {i : Instr} {o : SeqOp} {f : SeqForm} {g k : Ctx → Chip → Chip} (hf : formOf i = some (o, f)) (h : Chip → Chip)
    (hx : ∀ s, exec i s = run h s) (hh : ∀ c, h c = seqIssue o f k c) (e : ∀ x c, k x c = g x c) : Fires i g :=
  Fires.congr (fires_of hf fun s => by rw [hx, funext hh]) e

end Sys2Proof.Machine
end

