-- ==== Sys2Proof/Laws/Ops.lean ====
section
/-! SUPPORT. Lemmas of the shared operations: fields, the forms that rows take, registers and predicates, calm cores, P3, and the
bytes of memory. -/

namespace Sys2Proof.Machine

/-! ## Fields -/

/-- A field of a word, in arithmetic. -/
theorem fld_eq (v : W64) (a b : Nat) : fld v a b = v.toNat / 2 ^ a % 2 ^ b := by simp [fld, bits, Nat.shiftRight_eq_div_pow]


/-- A field of a number, in arithmetic. -/
theorem bits_eq (v a b : Nat) : bits v a b = v / 2 ^ a % 2 ^ b := by simp [bits, Nat.shiftRight_eq_div_pow]

/-! ## Forms of rows -/

/-- A row over a started descriptor. -/
theorem works_row {i : Instr} {q : DescRef} {cls opc : Nat} {h : Chip → Desc → Prop} {f : Desc → Chip → Chip} {m : Chip → Chip}
    (hx : ∀ s, exec i s = run (inP0 m) s) (e : ∀ c d, Running c q cls opc d → h c d → m c = f d c) : Works i q cls opc h f :=
  fun s d hr hs => by
    unfold Answers
    rw [hx s, run_eq (awake_defined hr.awake), inP0_eq hr.awake, e _ _ hr hs]

/-- A row of the links. -/
theorem runs_onLink {i : Instr} {f k : Chip → Chip} {h : Chip → Prop} (hx : ∀ s, exec i s = run (onLink f) s)
    (e : ∀ c, h c → f c = k c) : Runs i h k := takes_of hx fun c hc => by rw [onLink_eq hc.1, e c hc.2]

/-- A row of the host lanes, in P0. -/
theorem acts_onLanes {i : Instr} {f k : Chip → Chip} {h : Chip → Prop} (hx : ∀ s, exec i s = run (onLanes f) s)
    (e : ∀ c, isAwake c = true → h c → f c = k c) : Acts i h k :=
  acts_of hx fun c ha hc => by rw [onLanes_eq (awake_hp ha), e c ha hc]

/-- A row of the host port that its lanes need not run for. -/
theorem runs_onHport {i : Instr} {f k : Chip → Chip} {h : Chip → Prop} (hx : ∀ s, exec i s = run (onHport f) s)
    (e : ∀ c, isUp c = true → h c → f c = k c) : Runs i h k := takes_of hx fun c hc => by rw [onHport_eq hc.1, e c hc.1 hc.2]

/-- A row that acts in P0. -/
theorem answers_awake {i : Instr} {f : Chip → Chip} (hx : ∀ s, exec i s = run (inP0 f) s) (s : State) (h : isAwake s.chip = true) :
    Answers i s (f s.chip) := by
  unfold Answers; rw [hx s, run_eq (awake_defined h), inP0_eq h]

/-! ## Registers and predicates -/

/-- A register written leaves every other. -/
theorem setReg_other (x : Ctx) (r : Nat) (v : W64) {q : Nat} (h : q ≠ r) : (x.setReg r v).reg q = x.reg q := by
  unfold Ctx.setReg
  split
  · rfl
  · unfold Ctx.reg; simp only [SMap.get_set_other _ _ _ h]

/-- A register written leaves the rest of its context. -/
theorem setReg_keeps (x : Ctx) (r : Nat) (v : W64) : (x.setReg r v).preds = x.preds ∧ (x.setReg r v).sums = x.sums ∧
    (x.setReg r v).staging = x.staging ∧ (x.setReg r v).accs = x.accs ∧ (x.setReg r v).st = x.st ∧ (x.setReg r v).ending = x.ending ∧
    (x.setReg r v).stopping = x.stopping := by
  unfold Ctx.setReg; split <;> simp

/-- A predicate written leaves the rest of its context. -/
theorem setPred_keeps (x : Ctx) (r : Nat) (v : Bool) : (x.setPred r v).regs = x.regs ∧ (x.setPred r v).sums = x.sums ∧
    (x.setPred r v).staging = x.staging ∧ (x.setPred r v).accs = x.accs ∧ (x.setPred r v).st = x.st ∧ (x.setPred r v).ending = x.ending ∧
    (x.setPred r v).stopping = x.stopping := by
  unfold Ctx.setPred; split <;> simp

/-- A predicate written leaves every other. -/
theorem setPred_other (x : Ctx) (r : Nat) (v : Bool) {q : Nat} (h : q ≠ r) : (x.setPred r v).pred q = x.pred q := by
  unfold Ctx.setPred
  split
  · rfl
  · rename_i hr
    unfold Ctx.pred
    have e : (1#8 <<< r).getLsbD q = false := by
      simp only [BitVec.getLsbD_shiftLeft, Bool.and_eq_false_iff]
      by_cases hq : q < r
      · left; right; simpa using hq
      · right
        rw [BitVec.getLsbD_one]
        simp; omega
    cases v
    · by_cases h8 : q < 8
      · have e2 : (x.preds &&& ~~~(1#8 <<< r)).getLsbD q = x.preds.getLsbD q := by
          rw [BitVec.getLsbD_and, BitVec.getLsbD_not, e, decide_eq_true h8]
          simp only [Bool.not_false, Bool.and_true]
        simp only [Bool.false_eq_true, if_false, e2]
      · have : ∀ w : BitVec 8, w.getLsbD q = false := fun w => BitVec.getLsbD_of_ge w q (by omega)
        simp [this]
    · simp [BitVec.getLsbD_or, e]

/-! ## Counters -/

/-- The value after a signal. -/
theorem addCounter_value (c : Chip) (p inc : Nat) (h : (ctrOf c p).poisoned = false) (hi : 0 < inc) :
    ctrOf (addCounter p inc c) p = ⟨min ((ctrOf c p).value + inc) ctrMax, false⟩ := by
  have hz : ¬ inc = 0 := by omega
  unfold addCounter
  simp only [hz, h, false_or, Bool.false_eq_true, if_false]
  split
  · exact SMap.get_set_same _ _ _ _
  · exact SMap.get_set_same _ _ _ _

/-- A poisoned counter ignores signals. -/
theorem addCounter_poisoned (c : Chip) (p inc : Nat) (h : (ctrOf c p).poisoned = true) : addCounter p inc c = c := by
  simp [addCounter, h]

/-! ## Calm cores -/

/-- A READY context is listed. -/
theorem listed_of_ready {c : Chip} {n : Nat} (h : (ctxOf c n).st = .ready) : (n, ctxOf c n) ∈ c.seq.ctxs := SMap.listed _ _ _ (ready_ne_idle h)

/-- A core stays calm when nothing that calm speaks of changes. -/
theorem calm_of {c d : Chip} (h : Calm c) (e1 : d.core = c.core := by rfl) (e2 : d.pwr.state = c.pwr.state := by rfl)
   (e3 : d.outbox = c.outbox := by rfl) (e4 : d.tlk.waitReqs = c.tlk.waitReqs := by rfl) (e5 : d.sync = c.sync := by rfl)
   (e6 : d.tlk.proxies = c.tlk.proxies := by rfl) (e7 : d.events = c.events := by rfl) (e8 : d.hport = c.hport := by rfl)
   (e9 : d.pages = c.pages := by rfl) (e10 : d.ring = c.ring := by rfl) (e11 : d.seq.ctxs = c.seq.ctxs := by rfl)
   (e12 : d.pwr.lend = c.pwr.lend := by rfl) (e13 : ∀ u, unitKept d u = unitKept c u := by intro; rfl)
   (e14 : d.tlk.heldReqs = c.tlk.heldReqs := by rfl) (e15 : d.tlk.ports = c.tlk.ports := by rfl)
   (e16 : d.time.waiting = c.time.waiting := by rfl) (e17 : d.firsts = c.firsts := by rfl)
   (e18 : d.pwr.queue = c.pwr.queue := by rfl) (e19 : d.snap.latCopy = c.snap.latCopy := by rfl)
   (e20 : d.wvm.wants = c.wvm.wants := by rfl) : Calm d :=
  { running := by rw [e1]; exact h.running
    p0 := by rw [e2]; exact h.p0
    outbox := by rw [e3]; exact h.outbox
    waiting := by rw [e4]; exact h.waiting
    held := by rw [e14]; exact h.held
    signals := by rw [e5]; exact h.signals
    proxies := by rw [e6]; exact h.proxies
    events := by rw [e7]; exact h.events
    firsts := by rw [e17]; exact h.firsts
    records := by rw [e16]; exact h.records
    acks := fun n => by unfold portOf; rw [e15]; exact h.acks n
    credits := by rw [e8]; exact h.credits
    responses := by rw [e8]; exact h.responses
    moves := by rw [e18]; exact h.moves
    latch := by rw [e19, e20]; exact h.latch
    journals := by unfold classDescs; rw [e10]; exact h.journals
    warm := by rw [e1]; exact h.warm
    detach := by rw [e8]; exact h.detach
    gates := fun u => (e13 u).trans (h.gates u)
    rings := fun kr hk => by
      rw [e10] at hk
      have : ringOf d kr.1 = ringOf c kr.1 := by unfold ringOf; rw [e10]
      rw [this]
      exact ⟨still_of (h.rings kr hk).1 e5, (h.rings kr hk).2⟩
    sequencer := by unfold pageOf; rw [e9]; exact h.sequencer
    contexts := fun p hp => by
      rw [e11] at hp
      have := h.contexts p hp
      rw [due_congr (d := d) (c := c) p.2 (by rw [e5]) (by rw [e5]) (by rw [e5]) e10]
      exact this
    canonical := by rw [e11]; exact h.canonical
    busy := by rw [e11]; exact h.busy
    quiet := by rw [e5]; exact h.quiet
    lend := by rw [e12]; exact h.lend }

/-- A core stays calm whatever LMEM holds. -/
theorem calm_lmem {c : Chip} (l : LmemSt) (h : Calm c) : Calm { c with lmem := l } :=
  { running := h.running, p0 := h.p0, outbox := h.outbox, waiting := h.waiting, held := h.held, signals := h.signals
    proxies := h.proxies, events := h.events, firsts := h.firsts, records := h.records, acks := h.acks, credits := h.credits
    responses := h.responses, moves := h.moves, latch := h.latch
    warm := h.warm, detach := h.detach, gates := h.gates, journals := h.journals
    rings := fun kr hk => ⟨still_of (h.rings kr hk).1, (h.rings kr hk).2⟩, sequencer := h.sequencer, quiet := h.quiet, lend := h.lend
    contexts := h.contexts, canonical := h.canonical, busy := h.busy }

/-! ## P3 -/

/-- Rows of P0 do nothing in P3. -/
theorem p3_p0 {c : Chip} (h : c.core.phase = .p3) (f) : inP0 f c = c := by simp [inP0, isAwake, isUp, h]

/-- Rows of the running core do nothing in P3. -/
theorem p3_up {c : Chip} (h : c.core.phase = .p3) (f) : inUp f c = c := by simp [inUp, isUp, h]

/-- Rows of the links do nothing in P3. -/
theorem p3_link {c : Chip} (h : c.core.phase = .p3) (f) : onLink f c = c := by simp [onLink, isUp, inWarm, h]

/-- Rows of the host lanes do nothing in P3. -/
theorem p3_lanes {c : Chip} (h : c.core.phase = .p3) (f) : onLanes f c = c := by simp [onLanes, hpAwake, h]

/-- Rows of the host port do nothing in P3. -/
theorem p3_hport {c : Chip} (h : c.core.phase = .p3) (f) : onHport f c = c := by simp [onHport, hpAwake, isUp, inWarm, h]

/-- Register writes do nothing in P3. -/
theorem p3_reg {c : Chip} (h : c.core.phase = .p3) (p off v f) : regWrite p off v f c = c := by simp [regWrite, isUp, h]

/-- Register reads do nothing in P3. -/
theorem p3_read {c : Chip} (h : c.core.phase = .p3) (p off i) : regRead p off i c = c := by simp [regRead, isUp, h]

/-- Instructions do nothing in P3. -/
theorem p3_seq {c : Chip} (h : c.core.phase = .p3) (o f g) : seqIssue o f g c = c := by
  have : canIssue c o.ctx = false := by simp [canIssue, isAwake, isUp, h]
  simp [seqIssue, this]

/-- The wrapper does nothing in P3. -/
theorem p3_wrap {c : Chip} (h : c.core.phase = .p3) : wrapLive c = false := by simp [wrapLive, h]

/-! ## Memory -/

/-- The cells of consecutive bytes. -/
theorem mem_cellsAt {off : Nat} {bs : List Byte} {p : Nat × Byte} : p ∈ cellsAt off bs ↔ ∃ k, ∃ h : k < bs.length, p = (off + k, bs[k]) := by
  induction bs generalizing off with
  | nil => simp [cellsAt]
  | cons b bs ih =>
    simp only [cellsAt, List.mem_cons, ih]
    constructor
    · rintro (rfl | ⟨k, h, rfl⟩)
      · exact ⟨0, by simp, by simp⟩
      · exact ⟨k + 1, by simpa using h, by simp; omega⟩
    · rintro ⟨k, h, rfl⟩
      cases k with
      | zero => left; simp
      | succ k => right; exact ⟨k, by simpa using h, by simp; omega⟩


/-- An integer as bytes, their number. -/
theorem leBytes_length (n v : Nat) : (leBytes n v).length = n := by
  induction n generalizing v with
  | zero => rfl
  | succ n ih => simp [leBytes, ih]

/-- An integer as bytes, one of them. -/
theorem leBytes_get (n v k : Nat) (h : k < (leBytes n v).length) : (leBytes n v)[k] = BitVec.ofNat 8 (v / 2 ^ (8 * k)) := by
  induction n generalizing v k with
  | zero => simp [leBytes] at h
  | succ n ih =>
    cases k with
    | zero => simp [leBytes]
    | succ k =>
      simp only [leBytes, List.getElem_cons_succ]
      rw [ih]
      congr 1
      rw [Nat.div_div_eq_div_mul, show (256 : Nat) = 2 ^ 8 by rfl, ← Nat.pow_add]
      congr 2; omega

/-- A write of LMEM in which no word refuses its bytes. -/
theorem lmemWrite_mem {off : Nat} {bs : List Byte} {c : Chip} (h : partialBad [] (cellsAt off bs) c = []) :
    (lmemWrite off bs c).lmem.mem = (cellsAt off bs).foldl (fun m p => Mem.set m p.1 p.2) c.lmem.mem := by
  simp [lmemWrite, lmemWriteCells, h]


/-- Every write of LMEM keeps the canonical form. -/
theorem lmemWriteCells_wf (kept : List Nat) (cells : List (Nat × Byte)) (c : Chip) (h : Memory.wf c.lmem.mem = true) :
    Memory.wf (lmemWriteCells kept cells c).lmem.mem = true := Mem.wf_foldl _ _ h

/-- A write of consecutive bytes keeps it. -/
theorem lmemWrite_wf (off : Nat) (bs : List Byte) (c : Chip) (h : Memory.wf c.lmem.mem = true) :
    Memory.wf (lmemWrite off bs c).lmem.mem = true := lmemWriteCells_wf _ _ _ h

/-- Poisoning a word keeps the bytes of LMEM. -/
theorem poisonWord_mem (cls w : Nat) (e : WordErr) (c : Chip) : (poisonWord cls w e c).lmem.mem = c.lmem.mem := by
  unfold poisonWord; split <;> rfl

/-- A store of a context keeps the canonical form, whether or not it is refused. -/
theorem lmemStore_wf (off : Nat) (bs : List Byte) (c : Chip) (h : Memory.wf c.lmem.mem = true) :
    Memory.wf (lmemStore off bs c).2.lmem.mem = true := by
  unfold lmemStore
  simp only
  split
  · exact lmemWriteCells_wf _ _ _ h
  · have : ∀ (l : List (Nat × WordErr)) (c : Chip), (l.foldl (fun c p => poisonWord 2 p.1 p.2 c) c).lmem.mem = c.lmem.mem := by
      intro l
      induction l with
      | nil => intro c; rfl
      | cons p l ih => intro c; rw [List.foldl_cons, ih, poisonWord_mem]
    rw [this]; exact h

/-- A write of a drain or tile aperture keeps the canonical form of both. -/
theorem aperturePut_wf (c : Chip) (off : Nat) (b : Byte) (hd : Memory.wf c.drn.acc = true) (ht : Memory.wf c.vec.tiles = true) :
    Memory.wf (aperturePut c off b).drn.acc = true ∧ Memory.wf (aperturePut c off b).vec.tiles = true := by
  unfold aperturePut
  split
  · exact ⟨Mem.wf_set _ _ _ hd, ht⟩
  · exact ⟨hd, Mem.wf_set _ _ _ ht⟩
  · exact ⟨hd, ht⟩

/-- The memories of the reset state are in canonical form. -/
theorem reset_wf : Memory.wf State.reset.chip.lmem.mem = true ∧ Memory.wf State.reset.chip.drn.acc = true ∧
    Memory.wf State.reset.chip.vec.tiles = true := by decide

/-- What an insertion elsewhere keeps. -/
theorem keep_insert {α} {v : α} {m : SMap α} {n : Nat} {p : Nat × α} (h : p ∈ m) (hn : p.1 ≠ n) : p ∈ SMap.insert v m n := by
  induction m with
  | nil => cases h
  | cons q m ih =>
    obtain ⟨k, w⟩ := q
    unfold SMap.insert
    split
    · exact List.mem_cons_of_mem _ h
    · split
      · rcases List.mem_cons.1 h with rfl | h
        · simp_all
        · exact List.mem_cons_of_mem _ h
      · rcases List.mem_cons.1 h with rfl | h
        · exact List.mem_cons_self ..
        · exact List.mem_cons_of_mem _ (ih h)

/-- What cells gathered into a table list. -/
theorem mem_gather {α} (cells : List (Nat × α)) (m0 : SMap α) {p} (h : p ∈ cells.foldl (fun m p => SMap.insert p.2 m p.1) m0) : p ∈ cells ∨ p ∈ m0 := by
  induction cells generalizing m0 with
  | nil => exact .inr h
  | cons q cs ih =>
    rcases ih _ h with h | h
    · exact .inl (List.mem_cons_of_mem _ h)
    · rcases SMap.mem_insert h with rfl | h
      · exact .inl (List.mem_cons_self ..)
      · exact .inr h

/-- What cells gathered at other keys keep. -/
theorem gather_keeps {α} (cells : List (Nat × α)) (m0 : SMap α) {p} (h : p ∈ m0) (hn : ∀ q ∈ cells, q.1 ≠ p.1) :
    p ∈ cells.foldl (fun m p => SMap.insert p.2 m p.1) m0 := by
  induction cells generalizing m0 with
  | nil => exact h
  | cons q cs ih => exact ih _ (keep_insert h (Ne.symm (hn q (List.mem_cons_self ..)))) fun r hr => hn r (List.mem_cons_of_mem _ hr)

/-- Cells at keys without repeats are all gathered. -/
theorem gather_has {α} (cells : List (Nat × α)) (m0 : SMap α) {p} (h : p ∈ cells) (hn : (cells.map Prod.fst).Nodup) :
    p ∈ cells.foldl (fun m p => SMap.insert p.2 m p.1) m0 := by
  induction cells generalizing m0 with
  | nil => cases h
  | cons q cs ih =>
    simp only [List.map_cons, List.nodup_cons] at hn
    rcases List.mem_cons.1 h with rfl | h
    · refine gather_keeps cs (SMap.insert p.2 m0 p.1) (SMap.self_mem_insert ..) fun r hr e => hn.1 (e ▸ List.mem_map_of_mem hr)
    · exact ih _ h hn.2

end Sys2Proof.Machine
end

