-- ==== Sys2Proof/Laws/Words.lean ====
section
/-! SUPPORT. Lemmas of the words of the sequencer (Tables 4.6 and 4.7): the fields of a word, the bits of an assembled word, and what
each class of operations reads. -/

namespace Sys2Proof.Machine

/-- A bit of a field. -/
theorem fld_lsb (w : W64) (a n k : Nat) : (fld w a n).testBit k = (decide (k < n) && w.getLsbD (a + k)) := by
  simp only [fld, bits, Nat.testBit_mod_two_pow, Nat.testBit_shiftRight]
  rfl

/-- A word is the concatenation of its fields. -/
theorem word_fields (w : W64) (a : Bool) (n : Nat) : seqWord (fld w 60 4) (fld w 54 6)
    { ctx := n, alui := a, gp := BitVec.ofNat 3 (fld w 51 3), gn := bitAt w 50
      rd := BitVec.ofNat 5 (fld w 45 5), ra := BitVec.ofNat 5 (fld w 40 5), low := BitVec.ofNat 40 (fld w 0 40) } = w := by
  unfold seqWord
  apply BitVec.eq_of_getLsbD_eq
  intro i hi
  simp only [BitVec.getLsbD_append, BitVec.getLsbD_ofNat, fld_lsb, BitVec.getLsbD_ofBool]
  have hb : bitAt w 50 = w.getLsbD 50 := rfl
  by_cases h1 : i < 40
  · simp [h1]
  by_cases h2 : i < 45
  · have : i - 40 < 5 := by omega
    simp [h1, this, show 40 + (i - 40) = i by omega]
  by_cases h3 : i < 50
  · have e1 : ¬ i - 40 < 5 := by omega
    have e2 : i - 40 - 5 < 5 := by omega
    simp [h1, e1, e2, show 45 + (i - 40 - 5) = i by omega]
  by_cases h4 : i < 51
  · have e1 : ¬ i - 40 < 5 := by omega
    have e2 : ¬ i - 40 - 5 < 5 := by omega
    have e3 : i - 40 - 5 - 5 < 1 := by omega
    have : i = 50 := by omega
    subst this
    simp [hb]
  by_cases h5 : i < 54
  · have e1 : ¬ i - 40 < 5 := by omega
    have e2 : ¬ i - 40 - 5 < 5 := by omega
    have e3 : ¬ i - 40 - 5 - 5 < 1 := by omega
    have e4 : i - 40 - 5 - 5 - 1 < 3 := by omega
    simp [h1, e1, e2, e3, e4, show 51 + (i - 40 - 5 - 5 - 1) = i by omega]
  by_cases h6 : i < 60
  · have e1 : ¬ i - 40 < 5 := by omega
    have e2 : ¬ i - 40 - 5 < 5 := by omega
    have e3 : ¬ i - 40 - 5 - 5 < 1 := by omega
    have e4 : ¬ i - 40 - 5 - 5 - 1 < 3 := by omega
    have e5 : i - 40 - 5 - 5 - 1 - 3 < 6 := by omega
    simp [h1, e1, e2, e3, e4, e5, show 54 + (i - 40 - 5 - 5 - 1 - 3) = i by omega]
  · have e1 : ¬ i - 40 < 5 := by omega
    have e2 : ¬ i - 40 - 5 < 5 := by omega
    have e3 : ¬ i - 40 - 5 - 5 < 1 := by omega
    have e4 : ¬ i - 40 - 5 - 5 - 1 < 3 := by omega
    have e5 : ¬ i - 40 - 5 - 5 - 1 - 3 < 6 := by omega
    have e6 : i - 40 - 5 - 5 - 1 - 3 - 6 < 4 := by omega
    simp [h1, e1, e2, e3, e4, e5, e6, show 60 + (i - 40 - 5 - 5 - 1 - 3 - 6) = i by omega]

/-- Classes ALU and ALUI. -/
theorem alu_code {op : Nat} {o : SeqOp} {i : Instr} (h : aluInstr op o = some i) : (formOf i).map Prod.fst = some o ∧ seqCode i = some (b2n o.alui, op) := by
  unfold aluInstr at h
  split at h <;> first | (cases h; exact ⟨rfl, rfl⟩) | cases h

/-- Class LS. -/
theorem ls_code {op : Nat} {o : SeqOp} {i : Instr} (h : lsInstr op o = some i) : (formOf i).map Prod.fst = some o ∧ seqCode i = some (2, op) := by
  unfold lsInstr at h
  split at h <;> first | (cases h; exact ⟨rfl, rfl⟩) | cases h

/-- Class BR. -/
theorem br_code {op : Nat} {o : SeqOp} {i : Instr} (h : brInstr op o = some i) : (formOf i).map Prod.fst = some o ∧ seqCode i = some (3, op) := by
  unfold brInstr at h
  split at h <;> first | (cases h; exact ⟨rfl, rfl⟩) | cases h

/-- Class RING. -/
theorem ring_code {op : Nat} {o : SeqOp} {i : Instr} (h : ringInstr op o = some i) : (formOf i).map Prod.fst = some o ∧ seqCode i = some (4, op) := by
  unfold ringInstr at h
  split at h <;> first | (cases h; exact ⟨rfl, rfl⟩) | cases h

/-- Class SYNC. -/
theorem sync_code {op : Nat} {o : SeqOp} {i : Instr} (h : syncInstr op o = some i) : (formOf i).map Prod.fst = some o ∧ seqCode i = some (5, op) := by
  unfold syncInstr at h
  split at h
  case h_6 => split at h <;> first | (cases h; exact ⟨rfl, rfl⟩) | cases h
  all_goals first | (cases h; exact ⟨rfl, rfl⟩) | cases h

/-- Class SUM. -/
theorem sum_code {op : Nat} {o : SeqOp} {i : Instr} (h : sumInstr op o = some i) : (formOf i).map Prod.fst = some o ∧ seqCode i = some (6, op) := by
  unfold sumInstr at h
  split at h <;> first | (cases h; exact ⟨rfl, rfl⟩) | cases h

/-- Class SYS. -/
theorem sys_code {op : Nat} {o : SeqOp} {i : Instr} (h : sysInstr op o = some i) : (formOf i).map Prod.fst = some o ∧ seqCode i = some (7, op) := by
  unfold sysInstr at h
  split at h <;> first | (cases h; exact ⟨rfl, rfl⟩) | cases h

/-- The word of an instruction, from its class and operation. -/
theorem enc_of {i : Instr} {o : SeqOp} {cls op : Nat} (h : (formOf i).map Prod.fst = some o ∧ seqCode i = some (cls, op)) :
    seqEncode i = some (seqWord cls op o) := by
  obtain ⟨h1, h2⟩ := h
  obtain ⟨⟨o', f⟩, hf, rfl⟩ := Option.map_eq_some_iff.1 h1
  simp only [seqEncode, hf, h2]

/-- A bit of an assembled word. -/
theorem word_bit (cls op : Nat) (o : SeqOp) (i : Nat) : (seqWord cls op o).getLsbD i =
    if i < 40 then o.low.getLsbD i else if i < 45 then o.ra.getLsbD (i - 40) else if i < 50 then o.rd.getLsbD (i - 45)
    else if i < 51 then o.gn else if i < 54 then o.gp.getLsbD (i - 51) else if i < 60 then op.testBit (i - 54) else
    (decide (i < 64) && cls.testBit (i - 60)) := by
  unfold seqWord
  simp only [BitVec.getLsbD_append, BitVec.getLsbD_ofNat, BitVec.getLsbD_ofBool]
  by_cases h1 : i < 40
  · simp [h1]
  by_cases h2 : i < 45
  · simp [h1, h2, show i - 40 < 5 by omega]
  by_cases h3 : i < 50
  · simp [h1, h2, h3, show ¬ i - 40 < 5 by omega, show i - 45 < 5 by omega, show i - 40 - 5 = i - 45 by omega]
  by_cases h4 : i < 51
  · have : i = 50 := by omega
    subst this; simp
  by_cases h5 : i < 54
  · simp [h1, h2, h3, h4, h5, show ¬ i - 40 < 5 by omega, show ¬ i - 40 - 5 < 5 by omega, show ¬ i - 40 - 5 - 5 < 1 by omega,
      show i - 51 < 3 by omega, show i - 40 - 5 - 5 - 1 = i - 51 by omega]
  by_cases h6 : i < 60
  · simp [h1, h2, h3, h4, h5, h6, show ¬ i - 40 < 5 by omega, show ¬ i - 40 - 5 < 5 by omega, show ¬ i - 40 - 5 - 5 < 1 by omega,
      show ¬ i - 40 - 5 - 5 - 1 < 3 by omega, show i - 54 < 6 by omega, show i - 40 - 5 - 5 - 1 - 3 = i - 54 by omega]
  · simp [h1, h2, h3, h4, h5, h6, show ¬ i - 40 < 5 by omega, show ¬ i - 40 - 5 < 5 by omega, show ¬ i - 40 - 5 - 5 < 1 by omega,
      show ¬ i - 40 - 5 - 5 - 1 < 3 by omega, show ¬ i - 40 - 5 - 5 - 1 - 3 < 6 by omega, show i - 40 - 5 - 5 - 1 - 3 - 6 = i - 60 by omega]
    congr 1; simp; omega

/-- A high bit of a small number. -/
theorem small_bit {n k j : Nat} (h : n < 2 ^ k) (hj : k ≤ j) : n.testBit j = false :=
  Nat.testBit_lt_two_pow (Nat.lt_of_lt_of_le h (Nat.pow_le_pow_right (by decide) hj))

/-- The fields of an assembled word. -/
theorem fld_word (cls op : Nat) (o : SeqOp) (hc : cls < 16) (ho : op < 64) :
    fld (seqWord cls op o) 60 4 = cls ∧ fld (seqWord cls op o) 54 6 = op ∧ BitVec.ofNat 3 (fld (seqWord cls op o) 51 3) = o.gp ∧
    bitAt (seqWord cls op o) 50 = o.gn ∧ BitVec.ofNat 5 (fld (seqWord cls op o) 45 5) = o.rd ∧
    BitVec.ofNat 5 (fld (seqWord cls op o) 40 5) = o.ra ∧ BitVec.ofNat 40 (fld (seqWord cls op o) 0 40) = o.low := by
  refine ⟨Nat.eq_of_testBit_eq fun k => ?_, Nat.eq_of_testBit_eq fun k => ?_, BitVec.eq_of_getLsbD_eq fun k hk => ?_, ?_,
    BitVec.eq_of_getLsbD_eq fun k hk => ?_, BitVec.eq_of_getLsbD_eq fun k hk => ?_, BitVec.eq_of_getLsbD_eq fun k hk => ?_⟩
  · rw [fld_lsb, word_bit]
    by_cases hk : k < 4
    · simp [hk, show ¬ 60 + k < 40 by omega, show ¬ 60 + k < 45 by omega, show ¬ 60 + k < 50 by omega, show ¬ 60 + k < 51 by omega,
        show ¬ 60 + k < 54 by omega, show 60 + k < 64 by omega]
    · have := small_bit (n := cls) (k := 4) (j := k) hc (by omega); simp [hk, this]
  · rw [fld_lsb, word_bit]
    by_cases hk : k < 6
    · simp [hk, show ¬ 54 + k < 40 by omega, show ¬ 54 + k < 45 by omega, show ¬ 54 + k < 50 by omega, show ¬ 54 + k < 51 by omega,
        show 54 + k < 60 by omega]
    · have := small_bit (n := op) (k := 6) (j := k) ho (by omega); simp [hk, this]
  · rw [BitVec.getLsbD_ofNat, fld_lsb, word_bit]
    simp [hk, show ¬ 51 + k < 40 by omega, show ¬ 51 + k < 45 by omega, show ¬ 51 + k < 50 by omega, show 51 + k < 54 by omega]
  · show (seqWord cls op o).getLsbD 50 = _
    rw [word_bit]; simp
  · rw [BitVec.getLsbD_ofNat, fld_lsb, word_bit]
    simp [hk, show ¬ 45 + k < 40 by omega, show 45 + k < 50 by omega]
  · rw [BitVec.getLsbD_ofNat, fld_lsb, word_bit]
    simp [hk, show 40 + k < 45 by omega]
  · rw [BitVec.getLsbD_ofNat, fld_lsb, word_bit]
    simp [hk]

/-- The instruction of a class and an operation. -/
def famInstr (cls op : Nat) (o : SeqOp) : Option Instr := match cls with
      | 0 => aluInstr op o
      | 1 => aluInstr op o
      | 2 => lsInstr op o
      | 3 => brInstr op o
      | 4 => ringInstr op o
      | 5 => syncInstr op o
      | 6 => sumInstr op o
      | 7 => sysInstr op o
      | _ => none

/-- An assembled word is read as the instruction of its class and operation. -/
theorem decode_word (cls op : Nat) (o : SeqOp) (hc : cls < 16) (ho : op < 64) (ha : o.alui = (cls == 1)) :
    seqDecode o.ctx (seqWord cls op o) = famInstr cls op o := by
  obtain ⟨h1, h2, h3, h4, h5, h6, h7⟩ := fld_word cls op o hc ho
  unfold seqDecode
  simp only [h1, h2, h3, h4, h5, h6, h7, ← ha]
  rfl

/-- Outside class ALUI. -/
theorem alui_false {o : SeqOp} (h : o.wf false = true) : o.alui = false := by
  unfold SeqOp.wf at h
  simp at h
  exact h.2

end Sys2Proof.Machine
end

