-- ==== Sys2Proof/Tests/Slice0.lean ====
section
/-! SUPPORT. Tests: the well-formedness checks refuse ill-formed commands, words of the sequencer written out from Tables 4.6 and 4.7,
single steps with results taken from the spec, and for every statement states that meet its hypotheses. -/

namespace Sys2Proof.Tests

set_option Elab.async false

open Sys2Proof Sys2Proof.Machine

/-! ## States -/

/-- A running core in P0 with every context FREE. -/
def up : Chip := { Chip.reset with core.phase := .running, seq.ctxs := [] }

/-- A running core in which a context is as given. -/
def ctx (n : Nat) (x : Ctx) : Chip := setCtx n x up

/-- A READY context. -/
def ready : Ctx := { Ctx.idle with st := .ready }

/-- A running core with context 0 READY at PC 0. -/
def c0 : Chip := ctx 0 ready

/-- Operands that are all zero, of class ALUI or not. -/
def z (alui : Bool) : SeqOp := ⟨0, alui, 0#3, false, 0#5, 0#5, 0#40⟩

/-- A descriptor with a phase. -/
def desc (p : Phase) (ws : List W64) : Desc := { Desc.fetched 0 1 ws with phase := p, atStep2 := true }

/-- A core whose ring 0 is bound to a class and holds one descriptor. -/
def on (cls : Nat) (d : Desc) (c : Chip := up) : Chip :=
  updRing 0 (fun r => { r with en := true, cls := cls, tail := 1, base := 0xFFFFF00000000000, descs := [d] }) c

/-- The descriptor of ring 0. -/
def q : DescRef := ⟨0, 0⟩

/-- A started descriptor with an opcode and no other field, on ring 0 of a class. -/
def busy (cls opc : Nat) : Chip := on cls (desc .running [BitVec.ofNat 64 opc])

/-- The descriptor at the front of ring 0 that has started runs. -/
theorem running_on (cls opc : Nat) (d : Desc) (hi : d.idx = 0) (ho : d.opc = opc) (hp : d.phase = .running) :
    Running (on cls d) q cls opc d :=
  ⟨by rfl, by
    have : (d.idx == 0) = true := by simp [hi]
    show (match (d.idx == 0) with
      | true => some d
      | false => List.find? (fun d => d.idx == 0) []) = some d
    rw [this], by rfl, ho, hp⟩

/-- The opcode of a descriptor whose first word holds nothing else. -/
theorem opc_desc (opc : Nat) (h : opc < 256) : (desc .running [BitVec.ofNat 64 opc]).opc = opc := by
  simp only [Desc.opc, desc, Desc.word, Desc.fetched, nth, fld_eq, BitVec.toNat_ofNat, Nat.pow_zero, Nat.div_one]
  omega

/-- It runs. -/
theorem running_busy (cls opc : Nat) (h : opc < 256) : Running (busy cls opc) q cls opc (desc .running [BitVec.ofNat 64 opc]) :=
  running_on _ _ _ rfl (opc_desc opc h) rfl

/-- A started descriptor whose start's reads have been made. -/
def taken (ws : List W64) : Desc := { desc .running ws with samp := [(0, 1)] }

/-- It runs. -/
theorem running_taken (cls opc : Nat) (h : opc < 256) : Running (on cls (taken [BitVec.ofNat 64 opc])) q cls opc (taken [BitVec.ofNat 64 opc]) :=
  running_on _ _ _ rfl (opc_desc opc h) rfl

/-- The core in a phase. -/
def inPhase (p : StartPhase) : Chip := { up with core.phase := p }

/-- Sequencer instructions, part 1. -/
def seq1 : List (SeqOp → Instr) :=
  [.add, .sub, .mul, .mulhu, .mulhs, .divu, .divs, .remu, .rems, .and, .or, .xor, .andn, .shl, .shr, .sar, .rol, .min,
   .max, .minu, .maxu, .clz, .ctz, .popc, .sel, .madd]

/-- Sequencer instructions, part 2. -/
def seq2 : List (SeqOp → Instr) :=
  [.bfx, .bfi, .cmpeq, .cmpne, .cmplt, .cmple, .cmpltu, .cmpleu, .pand, .por, .pxor, .pandn, .movp, .movtp, .fadd,
   .fsub, .fmul, .fdiv, .fsqrt, .fma, .fmin, .fmax, .fcmplt, .fcmple, .fcmpeq, .fcvti]

/-- Sequencer instructions, part 3. -/
def seq3 : List (SeqOp → Instr) :=
  [.icvtf, .fisfin, .movi, .orhi, .ld, .st, .amoadd, .amoswap, .amocas, .amomaxu, .b, .bl, .jr, .jlr, .dbnz, .bz, .bnz,
   .ringPut, .ringPut2, .ringGetw, .ringClr, .ringPush, .ringPushr, .ringTail, .ringHead, .wait]

/-- Sequencer instructions, part 4. -/
def seq4 : List (SeqOp → Instr) :=
  [.test, .signal, .signalr, .ctrrd, .fenceLd, .fenceSt, .fenceAll, .bararr, .barwait, .sumPop, .sumTry, .sumPeek,
   .sumCount, .sumDrop, .sysNop, .yield, .exit, .spawn, .cid, .timerd, .sleept, .pgrd, .pgwr, .notify, .swfault, .iflush]

/-- Every sequencer instruction, by its constructor. -/
def allSeq : List (SeqOp → Instr) := seq1 ++ seq2 ++ seq3 ++ seq4

/-- Operands with which an instruction of `allSeq` is legal: zero, in class ALUI for MOVI and ORHI. -/
def legalOp (i : SeqOp → Instr) : SeqOp := z (decide (i (z true) = .movi (z true) ∨ i (z true) = .orhi (z true)))

/-! ## Well-formedness: a command past each bound is refused -/

theorem test_wf_context : Instr.wf (.add ⟨1023, true, 7#3, true, 31#5, 31#5, 0#40⟩) = true ∧
    Instr.wf (.add ⟨1024, false, 0#3, false, 0#5, 0#5, 0#40⟩) = false ∧ Instr.wf (.ld (z true)) = false := by decide +kernel
theorem test_wf_fence_kind : Instr.wf (.fenceSt ⟨0, false, 0#3, false, 0#5, 0#5, 0x2000#40⟩) = true ∧
    Instr.wf (.fenceSt (z false)) = false ∧ Instr.wf (.fenceLd ⟨0, false, 0#3, false, 0#5, 0#5, 0x2000#40⟩) = false ∧
    Instr.wf (.fenceAll (z false)) = false := by decide +kernel
theorem test_wf_context_numbers : Instr.wf (.loadReturn 1024 0) = false ∧ Instr.wf (.fetchFill 1024) = false ∧
    Instr.wf (.vmapInvEntry 0 65536) = false := by decide +kernel
theorem test_wf_descriptor : Instr.wf (.copyb ⟨32767, 4294967295⟩) = true ∧ Instr.wf (.copyb ⟨32768, 0⟩) = false ∧
    Instr.wf (.copyb ⟨0, 4294967296⟩) = false ∧ Instr.wf (.lmemEccError 0 6 ⟨0, 0⟩) = false := by decide +kernel
theorem test_wf_rings_and_counters : Instr.wf (.descriptorFetch 32768) = false ∧ Instr.wf (.setidx 0 4294967296) = false ∧
    Instr.wf (.counterEcc 65536) = false ∧ Instr.wf (.watchWrite 8 0) = false ∧ Instr.wf (.barInRise 8) = false := by decide +kernel
theorem test_wf_pages : Instr.wf (.registerWrite 19 0xFFF8 0) = true ∧ Instr.wf (.registerWrite 20 0 0) = false ∧
    Instr.wf (.registerWrite 0 4 0) = false ∧ Instr.wf (.registerWrite 0 0x10000 0) = false ∧ Instr.wf (.rbDataRead 20) = false ∧
    Instr.wf (.regRd 0x100000000000) = false ∧ Instr.wf (.snapStreamWrite 0x131 0) = false := by decide +kernel
theorem test_wf_units : Instr.wf (.scrubRead 256) = false ∧ Instr.wf (.arrayFlip 4) = false ∧ Instr.wf (.fwdRow 4) = false ∧
    Instr.wf (.blockGate 0) = false ∧ Instr.wf (.blockGate 13) = false ∧ Instr.wf (.regulatorTimeout 3) = false ∧
    Instr.wf (.eccWriteback 33554432) = false ∧ Instr.wf (.timeMark 0 65536) = false ∧ Instr.wf (.imgread 65536) = false ∧
    Instr.wf (.trickleRegionDone 2048) = false := by decide +kernel
theorem test_wf_link : Instr.wf (.trainingWord 4 0 0 0 0) = false ∧ Instr.wf (.laneLockLoss 0 8) = false ∧
    Instr.wf (.flitIdle 0 ⟨[]⟩) = false ∧ Instr.wf (.swap 4294967296) = false ∧ Instr.wf (.respTimeout 65536) = false ∧
    Instr.wf (.hello 4294967296) = false := by decide +kernel
theorem test_wf_host : Instr.wf (.hppRd 16 ⟨0, 0, 0, 0⟩) = false ∧ Instr.wf (.hppRd 0 ⟨1024, 0, 0, 0⟩) = false ∧
    Instr.wf (.hppWr 0 ⟨0, 1, 0, 0⟩ []) = false ∧ Instr.wf (.hppResponse 0 0 65536 []) = false ∧
    Instr.wf (.hportTimeout 0 1024) = false := by decide +kernel

/-- A packet to this core. -/
def pkt (ty vc : Nat) : Packet := ⟨ty, vc, 8, 0xFFFFF, 1, 0, 0, 0, 0, 0, 0, [], false, false, false⟩

theorem test_wf_packet : Instr.wf (.wr 0 (pkt 1 0)) = true ∧ Instr.wf (.wr 4 (pkt 1 0)) = false ∧ Instr.wf (.wr 0 (pkt 1 4)) = false ∧
    Instr.wf (.wr 0 { pkt 1 0 with len := 8 }) = false := by decide +kernel

/-! ## Words of the sequencer (Tables 4.6, 4.7 and 4.25) -/

theorem test_word_movi : seqDecode 0 0x1F80A0000000000C#64 = some (.movi ⟨0, true, 0#3, false, 5#5, 0#5, 12#40⟩) := by decide +kernel
theorem test_word_pop : seqDecode 0 0x6001205200000000#64 = some (.sumPop ⟨0, false, 0#3, false, 9#5, 0#5, 0x5200000000#40⟩) := by decide +kernel
theorem test_word_guarded_branch : seqDecode 0 0x3014000000000006#64 = some (.b ⟨0, false, 2#3, true, 0#5, 0#5, 6#40⟩) := by decide +kernel
theorem test_word_andi : seqDecode 0 0x12416A000000FFFF#64 = some (.and ⟨0, true, 0#3, false, 11#5, 10#5, 0xFFFF#40⟩) := by decide +kernel
theorem test_word_store : seqDecode 0 0x2041355B40000000#64 = some (.st ⟨0, false, 0#3, false, 9#5, 21#5, 0x5B40000000#40⟩) := by decide +kernel
theorem test_word_dbnz : seqDecode 0 0x3100A500FFFFFFFC#64 = some (.dbnz ⟨0, false, 0#3, false, 5#5, 5#5, 0xFFFFFFFC#40⟩) := by decide +kernel
theorem test_word_put : seqDecode 0 (0b0100#4 ++ 0b000000#6 ++ 0#3 ++ 0#1 ++ 0#5 ++ 7#5 ++ 0b00011#5 ++ 0#35) =
    some (.ringPut ⟨0, false, 0#3, false, 0#5, 7#5, 0x1800000000#40⟩) := by decide +kernel
theorem test_word_wait : seqDecode 0 (0b0101#4 ++ 0b000000#6 ++ 0#3 ++ 0#1 ++ 0#5 ++ 9#5 ++ 0#40) =
    some (.wait ⟨0, false, 0#3, false, 0#5, 9#5, 0#40⟩) := by decide +kernel
theorem test_word_iflush : seqDecode 3 (0b0111#4 ++ 0b001011#6 ++ 0#54) = some (.iflush ⟨3, false, 0#3, false, 0#5, 0#5, 0#40⟩) := by decide +kernel
theorem test_word_reserved : seqDecode 0 0x8000000000000000#64 = none ∧ seqDecode 0 0xF000000000000000#64 = none ∧
    seqDecode 0 (0b0000#4 ++ 0x1C#6 ++ 0#54) = none ∧ seqDecode 0 (0b0010#4 ++ 0x06#6 ++ 0#54) = none ∧
    seqDecode 0 (0b0111#4 ++ 0x0C#6 ++ 0#54) = none := by decide +kernel
theorem test_no_word_spells_a_command : decodeTableWord 32 0xFFFFFFFF = none ∧ decodeTableWord 0 0 = none := by decide +kernel

/-! ## Single steps -/

/-- Field of a next state. -/
def after (i : Instr) (c : Chip) : Option Chip :=
  match exec i ⟨c, []⟩ with
  | .next t => some t.chip
  | _ => none

/-- Context 0 with values in s3 and s4, and an instruction s2 ← s3 op s4. -/
def pair (a b : W64) : Chip := ctx 0 { ready with regs := [(3, a), (4, b)] }

/-- s2 ← s3 op s4. -/
def op3 : SeqOp := ⟨0, false, 0#3, false, 2#5, 3#5, 0x2000000000#40⟩

/-- rd after an instruction. -/
def rd (i : Instr) (a b : W64) : Option W64 := (after i (pair a b)).map fun c => (ctxOf c 0).reg 2

theorem test_add_wraps : rd (.add op3) 0xFFFFFFFFFFFFFFFF 2 = some 1 := by decide +kernel
theorem test_sub_order : rd (.sub op3) 5 7 = some 0xFFFFFFFFFFFFFFFE := by decide +kernel
theorem test_mulhu_high : rd (.mulhu op3) 0x8000000000000000 4 = some 2 := by decide +kernel
theorem test_mulhs_sign : rd (.mulhs op3) 0xFFFFFFFFFFFFFFFF 2 = some 0xFFFFFFFFFFFFFFFF := by decide +kernel
theorem test_divu_zero : rd (.divu op3) 7 0 = some 0xFFFFFFFFFFFFFFFF := by decide +kernel
theorem test_divs_truncates : rd (.divs op3) 0xFFFFFFFFFFFFFFF9 2 = some 0xFFFFFFFFFFFFFFFD := by decide +kernel
theorem test_rems_sign : rd (.rems op3) 0xFFFFFFFFFFFFFFF9 2 = some 0xFFFFFFFFFFFFFFFF := by decide +kernel
theorem test_sar_sign : rd (.sar op3) 0x8000000000000000 63 = some 0xFFFFFFFFFFFFFFFF := by decide +kernel
theorem test_shift_mod_64 : rd (.shl op3) 1 65 = some 2 := by decide +kernel
theorem test_clz_zero : rd (.clz ⟨0, false, 0#3, false, 2#5, 3#5, 0#40⟩) 0 0 = some 64 := by decide +kernel
theorem test_min_signed : rd (.min op3) 0xFFFFFFFFFFFFFFFF 1 = some 0xFFFFFFFFFFFFFFFF ∧
    rd (.minu op3) 0xFFFFFFFFFFFFFFFF 1 = some 1 := by decide +kernel
theorem test_write_s0 : (after (.add ⟨0, false, 0#3, false, 0#5, 3#5, 0x2000000000#40⟩) (pair 1 2)).map (fun c => (ctxOf c 0).reg 0) =
    some 0 := by decide +kernel
theorem test_counter_saturates : (ctrOf (addCounter 5 1 (setCtr 5 ⟨0xFFFFFFFFFFFF, false⟩ up)) 5).value = 0xFFFFFFFFFFFF ∧
    (ctrOf (addCounter 5 1 (setCtr 5 ⟨0xFFFFFFFFFFFE, false⟩ up)) 5).value = 0xFFFFFFFFFFFF := by decide +kernel
theorem test_bound_arb : arbOk 0x2C688242124#64 = true ∧ arbOk 0x2C68824212F#64 = false := by decide +kernel
theorem test_crc32c : crc32c [0x31#8, 0x32#8, 0x33#8, 0x34#8, 0x35#8, 0x36#8, 0x37#8, 0x38#8, 0x39#8] = 0xE3069283 := by decide +kernel

/-! ## Witnesses: for each statement, states and operands that meet its hypotheses -/

/-- Calm states exist. -/
theorem calm_c0 : Calm c0 :=
  { running := by rfl, p0 := by rfl, outbox := by rfl, waiting := by rfl, held := by rfl, signals := by rfl, proxies := by rfl
    events := by rfl, firsts := by rfl, records := by rfl, acks := (fun _ h => nomatch h), credits := by rfl, responses := by rfl
    warm := by rfl, detach := by rfl, journals := by rfl, sequencer := by rfl, quiet := by rfl
    gates := fun u => by unfold unitKept; split <;> rfl
    moves := (fun _ h => nomatch h), latch := (fun h => nomatch h)
    rings := fun _ h => nomatch h
    contexts := by decide +kernel
    canonical := by decide +kernel
    busy := ⟨(0, ready), by decide +kernel, by rfl⟩
    lend := by decide +kernel }

theorem test_witness_EmptyQueueTicks : isAwake (inPhase (.warm 2)) = false ∧ isUp (inPhase (.warm 2)) = false ∧ ticks (inPhase (.warm 2)) = true ∧
    isUp (inPhase .p3) = false ∧ ticks (inPhase .p3) = false := by decide +kernel
theorem test_witness_UndefinedUntilPorst : (up.core.phase ≠ .p3 ∧ up.core.phase ≠ .unpowered ∧ up.core.phase ≠ .undefined) ∧
    (inPhase .undefined).core.phase = .undefined ∧ Instr.wakeN ≠ .porstAssert ∧ Instr.wakeN ≠ .porstRelease ∧ Instr.wakeN ≠ .powerLoss := by
  decide +kernel
theorem test_witness_EveryCommandAnswers : up.core.phase ≠ .undefined ∧ State.reset.chip.core.phase ≠ .undefined := by decide +kernel
theorem test_witness_ResetValues : (1 : Nat) ≠ 0 := by decide

/-- An instruction whose fields are legal, in a context that can issue it, with its guard as given and without a hazard. -/
def canFire (i : SeqOp → Instr) (o : SeqOp) (guard : Bool) (c : Chip) : Bool :=
  match formOf (i o) with
  | some (p, f) => decide (p = o) && f.legal && canIssue c o.ctx && (pcFault (ctxOf c o.ctx).pc).isNone
      && guardOn o (ctxOf c o.ctx) == guard && (hazard (ctxOf c o.ctx) f).isNone
  | none => false

theorem test_witness_FalseGuardOnlyAdvances : (allSeq.all fun i => canFire i { legalOp i with gn := true } false c0) = true ∧
    guardOn { z false with gp := 7#3, gn := true } ready = true := by decide +kernel

/-- A context with a load to s5 outstanding. -/
def loading : Ctx := { ready with accs := [{ newAcc .load 5 3 false 0 with tag := 1, res := .done 7 }] }

/-- A context with a store outstanding. -/
def storing : Ctx := { ready with accs := [{ newAcc .store 0 3 false 0 with tag := 2, res := .done 0 }] }

theorem test_witness_FaultsAndHazardsAtIssue :
    (canIssue c0 0 = true ∧ pcFault (ctxOf c0 0).pc = none ∧ (formOf (.clz { z false with low := 1#40 })).map (fun p => p.2.legal) = some false) ∧
    (canIssue (ctx 0 loading) 0 = true ∧ ((formOf (.clz { z false with ra := 5#5 })).map fun p =>
      (p.2.legal, guardOn p.1 loading, (hazard loading p.2).isSome)) = some (true, true, true)) := by decide +kernel
theorem test_witness_ScalarRegisters : (31 : Nat) ≠ 0 ∧ (7 : Nat) ≠ 0 ∧ 7 < 8 ∧ (8 : Nat) ≠ 7 := by decide

/-- Every sequencer instruction issues somewhere: the statements of the arithmetic, memory, branch, ring, sync, summary, system and
page instructions. -/
theorem test_witness_every_instruction_issues : (allSeq.all fun i => canFire i (legalOp i) true c0) = true := by decide +kernel

theorem issues_of_canFire {i : SeqOp → Instr} {o : SeqOp} {c : Chip} (h : canFire i o true c = true) :
    ∃ f, formOf (i o) = some (o, f) ∧ Issues o f c := by
  unfold canFire at h
  split at h
  · rename_i p f hf
    simp only [Bool.and_eq_true, decide_eq_true_eq, beq_iff_eq, Option.isNone_iff_eq_none] at h
    obtain ⟨⟨⟨⟨⟨rfl, h1⟩, h2⟩, h3⟩, h4⟩, h5⟩ := h
    exact ⟨f, hf, ⟨h2, h3, h1, h4, h5⟩⟩
  · cases h

/-- A global address of this core. -/
def self (off : Nat) : Nat := 0xFFFFF00000000000 + off

theorem test_witness_MemoryInstructions : self 1 % 2 ^ 3 ≠ 0 ∧
    (self 0xBFFFFF8 % 2 ^ 3 = 0 ∧ isSelf c0 (self 0xBFFFFF8) = true ∧ regionOf (offOf (self 0xBFFFFF8)) (2 ^ 3) = some .lmem ∧
      mappedRange c0 false (offOf (self 0xBFFFFF8)) (2 ^ 3) = true ∧ errWords c0 (rangeFrom (offOf (self 0xBFFFFF8)) (2 ^ 3)) = []) ∧
    opSize (z false) < 2 ∧ regionOf (offOf (self 0xC000000)) (2 ^ 3) ≠ some .lmem := by decide +kernel
theorem test_witness_Branches : (0xFFFFF00000000004#64).toNat % 8 ≠ 0 ∧ (0xFFFFF00000000008#64).toNat % 8 = 0 := by decide +kernel
theorem test_witness_RingInstructions : (ringOf up 0).en = false ∧ (ringOf (on 15 (desc .waiting [])) 0).en = true ∧
    (ctxOf (ctx 0 storing) 0).accs.any Acc.storing = true ∧ 3 ≤ (ringOf (on 15 (desc .waiting [])) 0).freeSlots := by decide +kernel
theorem test_witness_Summaries : (formOf (.sumPop (z false))).map (fun p => p.2.legal) = some true ∧
    ({ ready with sums := [⟨1, 0x100000⟩] } : Ctx).sums ≠ [] := by decide +kernel

/-- A table that lists a value under every number of a range. -/
def rows {α : Type} (v : α) (lo : Nat) : Nat → SMap α
  | 0 => []
  | n + 1 => (lo, v) :: rows v (lo + 1) n

theorem rows_get {α : Type} (d v : α) (n lo k : Nat) (h1 : lo ≤ k) (h2 : k < lo + n) : SMap.get d (rows v lo n) k = v := by
  induction n generalizing lo with
  | zero => omega
  | succ n ih =>
    unfold rows SMap.get
    by_cases h : k = lo
    · subst h; simp
    · have : ¬ k < lo := by omega
      rw [if_neg (by omega)]; exact ih (lo + 1) (by omega) (by omega)

theorem test_witness_Spawning : pcFault 4#64 ≠ none ∧ (1023 < 1024 ∧ (ctxOf c0 1023).st = .free ∧ pcFault 0#64 = none) ∧ (ctxOf c0 0).st ≠ .free ∧ pcFault 1#64 ≠ none ∧
    (∀ n < 1024, (ctxOf { up with seq.ctxs := rows ready 0 1024 } n).st ≠ .free) ∧
    ((ctxOf c0 1).st = .free ∧ ∀ k < 1, (ctxOf c0 k).st ≠ .free) ∧ (5 : Nat) ≠ 1 ∧ (1 : Nat) ≠ 0 := by
  refine ⟨by decide +kernel, by decide +kernel, by decide +kernel, by decide +kernel, fun n hn => ?_, by decide +kernel, by decide, by decide⟩
  have : ctxOf { up with seq.ctxs := rows ready 0 1024 } n = ready := rows_get _ _ 1024 0 n (Nat.zero_le _) (by omega)
  rw [this]; decide

theorem test_witness_PageInstructions : (opPage { z false with low := 0x26000000#40 } = 19 ∧ opPage { z false with low := 0x28000000#40 } = 20) ∧
    (0xFFF8 % 8 = 0 ∧ 0xFFF8 < 0x10000) ∧ ¬ 0x10000 < 0x10000 := by decide +kernel

/-- A context that waits for the line of its PC. -/
def fetching : Ctx := { ready with pc := 0xFFFFF00000000000#64, st := .waiting, wait := .fetch (0xFFFFF00000000000 / 64) }

theorem test_witness_WaitsEnd :
    (isUp (ctx 0 loading) = true ∧ (ctxOf (ctx 0 loading) 0).ending = false ∧
      ((ctxOf (ctx 0 loading) 0).accs.find? fun b => b.tag == 1 && b.loading).isSome = true ∧ (ctxOf (ctx 0 loading) 0).faultable = true) ∧
    ((ctxOf (ctx 0 storing) 0).accs.find? fun b => b.tag == 2 && b.storing).isSome = true ∧
    (isAwake (ctx 0 fetching) = true ∧ (ctxOf (ctx 0 fetching) 0).st = .waiting ∧
      lineLocal (ctx 0 fetching) (0xFFFFF00000000000 / 64) = some 0) ∧
    (waitsNow { ready with st := .waiting, wait := .flush } = true ∧ waitsNow { ready with st := .waiting, wait := .time 0 } = true ∧
      up.pwr.waking = none) ∧
    (let c (x : Ctx) : Chip := { ctx 0 x with time.count := 10000001000 }
     let x : Ctx := { ready with st := .waiting, wait := .summary }
     let y : Ctx := { x with sums := [⟨1, 0⟩] }
     (waitExpired (c x) 0 = true ∧ (ctxOf (c x) 0).due (c x) = false) ∧ (waitExpired (c y) 0 = true ∧ (ctxOf (c y) 0).due (c y) = true)) ∧
    waitExpired c0 0 = false := by decide +kernel

/-- The core with a context selected by SEQ_CTX_SEL. -/
def sel (x : Ctx) : Chip := { ctx 1023 x with seq.ctxSel := 1023 }

theorem test_witness_ContextControl : (isAwake (sel Ctx.idle) = true ∧ (sel Ctx.idle).seq.ctxSel < 1024 ∧ (ctxOf (sel Ctx.idle) 1023).st = .free ∧
      pcFault (ctxOf (sel Ctx.idle) 1023).pc = none) ∧
    ((ctxOf (sel ready) 1023).st = .ready ∧ (ctxOf (sel ready) 1023).ending = false ∧ (ctxOf (sel ready) 1023).accs.any Acc.loading = false ∧
      (ctxOf (sel ready) 1023).accs = []) ∧
    ((ctxOf (sel loading) 1023).accs.any Acc.loading = true ∧ (ctxOf (sel loading) 1023).accs ≠ []) ∧
    (ctxOf (sel { ready with st := .stopped }) 1023).st = .stopped ∧
    ({ sel { ready with st := .stopped } with seq.regIdx := 31 } : Chip).seq.regIdx < 32 ∧
    ({ sel { ready with st := .stopped } with seq.regIdx := 32 } : Chip).seq.regIdx = 32 := by decide +kernel
theorem test_witness_ReleasedContexts : isUp (startGoes (inPhase (.cold 5))) = true ∧ isUp (startGoes (inPhase (.warm 4))) = true ∧
    (31 : Nat) ≠ 0 := by decide +kernel

/-- A core with an unissued descriptor of SEQ that can issue. -/
def issuable : Chip := on 15 { desc .waiting [0#64] with tReady := some 0 }

/-- A core whose rings 0 and 1 of a class each hold a checked descriptor that waits for its start. -/
def two (cls : Nat) : Chip :=
  updRing 1 (fun r => { r with en := true, cls := cls, tail := 1, base := 0xFFFFF00000000000, descs := [desc .checked [0#64]] })
    (on cls (desc .checked [0#64]))

theorem test_witness_DescriptorSteps :
    ((0 < 32768 ∧ (ringOf issuable 0).en = true ∧ (ringOf issuable 0).halted = false ∧ (pageOf issuable pRING).qreq = false ∧
      (ringOf issuable 0).descs.find? (fun d => decide (d.phase = .refetch)) = none)) ∧
    ((ringOf issuable 0).descs.find? (fun d => decide (d.phase = .checked)) = none ∧ (readyToIssue issuable 0).isSome = true ∧
      ringTaken issuable 15 = some 0 ∧ pageStopped issuable (classPage 15) = false) ∧
    (((ringOf (two 15) 0).descs.find? (fun d => decide (d.phase = .checked))).isSome = true ∧ inTurn (two 15) 15 0 = true) ∧
    (((ringOf (two 15) 1).descs.find? (fun d => decide (d.phase = .checked))).isSome = true ∧ inTurn (two 15) 15 1 = false) ∧
    (let c := on 15 (desc .refetch [])
     (ringOf c 0).en = true ∧ (pageOf c pRING).qreq = false ∧
       ((ringOf c 0).descs.find? (fun d => decide (d.phase = .refetch))).isSome = true) ∧
    canComplete (on 15 (desc .worked [])) 0 (desc .worked []) = true ∧ (desc .running [0#64]).opc = 0 := by decide +kernel
theorem test_witness_SeqSpawn : Running (busy 15 1) q 15 1 (desc .running [1#64]) := running_busy 15 1 (by decide)

/-- A HOSTFED ring with one descriptor, of 2^4 slots. -/
def fedRing : Chip := updRing 0 (fun r => { r with en := true, hostfed := true }) up

theorem test_witness_RingControl :
    ((ringOf fedRing 0).en = true ∧ (ringOf fedRing 0).hostfed = true ∧ 0 < sub32 16 (ringOf fedRing 0).tail ∧
      sub32 16 (ringOf fedRing 0).tail ≤ 2 ^ (ringOf fedRing 0).log2 - sub32 (ringOf fedRing 0).tail (ringOf fedRing 0).head) ∧
    ¬ sub32 17 (ringOf fedRing 0).tail ≤ 2 ^ (ringOf fedRing 0).log2 - sub32 (ringOf fedRing 0).tail (ringOf fedRing 0).head ∧
    (let c := updRing 32767 (fun r => { r with halted := true, descs := [desc .waiting []] }) up
     32767 < 32768 ∧ (ringOf c 32767).halted = true ∧ (ringOf c 32767).find (ringOf c 32767).fidx = some (desc .waiting [])) ∧
    (desc .waiting [1#64]).words ≠ [] ∧ (ringOf up 0).halted = false ∧
    ({ up with ring.doneQ := [(0, 1)] } : Chip).ring.doneQ = (0, 1) :: [] ∧ up.ring.doneQ = [] := by decide +kernel
theorem test_witness_RingConfiguration :
    (up.ring.sel < 32768 ∧ (0x401#64).getLsbD 0 = true ∧ (ringOf up 0).en = false ∧
      Ring.bindable up { ringOf up 0 with base := 0xFFFFF00000000000, log2 := 4 } = true ∧ Ring.bindable up (ringOf up 0) = false) ∧
    (0#64).getLsbD 0 = false ∧ ((ringOf up 0).head = (ringOf up 0).tail) ∧
    ((ringOf fedRing 0).en = true ∧ (64#64).toNat / 64 * 64 ≠ (ringOf fedRing 0).base ∧ (0#64).toNat / 64 * 64 = (ringOf fedRing 0).base) := by
  decide +kernel
theorem test_witness_SetIndices : (32767 < 32768 ∧ 4294967295 < 2 ^ 32 ∧ (ringOf up 32767).en = false ∧
      ∀ d ∈ (ringOf up 32767).descs, d.inFlight = false) ∧ (ringOf fedRing 0).en = true := by decide +kernel
theorem test_witness_SyncRegisters :
    ((ctrOf up 0).poisoned = false ∧ (ctrOf up 0).value ≤ 5) ∧ (5 < (ctrOf (setCtr 0 ⟨6, false⟩ up) 0).value) ∧
    (ctrOf (setCtr 0 ⟨0, true⟩ up) 0).poisoned = true ∧ 65535 < 65536 ∧ up.sync.ctxSel < 1024 ∧ 1024 ≤ ({ up with sync.ctxSel := 1024 } : Chip).sync.ctxSel ∧
    1023 < 1024 ∧ 7 < 8 ∧
    (let x : InSig := ⟨0, 0, 0, 1, 0, 0, false, 3⟩
     let c := { up with sync.compatHeld := [x], time.count := 1000 }
     c.sync.compatHeld[0]? = some x ∧ x.tRaise + 1000 ≤ now c ∧ now { c with time.count := 999 } < x.tRaise + 1000) := by
  decide +kernel
theorem test_witness_SignalsAdd : (ctrOf up 0).poisoned = false ∧ 0 < 65535 ∧ (ctrOf up 0).value + 65535 ≤ 0xFFFFFFFFFFFF ∧ (1 : Nat) ≠ 0 := by decide +kernel
theorem test_witness_CountersSaturate : let c := setCtr 7 ⟨0xFFFFFFFFFFFF, false⟩ up
    (ctrOf c 7).poisoned = false ∧ 0 < 1 ∧ 0xFFFFFFFFFFFF < (ctrOf c 7).value + 1 := by decide +kernel
theorem test_witness_BridleLines : 7 < 8 ∧ isUp up = true ∧ (barOf up 0).en = false ∧
    (barOf (updBar 0 (fun x => { x with en := true, st := .idle }) up) 0).en = true ∧
    (barOf (updBar 0 (fun x => { x with en := true, st := .idle }) up) 0).st ≠ .disabled ∧ (barOf up 0).st = .disabled := by decide +kernel
theorem test_witness_LmemWrites : partialBad [] (cellsAt 0xBFFFFFF [1#8]) up = [] ∧
    (let c := { up with lmem.ecc := [(3, .poison)] }
     SMap.get WordErr.ok c.lmem.ecc 3 = .poison ∧ c.lmem.injArm = false) ∧ [1#8] ≠ [] ∧ 7 + [1#8].length ≤ 8 := by decide +kernel
theorem test_witness_ArbitrationShares : arbOk 0x2C688242124#64 = true ∧ arbOk 0#64 = false ∧
    ({ up with lmem.arbPending := some 0#64 } : Chip).lmem.arbPending = some 0#64 := by decide +kernel
theorem test_witness_LmemRows : 255 < 256 ∧ up.lmem.scrubEn = true ∧ (bankOf up 255).scrubDone = false ∧
    (let c := { up with lmem.ecc := [(5, .single)], lmem.wbQueue := [5] }
     c.lmem.wbQueue.contains 5 = true ∧ SMap.get WordErr.ok c.lmem.ecc 5 = .single) ∧
    (let c := { up with lmem.ecc := [(5, .poison), (6, .double)], lmem.wbQueue := [5] }
     c.lmem.wbQueue.contains 5 = true ∧ SMap.get WordErr.ok c.lmem.ecc 5 = .poison ∧ SMap.get WordErr.ok c.lmem.ecc 6 = .double ∧
       SMap.get WordErr.ok c.lmem.ecc 7 = .ok) ∧
    (descOf (busy 6 6) q = some (desc .running [6#64]) ∧ (desc .running [6#64]).started = true ∧ (ringOf (busy 6 6) 0).cls = 6) ∧
    (8 * 25165823 < Config.lmemBytes ∧ descOf (busy 0 1) q = some (desc .running [1#64]) ∧ (desc .running [1#64]).started = true ∧
      (ringOf (busy 0 1) 0).cls ≠ 6) := by decide +kernel

/-- COPYB of eight bytes of LMEM. -/
def copyb : Desc := desc .running [1#64, 0#64, 0xFFFFF00000000000#64, 0xFFFFF00000000040#64, 8#64]

theorem test_witness_Copyb : Running (on 0 copyb) q 0 1 copyb ∧
    AtHand (on 0 copyb) 5 q (((rangeFrom 0 (copyb.bytes 32 6)).map (byteAddr (copyb.bytes 16 8))).map (mapAddr (on 0 copyb) copyb.rmap)) :=
  ⟨⟨by rfl, by rfl, by rfl, by decide +kernel, by rfl⟩, by unfold AtHand; decide +kernel⟩
/-- A DMA descriptor whose one element has come back from another core. -/
def moved (opc : Nat) : Desc := { desc .running [BitVec.ofNat 64 opc] with rbuf := (rangeFrom 0 8).map fun a => (a, 0#8) }

theorem running_moved (opc : Nat) (h : opc < 256) : Running (on 0 (moved opc)) q 0 opc (moved opc) :=
  ⟨by rfl, by rfl, by rfl, (running_busy 0 opc h).opc, by rfl⟩

theorem test_witness_MovementRows : Running (on 0 (moved 2)) q 0 2 (moved 2) ∧ Running (on 0 (moved 3)) q 0 3 (moved 3) ∧
    Running (busy 0 6) q 0 6 (desc .running [6#64]) ∧ Running (busy 0 7) q 0 7 (desc .running [7#64]) ∧
    Running (busy 8 1) q 8 1 (desc .running [1#64]) ∧
    AtHand (on 0 (moved 2)) 5 q ((pairNames (moved 2) (copyPairs (moved 2))).map (mapAddr (on 0 (moved 2)) (moved 2).rmap)) ∧
    AtHand (on 0 (moved 3)) 5 q ((pairNames (moved 3) (copyPairs (moved 3))).map (mapAddr (on 0 (moved 3)) (moved 3).rmap)) ∧
    (AtHand (busy 0 7) 5 q [] ∧ splitNames (desc .running [7#64]) = [] ∧ xpbNames (desc .running [1#64]) = []) :=
  ⟨running_moved _ (by decide), running_moved _ (by decide), running_busy _ _ (by decide), running_busy _ _ (by decide),
    running_busy _ _ (by decide), by unfold AtHand; decide +kernel, by unfold AtHand; decide +kernel, by rfl, by decide +kernel⟩

theorem test_witness_gather : Running (on 0 (moved 4)) q 0 4 (moved 4) ∧ idxNames (moved 4) = [] ∧ AtHand (on 0 (moved 4)) 5 q [] ∧
    (let c := notePermRange (idxOut (on 0 (moved 4)) (moved 4) (((moved 4).ten (moved 4).srcTld).t.dim (moved 4).gdim)) (on 0 (moved 4))
     AtHand c 5 q ((pairNames (moved 4) (gatherPairs (on 0 (moved 4)) (moved 4))).map (mapAddr (on 0 (moved 4)) (moved 4).rmap))) :=
  ⟨running_moved _ (by decide), by decide +kernel, by rfl, by unfold AtHand; decide +kernel⟩

theorem test_witness_scatter : Running (on 0 (moved 5)) q 0 5 (moved 5) ∧ idxNames (moved 5) = [] ∧ AtHand (on 0 (moved 5)) 5 q [] ∧
    (let c := notePermRange (idxOut (on 0 (moved 5)) (moved 5) (((moved 5).ten (moved 5).dstTld).t.dim (moved 5).gdim)) (on 0 (moved 5))
     AtHand c 5 q ((pairNames (moved 5) (scatterPairs (on 0 (moved 5)) (moved 5))).map (mapAddr (on 0 (moved 5)) (moved 5).rmap))) :=
  ⟨running_moved _ (by decide), by decide +kernel, by rfl, by unfold AtHand; decide +kernel⟩
theorem test_witness_EngineWritesToLmem : up.lmem.ecc = [] ∧ (∀ p ∈ [(self 0, 1#8), (self 0xBFFFFFF, 2#8)], hereRegion up p.1 = some .lmem) ∧
    (([(self 0, 1#8), (self 0xBFFFFFF, 2#8)] : List (Nat × Byte)).map fun p => offOf p.1).Nodup ∧ farWrites up 0 0 = false ∧
    (ringOf (busy 0 1) 0).find 0 = some (desc .running [1#64]) ∧ (desc .running [1#64]).raced = [] := by decide +kernel

/-- A checked descriptor of a class. -/
theorem checked_on (cls : Nat) : Checked (on cls (desc .checked [1#64])) q cls (desc .checked [1#64]) := ⟨by rfl, by rfl, by rfl, by rfl⟩

theorem test_witness_DescriptorStarts :
    (∀ cls ∈ [0, 1, 2, 3, 7, 8], inTurn (on cls (desc .checked [1#64])) cls 0 = true ∧ inTurn (two cls) cls 1 = false) ∧ stageBusy up = false ∧ inLmem 0xBFFFFC0 64 = true ∧ stageBusy (on 0 { copyb with staged := true }) = true ∧
    (ringOf up 0).en = false ∧ (ringOf (updRing 0 (fun r => { r with halted := true }) up) 0).halted = true ∧
    pageStopped { up with pages := [(pDMA, { PageHdr.reset with qreq := true })] } (classPage 0) = true ∧
    ({ up with wvm.hold := some (0, 0) } : Chip).wvm.hold ≠ none := by decide +kernel
/-- The first eight bytes of core 0, come back. -/
def come : List Host.Cell := (rangeFrom 0 8).map fun a => (a, 0#8)

/-- A STREAM of four rows on array 0, which streams, its operands come back. -/
def streaming : Desc := { taken [1#64, 0#64, 1#64, 0#64, 0x400000000#64] with arrs := [(0, 2)], rbuf := come }

/-- A descriptor of MXA that has loaded array 3, in a mode. -/
def loaded (mode : Nat) : Desc := { taken [1#64, 0#64, BitVec.ofNat 64 (8 + 16 * mode)] with arrs := [(3, 1)], rbuf := come }

theorem test_witness_MatrixRows : Running (on 1 (taken [1#64])) q 1 1 (taken [1#64]) ∧ Running (on 1 (taken [2#64])) q 1 2 (taken [2#64]) ∧
    Running (on 1 streaming) q 1 1 streaming ∧
    Running (busy 1 1) q 1 1 (desc .running [1#64]) ∧ Running (busy 1 2) q 1 2 (desc .running [2#64]) ∧
    Running (busy 2 1) q 2 1 (desc .running [1#64]) ∧
    (∀ d ∈ [taken [1#64], taken [2#64], streaming], mayStream (on 1 d) d = true ∧ denseArrays (on 1 d) d = [] ∧
      AtHand (on 1 d) 0 q ((streamNames d).map (mapAddr (on 1 d) d.rmap)) ∧
      AtHand (on 1 d) 1 q ((drainNames d).map (mapAddr (on 1 d) d.rmap))) ∧
    (let c := { on 1 streaming with pwr.half := [(1, true)] }
     mayStream c streaming = true ∧ denseArrays c streaming ≠ []) ∧
    (let d := { streaming with arrs := [(0, 1)] }
     d.sampled = true ∧ mayStream (on 1 d) d = false) ∧
    (desc .running [1#64]).sampled = false ∧
    (mvpNames (desc .running [1#64]) = [] ∧ mvpOldNames (desc .running [1#64]) = []) ∧
    (let d := loaded mMUL
     onArray (on 1 d) 3 1 = (0, d) :: [] ∧ mayEnter (on 1 d) d = true ∧ d.sampled = true ∧ d.keepW = false ∧ d.mMode ≠ mSPLIT3) ∧
    (let d := loaded mSPLIT3
     onArray (on 1 d) 3 1 = (0, d) :: [] ∧ mayEnter (on 1 d) d = true ∧ d.sampled = true ∧ d.keepW = false ∧ d.mMode = mSPLIT3 ∧
       descOf (on 1 d) ⟨0, d.idx⟩ = some d ∧ AtHand (on 1 d) 0 ⟨0, d.idx⟩ ((d.arrays.flatMap (wNames d)).map (mapAddr (on 1 d) d.rmap))) ∧
    (let d := loaded mMUL
     let c := updRing 1 (fun r => { r with en := true, cls := 1, tail := 1, descs := [{ d with arrs := [(3, 2)] }] }) (on 1 d)
     onArray c 3 1 = (0, d) :: [] ∧ d.sampled = true ∧ d.keepW = false ∧ 3 ∈ d.arrays ∧ onArray c 3 2 ≠ []) ∧
    (let d := { loaded mMUL with samp := [] }
     onArray (on 1 d) 3 1 = (0, d) :: [] ∧ onArray (on 1 d) 3 2 = [] ∧ d.sampled = false) ∧
    (let d := { taken [0x2000001#64, 0#64, 8#64] with arrs := [(3, 1)] }
     onArray (on 1 d) 3 1 = (0, d) :: [] ∧ onArray (on 1 d) 3 2 = [] ∧ d.sampled = true ∧ d.keepW = true) ∧
    (let c := { up with mxa.f7Wait := true }
     c.mxa.f7Wait = true ∧ classDescs c 1 Desc.started = []) ∧
    classDescs { busy 1 1 with mxa.f7Wait := true } 1 Desc.started ≠ [] := by
  refine ⟨running_taken _ _ (by decide), running_taken _ _ (by decide), running_on _ _ _ rfl (by decide +kernel) rfl,
    running_busy _ _ (by decide), running_busy _ _ (by decide), running_busy _ _ (by decide), ?_⟩
  unfold AtHand
  decide +kernel
/-- A RUN that takes one forwarded row. -/
def fwdRun : Desc := { taken [1#64, 0#64, 0#64, 0x3000000#64, 0#64, 0#64, 1#64] with chs := [3] }

/-- An XREDUCE of a kind whose start's reads have been made. -/
def exact (kind : Nat) : Desc := taken [3#64, 0#64, BitVec.ofNat 64 (kind * 2 ^ 24)]

theorem test_witness_VectorAndReductionRows :
    Running (on 3 (taken [1#64])) q 3 1 (taken [1#64]) ∧ Running (on 3 fwdRun) q 3 1 fwdRun ∧
    Running (busy 3 1) q 3 1 (desc .running [1#64]) ∧ Running (busy 3 2) q 3 2 (desc .running [2#64]) ∧
    Running (busy 4 1) q 4 1 (desc .running [1#64]) ∧ Running (busy 4 2) q 4 2 (desc .running [2#64]) ∧
    Running (on 4 (taken [2#64])) q 4 2 (taken [2#64]) ∧ Running (busy 4 3) q 4 3 (desc .running [3#64]) ∧
    (∀ k : Nat, k < 3 → Running (on 4 (exact k)) q 4 3 (exact k)) ∧
    (let w : FwdRow := ⟨0, 3, 0, 0, 0, 0, []⟩
     let c := { on 3 fwdRun with vec.fwd := [w] }
     c.vec.fwd.find? (fun w => w.chain == 3) = some w ∧
       classDescs c 3 (fun d => decide (d.phase = .running) && d.chs == [3] && d.opc == 1 && !d.vFwd.isEmpty && d.vFwdTag == w.tag
         && decide (d.took.length < d.vRows)) = (0, fwdRun) :: []) ∧
    (fwdRun.sampled = true ∧ (fwdRun.vFwd.isEmpty || fwdRun.took.length == fwdRun.vRows) = false) ∧
    (let d := taken [1#64]
     d.sampled = true ∧ (d.vFwd.isEmpty || d.took.length == d.vRows) = true ∧ runNames d = []) ∧
    (desc .running [1#64]).sampled = false ∧
    ((desc .running [2#64]).tRows = false ∧ (desc .running [2#64]).tSum = false) ∧
    (desc .running [2#64, 0#64, 0x20#64]).tRows = true ∧
    ((desc .running [1#64]).lSrc = 0 ∧ (desc .running [1#64]).fedRuns = (desc .running [1#64]).lCount) ∧
    (desc .running [1#64]).lSrc = 0 ∧ { desc .running [1#64] with fedRuns := 1 }.fedRuns ≠ (desc .running [1#64]).lCount ∧
    (let d := desc .running [1#64, 0#64, 0x10#64]
     d.lSrc ≠ 0 ∧ windowIdx [(d.lEl, d.lLanes), (d.lRow, d.lCount)] = []) ∧
    ((taken [2#64]).sampled = true ∧ pieceHere (on 4 (taken [2#64])) (taken [2#64]) = false) ∧ (desc .running [2#64]).sampled = false ∧
    (∀ k : Nat, k < 3 → (exact k).sampled = true ∧ (exact k).xKind = k) ∧
    (((exact 1).exact (SMap.get 0 (exact 1).samp 1).toNat (SMap.get 0 (exact 1).samp 2).toNat).read.2 = true) ∧
    (let d := { exact 1 with flags := 1 }
     d.sampled = true ∧ d.xKind = 1 ∧ (d.exact (SMap.get 0 d.samp 1).toNat (SMap.get 0 d.samp 2).toNat).read.2 = false) ∧
    (desc .running [3#64]).sampled = false := by
  refine ⟨running_taken _ _ (by decide), running_on _ _ _ rfl (by decide +kernel) rfl,
    running_busy _ _ (by decide), running_busy _ _ (by decide), running_busy _ _ (by decide), running_busy _ _ (by decide),
    running_taken _ _ (by decide), running_busy _ _ (by decide), fun k hk => running_on _ _ _ rfl ?_ rfl, ?_⟩
  · rcases (by omega : k = 0 ∨ k = 1 ∨ k = 2) with rfl | rfl | rfl <;> decide +kernel
  · decide +kernel
/-- A core with a tap that is due: ring 0, slot 2. -/
def tapped : Chip := on 3 { desc .worked [1#64] with taps := [(2, 0x3F800000, true)] }

theorem test_witness_ScaleTrackerRows : (tapsDue tapped)[0]? = some (0, 0, (2, 0x3F800000, true), 0) ∧ slotCfgOk 0x7F82000000000000#64 = true ∧
    slotCfgOk 0x8082000000000000#64 = false ∧ expOk (sext 8 (0x7F % 2 ^ 8)) = true ∧ expOk (sext 8 (0x82 % 2 ^ 8)) = true ∧
    expOk (sext 8 (0x81 % 2 ^ 8)) = false := by decide +kernel
/-- A core whose regions 0 to 2047 can be registered, and one whose region 0 is. -/
def rgn0 : Chip := setRgn 0 { Rgn.reset with valid := true } (busy 7 8)

theorem test_witness_WeightRows : (Running (busy 7 1) q 7 1 (desc .running [1#64]) ∧ Running (busy 7 2) q 7 2 (desc .running [2#64]) ∧
      Running (busy 7 3) q 7 3 (desc .running [3#64]) ∧ Running (busy 7 4) q 7 4 (desc .running [4#64]) ∧
      Running (busy 7 5) q 7 5 (desc .running [5#64]) ∧ Running (busy 7 6) q 7 6 (desc .running [6#64]) ∧
      Running (busy 7 7) q 7 7 (desc .running [7#64]) ∧ Running (busy 7 8) q 7 8 (desc .running [8#64])) ∧
    wvmOwn (busy 7 1) (desc .running [1#64]) = none ∧ wvmOwn rgn0 (desc .running [1#64]) ≠ none ∧
    (desc .running [6#64]).opc = 6 ∧ wvmOwn (busy 7 8) (desc .running [8#64, 0#64, 0x10000#64]) ≠ none ∧ wvmOwn (busy 7 8) (desc .running [8#64]) = none ∧
    (wvmOwn (busy 7 6) (desc .running [6#64]) = none ∧ (desc .running [6#64]).wSel = 0) ∧
    (desc .running [2#64]).wRgns.all (rgnQuiet (busy 7 2)) = true ∧
    (desc .running [2#64, 0#64, 0x10000#64]).wRgns.all (rgnQuiet (setRgn 0 { Rgn.reset with valid := true, frozenA := true } up)) = false ∧
    ((busy 7 4).wvm.wants = none ∧ (busy 7 4).wvm.hold = none) ∧ ({ busy 7 4 with wvm.wants := some (1, 0) } : Chip).wvm.wants ≠ none ∧
    (let d (g : Int) : Desc := { desc .running [4#64] with samp := [(1, g)] }
     let c (g : Int) : Chip := { on 7 (d g) with wvm.wants := some (0, 0) }
     ∀ g ∈ [0, 1], (c g).wvm.wants = some (0, 0) ∧ descOf (c g) ⟨0, 0⟩ = some (d g) ∧ (d g).opc = 4 ∧ SMap.get 0 (d g).samp 1 = g ∧
       anyWriter (c g) = false ∧ (pageOf (c g) pSCT).qreq = false ∧ (c g).snap.latCopy = false) ∧
    (let d := { desc .running [5#64] with writes := [3] }
     let c := { on 7 d with wvm.wants := some (0, 0) }
     c.wvm.wants = some (0, 0) ∧ descOf c ⟨0, 0⟩ = some d ∧ anyWriter c = true) ∧ up.wvm.wants = none ∧
    (let d := desc .running [5#64]
     let c := { on 7 d with wvm.wants := some (0, 0), snap.latCopy := true }
     c.wvm.wants = some (0, 0) ∧ descOf c ⟨0, 0⟩ = some d ∧ anyWriter c = false ∧ (pageOf c pSCT).qreq = false ∧ c.snap.latCopy = true) ∧
    (classDescs (busy 7 1) 7 Desc.started ≠ []) ∧
    (let c := { busy 7 5 with wvm.wants := some (0, 0) }
     c.wvm.wants = some (0, 0) ∧ descOf c ⟨0, 0⟩ = some (desc .running [5#64]) ∧ (desc .running [5#64]).opc = 5 ∧ anyWriter c = false ∧
       (pageOf c pSCT).qreq = false ∧ c.snap.latCopy = false) ∧
    (classDescs up 7 Desc.started = [] ∧ ∀ p ∈ rgn0.wvm.rgns, p.2.other ≠ .pend) := by
  refine ⟨⟨running_busy _ _ (by decide), running_busy _ _ (by decide), running_busy _ _ (by decide), running_busy _ _ (by decide),
    running_busy _ _ (by decide), running_busy _ _ (by decide), running_busy _ _ (by decide), running_busy _ _ (by decide)⟩, ?_⟩
  decide +kernel
/-- A SNAP descriptor part of the way through its work. -/
def snapAt (opc prog : Nat) : Desc := { desc .running [BitVec.ofNat 64 opc] with prog := prog }

/-- A TRICKLE whose region 7 has been sent: stream 5 covers it, slot A is pinned. -/
def trickle : Desc := { desc .running [3#64] with arrs := [(5, 2)], pins := [(7, 0)], samp := [(1022, 7)] }

theorem test_witness_SnapshotRows : (Running (busy 6 1) q 6 1 (desc .running [1#64]) ∧ Running (busy 6 2) q 6 2 (desc .running [2#64]) ∧
      Running (busy 6 3) q 6 3 (desc .running [3#64]) ∧ Running (busy 6 4) q 6 4 (desc .running [4#64]) ∧
      Running (busy 6 5) q 6 5 (desc .running [5#64]) ∧ Running (busy 6 6) q 6 6 (desc .running [6#64]) ∧
      Running (busy 6 7) q 6 7 (desc .running [7#64])) ∧
    ((snapAt 1 0).prog = 0 ∧ (snapAt 1 1).prog ≠ 0 ∧ allAcked (on 6 (snapAt 1 1)) q = true) ∧
    ((on 6 (snapAt 4 1)).snap.tees = [] ∧ allAcked (on 6 (snapAt 4 1)) q = true) ∧
    allAcked { on 6 (snapAt 1 1) with outbox := [⟨0, .wr, 0, 64, [], 3, .desc 0 0, 0, 1, 5, 0, false⟩] } q = false ∧
    { snapAt 2 1 with tStart := some 3 }.tStart = some 3 ∧
    ({ up with snap.tees := [⟨9, 1, 5, 0, 0, 64, 7, false⟩] } : Chip).snap.tees ≠ [] ∧
    ((desc .running [5#64]).nLen = 0 ∧ (desc .running [5#64]).nExpect = 0) ∧
    (genState { up with snap.stA := 1 } false = 1 ∧ genState up false ≠ 1) ∧
    (up.snap.latCopy = false ∧ (let c := { up with snap.latCopy := true }
      c.snap.latCopy = true ∧ c.wvm.hold = none)) ∧
    (let t (tag : Nat) (failed : Bool) : Tee := ⟨9, 1, 5, 0, tag, 64, 7, failed⟩
     let c (tag : Nat) (failed : Bool) : Chip := { up with snap.tees := [t tag failed] }
     (∀ tag ∈ [0, 1], ∀ f ∈ [true, false], (c tag f).snap.tees[0]? = some (t tag f) ∧ reqsOf (c tag f) (.tee (t tag f).id) = 0 ∧
       (t tag f).failed = f) ∧
     (streamOf (c 0 false) 5).tag = (t 0 false).tag ∧ (streamOf (c 1 false) 5).tag ≠ (t 1 false).tag ∧ (c 0 false).snap.tees.length ≤ 1 ∧
     reqsOf { c 0 false with outbox := [⟨0, .wr, 0, 64, [], 3, .tee 9, 0, 1, 5, 0, false⟩] } (.tee 9) ≠ 0) ∧
    (classDescs (on 6 trickle) 6 (fun d => decide (d.phase = .running ∧ d.opc = 3) &&
          ((d.arrs.find? fun x => x.2 == 2 && d.strRgn x.1 == 7).map Prod.fst).isSome) = (0, trickle) :: [] ∧ trickle.idx = 0 ∧
      trickle.arrs.find? (fun x => x.2 == 2 && trickle.strRgn x.1 == 7) = some (5, 2) ∧
      trickle.pins.find? (fun p => p.1 == 7) = some (7, 0) ∧
      writesTo (on 6 trickle) ⟨0, 0⟩ (trickle.strBase 5) (trickle.strBytes 5) = false) ∧
    (streamsLocked up = false ∧ streamOk up.snap.sel { streamOf up up.snap.sel with src := 0#64 } = true ∧
      streamsLocked { up with snap.stA := 1 } = true) := by
  refine ⟨⟨running_busy _ _ (by decide), running_busy _ _ (by decide), running_busy _ _ (by decide), running_busy _ _ (by decide),
    running_busy _ _ (by decide), running_busy _ _ (by decide), running_busy _ _ (by decide)⟩, ?_⟩
  decide +kernel
theorem test_witness_LinkDescriptors : (Running (busy 5 1) q 5 1 (desc .running [1#64]) ∧ Running (busy 5 0x10) q 5 0x10 (desc .running [0x10#64])) ∧
    ((desc .running [1#64]).prog = 0 ∧ (desc .running [1#64]).putTee = false ∧ (desc .running [1#64]).putLen = 0) ∧
    (desc .running [0x10#64]).prog ≠ 1 ∧ { desc .running [0x10#64] with prog := 1 }.prog ≠ 0 ∧
    (let d := { desc .running [0x10#64] with prog := 2, samp := [(21, 4)] }
     let c := on 5 d (setCtr 3 ⟨1, false⟩ up)
     d.prog = 2 ∧ SMap.get 0 d.samp 21 ≠ 0 ∧ d.landDelta = 0 ∧
       reached c (SMap.get 0 d.samp 21 - 1).toNat (d.arrBase + (rshPeers d).length) = true) ∧
    ((1#64).getLsbD 0 = true ∧ 64 * ((1#64).toNat / 2 ^ 6 % 2 ^ 22) + 64 * ((0x30000000000001#64).toNat / 2 ^ 32 % 2 ^ 22) ≤ Config.lmemBytes) ∧
    Config.lmemBytes < 64 * (0xFFFFFC1#64).toNat / 64 * 64 + 64 * 4194303 := by
  refine ⟨⟨running_busy _ _ (by decide), running_busy _ _ (by decide)⟩, ?_⟩
  decide +kernel
/-- A core with port 3 in a state. -/
def port (st : PortState) (f : Port → Port := id) : Chip := updPort 3 (fun p => { f p with st := st }) up

theorem test_witness_PortTraining : 3 < 4 ∧ 7 < 8 ∧ (portOf (port .down) 3).st ≠ .train ∧ (portOf (port .train) 3).st = .train ∧
    now up < (portOf (port .train) 3).trainFrom + 20000 ∧
    (∀ k ∈ [1, 2], let c := { port .train fun p => { p with attempts := k } with time.count := 20000 }
      (portOf c 3).st = .train ∧ (portOf c 3).trainFrom + 20000 ≤ now c ∧ (portOf c 3).attempts = k) ∧
    ((portOf (port .up fun p => { p with width := 8 }) 3).st ≠ .train ∧ (portOf (port .up fun p => { p with width := 8 }) 3).active 7 = true) ∧
    (portOf (port .up fun p => { p with width := 4 }) 3).active 7 = false ∧
    (let c := { port .up fun p => { p with replay := [⟨0, 0, []⟩] } with time.count := 10000 }
     (portOf c 3).replay ≠ [] ∧ (portOf c 3).ackFrom + 10000 ≤ now c) ∧
    (portOf up 3).replay = [] ∧ now up < (portOf (port .up fun p => { p with replay := [⟨0, 0, []⟩] }) 3).ackFrom + 10000 := by
  decide +kernel

/-! ### Codewords (R401 to R403) -/

/-- The coefficients that the encoder adds are those of g(x), multiplied by each power of α that a bit of a symbol stands for. -/
theorem test_generator : (rangeFrom 0 10).map (fun j => ((rsGenerator.take 16).map (gfMul (gfAlpha j))).foldr (fun s x => s + 1024 * x) 0) =
    rsTaps := by decide +kernel

/-- The generator is monic, and α^0 and α^15 are roots of it. -/
theorem test_generator_roots : rsGenerator.length = 17 ∧ polyAt (gfAlpha 0) rsGenerator = 0 ∧ polyAt (gfAlpha 15) rsGenerator = 0 ∧
    gfAlpha 10 = 9 ∧ gfMul gfDown 2 = 1 := by decide +kernel

/-- The bytes of a flit with a type, a number and an empty payload, with its CRC. -/
def flitBytes (ft num : Nat) : List Byte :=
  let bs := leBytes 5 (ft + 16 * num) ++ List.replicate 331 0#8
  bs ++ leBytes 4 (crc32c bs)

/-- That flit as eight lanes bring it, with what is added to symbols of its codeword on the way. -/
def flit (ft num : Nat) (noise : List (Nat × Nat) := []) : FlitIn :=
  let w := noise.foldl (fun w e => xorAt e.2 w e.1) (rsEncode (flitSymbols (flitBytes ft num)))
  ⟨(rangeFrom 0 8).map fun i => laneBits 8 i w⟩

/-- Noise in eight symbols, and in nine. -/
def noise (n : Nat) : List (Nat × Nat) := (rangeFrom 0 n).map fun k => (35 * k, 77 + k)

set_option maxRecDepth 40000 in
theorem test_codeword : flitOf (flit 1 0) = some (flitBytes 1 0, 0) := by decide +kernel
set_option maxRecDepth 40000 in
theorem test_correction : flitOf (flit 1 0 (noise 8)) = some (flitBytes 1 0, 8) := by decide +kernel
set_option maxRecDepth 40000 in
theorem test_uncorrectable : flitOf (flit 1 0 (noise 9)) = none := by decide +kernel

set_option maxRecDepth 40000 in
theorem test_witness_Flits : (portOf (port .up fun p => { p with width := 8 }) 3).streaming = true ∧
    (flit 1 0).lanes.length = (portOf (port .up fun p => { p with width := 8 }) 3).width ∧
    flitOf (flit 0 0) = some (flitBytes 0 0, 0) ∧ flitOf (flit 2 0) = some (flitBytes 2 0, 0) ∧ flitOf (flit 1 1) = some (flitBytes 1 1, 0) ∧
    flitIntact (flitBytes 0 0) 0 = true ∧ flitIntact (flitBytes 1 0) 1 = true ∧ flitIntact (flitBytes 2 0) 2 = true ∧
    flitIntact (flitBytes 1 0) 0 = false ∧ flitIntact (flitBytes 0 0) 1 = false ∧ flitIntact (flitBytes 0 0) 2 = false ∧
    bits (leNat ((flitBytes 1 0).take 5)) 4 12 = ((portOf (port .up) 3).rxSeq + 1) % 4096 ∧
    bits (leNat ((flitBytes 1 1).take 5)) 4 12 ≠ ((portOf (port .up) 3).rxSeq + 1) % 4096 ∧
    (∀ ft ∈ [0, 2], bits (leNat ((flitBytes ft 0).take 5)) 4 12 = ((portOf (port .up fun p => { p with rxLost := true }) 3).rxSeq + 1) % 4096 ∧
      bits (leNat ((flitBytes ft 1).take 5)) 4 12 ≠ ((portOf (port .up fun p => { p with rxLost := true }) 3).rxSeq + 1) % 4096) ∧
    (portOf (port .up fun p => { p with rxLost := true }) 3).rxLost = true ∧ (portOf (port .up) 3).rxLost = false ∧
    Port.reset.replay.length ≤ 256 := by decide +kernel

theorem test_witness_Packets : 3 < 4 ∧ (portOf (port .negotiate) 3).streaming = true ∧ (portOf (port .up) 3).st = .up ∧
    (portOf (port .negotiate) 3).st = .negotiate ∧ (portOf (port .up) 3).streaming = true ∧
    packetBad { pkt tyNEGOTIATE 2 with v12 := true } = false ∧ packetBad { pkt tyNEGOTIATE 2 with v12 := true, res0 := true } = true ∧
    ∀ p ∈ [pkt tyWR 0, pkt tyRD 0, pkt tyAMO 0, pkt tySIG 1, pkt tyWRACK 2, pkt tyRDDATA 2, pkt tyAMORSP 2, pkt tySIGACK 2, pkt tyTIMESYNC 2,
      pkt tyTIMEREPLY 2, pkt tyCLOSE 2], packetBad p = false ∧ packetBad { p with res0 := true } = true := by decide +kernel

/-- A request of this core. -/
def req (tag since : Nat) : Req := ⟨tag, .rd, 0, 8, [], 0, .signal, 0, 0, 0, since, true⟩

theorem test_witness_RoutesAndTimeouts : 4294967295 < 2 ^ 32 ∧ swapOk up 0 = false ∧
    (let c := { up with tlk.staged := [(0, 2 ^ 26 + 7 * 2 ^ 20)] }
     swapOk c 1 = true ∧ c.sync.held = [] ∧ c.tlk.heldReqs = []) ∧
    ((portOf up 3).en = false ∧ (portOf up 3).st = .down) ∧ (portOf (port .up fun p => { p with en := true }) 3).en = true ∧
    ((portOf (port .failed) 3).en = false ∧ (portOf (port .failed) 3).st ≠ .down ∧ (portOf (port .failed) 3).st ≠ .closed) ∧
    (let c := { up with tlk.out := [req 65535 0], time.count := 1000000000 }
     c.tlk.out.find? (fun r => r.tag == 65535) = some (req 65535 0) ∧ (req 65535 0).sent = true ∧
       1000 * max 1 (c.tlk.cfg.toNat % 2 ^ 20) ≤ now c - 0) ∧
    (let c := { up with tlk.out := [{ req 7 0 with sent := false }, req 8 0] }
     c.tlk.out.find? (fun r => r.tag == 7) = some { req 7 0 with sent := false } ∧
       c.tlk.out.find? (fun r => r.tag == 8) = some (req 8 0) ∧ now c - 0 < 1000 * max 1 (c.tlk.cfg.toNat % 2 ^ 20)) ∧
    up.tlk.out.find? (fun r => r.tag == 0) = none ∧
    (let c := { up with tlk.heldReqs := [req 0 0], time.count := 1000000000 }
     c.tlk.heldReqs[0]? = some (req 0 0) ∧ 1000 * (c.tlk.cfg.toNat / 2 ^ 20 % 2 ^ 20) ≤ now c - 0) ∧
    (let c := { up with tlk.heldReqs := [req 0 0], tlk.cfg := 0x100000#64 }
     c.tlk.heldReqs[0]? = some (req 0 0) ∧ now c - 0 < 1000 * (c.tlk.cfg.toNat / 2 ^ 20 % 2 ^ 20)) ∧
    (let c := { port .up fun p => { p with ver := 2, role := 1, syncAt := some 0 } with time.count := 10000000000 }
     timeRole c 3 1 = true ∧ (portOf c 3).syncAt = some 0 ∧ 0 + 1000 * max 1 c.tlk.timeCfg ≤ now c) ∧
    (let c := port .up fun p => { p with ver := 2, role := 1, syncAt := some 0 }
     (portOf c 3).syncAt = some 0 ∧ now c < 0 + 1000 * max 1 c.tlk.timeCfg) ∧
    (⟨pkt tyTIMESYNC 2, none⟩ : QPkt).pkt.ty = tyTIMESYNC ∧
    (let c := { port .up fun p => { p with exch := some 0 } with time.count := 100000 }
     (portOf c 3).exch = some 0 ∧ 100000 ≤ now c - 0 ∧ ∀ m < 4, m ≠ 3 → (portOf c m).exch = none) ∧
    ∀ n < 4, (portOf up n).exch = none := by decide +kernel
/-- The core with its host port agreed. -/
def hosted : Chip :=
  { up with
    hport.st := .up, hport.channels := 16, hport.peer := true, hport.out := [req 15 0], hport.grant := [(30, 1), (31, 8)]
    hport.peerOut := [⟨16, 0, pkt tyWR 0⟩], time.count := 20000000000 }

theorem test_witness_HostLanes :
    (∀ b : Bool, ∀ beats ∈ [0, 1, 8], let c := { hosted with hport.refusing := b }
      15 < c.hport.channels ∧ hportLive c = true ∧ SMap.get 0 c.hport.grant (2 * 15) ≠ 0 ∧ beats ≤ SMap.get 0 c.hport.grant (2 * 15 + 1) ∧
        c.hport.refusing = b ∧ c.hport.peer = true) ∧ up.hport.peer = false ∧
    (hportReq hosted 0 16 = none ∧ peerReq hosted 0 16 = some ⟨16, 0, pkt tyWR 0⟩ ∧
      1000 * max 1 hosted.hport.timeoutUs ≤ now hosted - 0) ∧
    (hportReq hosted 0 17 = none ∧ peerReq hosted 0 17 = none) ∧ hportReq hosted 0 15 = some (req 15 0) ∧ (req 15 0).kind = .rd ∧
    (List.replicate 64 0#8 : List Byte).length = 64 * linesOf (req 15 0).addr (req 15 0).len ∧ (req 15 0).kind ≠ .wr ∧
    1000 * max 1 hosted.hport.timeoutUs ≤ now hosted - (req 15 0).since ∧ up.hport.st ≠ .up ∧
    (15 < hosted.hport.channels ∧ SMap.get 0 hosted.hport.due 15 = 0) ∧
    0 < SMap.get 0 ({ hosted with hport.due := [(15, 3)] } : Chip).hport.due 15 ∧
    (let c := { hosted with hport.st := .detaching, hport.detachFrom := some 0, time.count := 100000000 }
     c.hport.detachFrom = some 0 ∧ 1000000 * max 1 c.hport.detachMs ≤ now c - 0) ∧
    detachReady { up with
      hport.st := .detaching, hport.detachFrom := some 0
      pages := rows { PageHdr.reset with qreq := true } 0 20 } = true := by decide +kernel

/-- An image without repairs, of one array, whose boot PC is offset 0 of LMEM. -/
def image : List W32 :=
  let ws : List W32 := [0xAC2E1400#32, 0x0104#32, 0#32, 15#32, 0#32, 0#32, 0#32, 0#32, 0#32, 0xFFFFF000#32] ++ List.replicate 6 0#32
  ws ++ [BitVec.ofNat 32 (crc32c (imgBytes ws))]

theorem test_witness_Sideband : 0x2003 % 16 = 3 ∧ 2 % 16 = 2 ∧ 1 % 16 < 2 ∧ 3 < 4 % 16 ∧
    (let c := { inPhase (.cold 2) with core.helloSeen := true, core.imgWords := image }
     c.core.phase = .cold 2 ∧ c.core.helloSeen = true ∧ imgOk c.core.imgWords = true) ∧
    imgOk [] = false ∧ (inPhase (.cold 2)).core.helloSeen = false ∧
    (let c := { inPhase (.cold 2) with time.count := 100000000 }
     c.core.phase = .cold 2 ∧ 100000000 ≤ now c - c.core.stepFrom) ∧
    (sbWaits up = false ∧ pageAccessOk 0x10013FFF8 8 = true ∧ pageAt 0x10013FFF8 = some (19, 0xFFF8)) ∧ pageAccessOk 0x10013FFFC 8 = false :=
  by decide +kernel

/-- The core taking an upward step whose ramp has ended. -/
def slewing : Chip := { up with pwr.busy := true, pwr.ungated := [(12, some 0)] }

/-- A request of array 0. -/
def ampReq (step : Nat) : PwrReq := ⟨1, 0, step, 0, 0x640, 1⟩

theorem test_witness_PowerRows : enginePages.all (quiesced { up with pages := rows { PageHdr.reset with qreq := true } 0 20 }) = true ∧
    enginePages.all (quiesced up) = false ∧ 5 ≤ (5#64).toNat % 8 ∧ ((4#64).toNat % 8 < 5 ∧ up.pwr.busy = false) ∧
    (slewing.pwr.busy = true ∧ slewing.pwr.uvNow = false ∧ slewing.pwr.down = false ∧ unitOn slewing 12 = true) ∧
    (let c := { slewing with pwr.ungated := [], pwr.down := true }
     c.pwr.busy = true ∧ c.pwr.uvNow = false ∧ c.pwr.down = true) ∧ pwrRuns up = true ∧
    (let c := { up with sync.quietSince := some 0, time.count := 200000 }
     c.sync.quietSince = some 0 ∧ c.pwr.cfg.toNat % 2 ^ 16 ≤ now c - 0 ∧
       1000 * (c.pwr.cfg.toNat / 2 ^ 16 % 2 ^ 16) ≤ now c - 0 ∧ c.pwr.waking = none) ∧
    ({ up with pwr.waking := some 3 } : Chip).pwr.waking = some 3 ∧ ({ up with pwr.uvNow := true } : Chip).pwr.uvNow = true ∧
    (let c := { up with pwr.ungated := [(11, some 5)] }
     unitIdle c 11 = true ∧ SMap.get none c.pwr.ungated 11 = some 5) ∧
    (admissible { up with pwr.queue := [ampReq 4] } = some (ampReq 4) ∧ admissible { up with pwr.queue := [ampReq (2 ^ 30)] } = none ∧
      up.pwr.ramp = none ∧ up.pwr.uvNow = false) ∧
    (let c := { up with pwr.ramp := some (ampReq 4), pwr.rampEnd := 5 }
     (ampReq 4).unit < 12 ∧ c.pwr.ramp = some (ampReq 4) ∧ now c < c.pwr.rampEnd ∧
       ({ c with time.count := 5 } : Chip).pwr.rampEnd ≤ now { c with time.count := 5 }) ∧
    (arrayDense { on 1 streaming with pwr.half := [(1, true)] } 0 = true ∧ arrayDense up 0 = false) ∧
    (let c := { up with pwr.cfg := 0x10000000000000#64, sync.quietSince := some 0 }
     c.sync.quietSince = some 0 ∧ c.pwr.lend = 0 ∧ c.pwr.plAck = false ∧ c.pwr.cfg.getLsbD 52 = true ∧
       1000 * (c.pwr.cfg.toNat / 2 ^ 32 % 2 ^ 12) ≤ now c - max 0 c.pwr.offerFrom) ∧
    (let c := { up with pwr.plReq := true, pwr.lend := 1 }
     c.pwr.plReq = true ∧ c.pwr.lend = 1) ∧ ({ up with pwr.lend := 3 } : Chip).pwr.lend = 3 ∧ ({ up with pwr.lend := 2 } : Chip).pwr.lend = 2 ∧
    (let c := { up with pwr.reclaimFrom := some 0, pwr.plAck := true, time.count := 1000000 }
     c.pwr.reclaimFrom = some 0 ∧ c.pwr.plAck = true ∧ 1000 * (c.pwr.cfg.toNat / 2 ^ 44 % 2 ^ 8) ≤ now c - 0) := by decide +kernel
/-- A core in a phase whose BASE ramps until TIME 7. -/
def ramping (k : StartPhase) (n : Nat) : Chip := { inPhase k with pwr.ramp := some (baseRequest up), pwr.rampEnd := 7, time.count := n }

/-- A core in a phase whose BASE waits. -/
def waiting (k : StartPhase) (b : Bool) : Chip := { inPhase k with pwr.queue := [baseRequest (inPhase k)], pwr.uvNow := b }

theorem test_witness_PowerRows_base :
    (∀ k ∈ [StartPhase.cold 5, .warm 4], pwrRuns (waiting k false) = true ∧ isAwake (waiting k false) = false ∧ baseWaits (waiting k false) = true ∧
      baseRamps (waiting k false) = false ∧ baseFits (waiting k false) = true ∧ baseFits (waiting k true) = false ∧
      baseWaits (waiting k true) = true) ∧ (baseRequest up).unit = 0 ∧
    (∀ k ∈ [StartPhase.cold 5, .warm 4], (ramping k 7).pwr.ramp = some (baseRequest up) ∧ (ramping k 7).pwr.rampEnd ≤ now (ramping k 7) ∧
      (ramping k 7).core.phase = k ∧ isAwake (ramping k 6) = false ∧ (ramping k 6).pwr.ramp = some (baseRequest up) ∧
      now (ramping k 6) < (ramping k 6).pwr.rampEnd) ∧
    (let e := { ramping .running 7 with pwr.state := 1, pwr.waking := some 3 }
     isUp e = true ∧ e.pwr.ramp = some (baseRequest up) ∧ e.pwr.rampEnd ≤ now e ∧ e.pwr.state ≠ 0 ∧ e.pwr.waking = some 3) ∧
    (offerAmps up ≠ up.pwr.plAmt ∧ up.pwr.amtStable = true) := by decide +kernel
theorem test_witness_Starts : (inPhase .unpowered).core.phase = .unpowered ∧ State.reset.chip.core.phase = .powerOn ∧
    (inPhase .p3).core.phase = .p3 ∧ (inPhase (.cold 1)).core.phase = .cold 1 ∧ (inPhase .retry).core.phase = .retry ∧
    softRepairs ((inPhase (.cold 3)).lmem.repairs.map BitVec.toNat) ([] : List Nat) = some [] ∧
    softRepairs ((inPhase (.cold 3)).lmem.repairs.map BitVec.toNat) ([0x200#64, 0x10200#64, 0x20200#64, 0x30200#64, 0x40200#64].map BitVec.toNat) = none ∧
    (inPhase (.cold 3)).pwr.wakeCmds = [] ∧ up.wvm.hold = none ∧ ({ up with wvm.hold := some (0, 0) } : Chip).wvm.hold ≠ none ∧
    (up.pwr.state = 0 ∧ ({ up with pwr.state := 1 } : Chip).pwr.state ≠ 0) ∧
    (let c := { inPhase (.cold 4) with time.count := 500000 }
     c.core.phase = .cold 4 ∧ 500000 ≤ now c - c.core.stepFrom) ∧ up.core.phase ≠ .unpowered ∧ up.core.phase ≠ .p3 ∧
    up.core.phase ≠ .wrapper ∧
    up.core.retainV = false ∧ (inPhase (.warm 2)).core.phase = .warm 2 ∧ (2 = 1 ∨ (2 : Nat) = 2) ∧
    (let c (n : Nat) (uv : Bool) : Chip := { inPhase (.cold 4) with vec.stuck := n, pwr.uvNow := uv }
     let r (c : Chip) : Chip := deriveLat (coldReset c)
     tileOr (r (c 1 false)) ≠ 0 ∧ (tileOr (r (c 0 false)) = 0 ∧ baseFits (r (c 0 false)) = true) ∧
       (tileOr (r (c 0 true)) = 0 ∧ baseFits (r (c 0 true)) = false)) ∧
    (let c (n : Nat) (uv : Bool) : Chip := { inPhase (.warm 3) with vec.stuck := n, pwr.uvNow := uv }
     tileOr (warmReset (c 1 false)) ≠ 0 ∧ (tileOr (warmReset (c 0 false)) = 0 ∧ baseFits (warmReset (c 0 false)) = true) ∧
       (tileOr (warmReset (c 0 true)) = 0 ∧ baseFits (warmReset (c 0 true)) = false)) := by decide +kernel

theorem test_witness_TimeRows : (let c := { up with time.cfg := 1#64 }
     timeSrc c = 1 ∧ c.time.nextV = false ∧ ({ c with time.nextV := true } : Chip).time.nextV = true) ∧
    (let c := { up with time.lastMeas := some 0, time.lock := true, time.count := 20000000000 }
     c.time.lastMeas = some 0 ∧ c.time.lock = true ∧ holdoverMs c * 1000000 ≤ now c - 0) ∧ 65535 < 65536 ∧
    ((traceOf up up.time.sel).en = false ∧ (1#64).getLsbD 0 = true) ∧ (0#64).getLsbD 0 = false ∧
    (traceOf (updTrace up.time.sel (fun t => { t with cfg := 1#64 }) up) up.time.sel).en = true ∧
    (let c := updTrace 7 (fun t => { t with unacked := 1 }) up
     7 < 8 ∧ (traceOf c 7).unacked ≠ 0 ∧ (c.time.waiting.any fun w => w.1 == 7 && w.2.1 == (traceOf c 7).addr (traceOf c 7).tail) = false ∧
       ((c.outbox ++ c.tlk.waitReqs ++ c.hport.out).any fun q => q.who == .trace 7 && q.addr == (traceOf c 7).addr (traceOf c 7).tail) = false) := by
  decide +kernel
/-- SEQ, quiesced, its readback cursor at the first word of context 0. -/
def cursor : Chip := { up with pages := [(pSEQ, { PageHdr.reset with qreq := true })] }

theorem test_witness_PageRows : (19 < 20 ∧ 0xFFF8 < 0x10000 ∧ 0xFFF8 % 8 = 0) ∧
    (let c := { up with pwr.state := 1 }
     isUp c = true ∧ c.pwr.state ≠ 0 ∧ pageAlwaysOn pDMA = false) ∧
    ((rbInside cursor pSEQ).isSome = true ∧ quiesced cursor pSEQ = true ∧ rbWritable cursor pSEQ 0 0 0 = true) ∧ quiesced c0 pSEQ = false ∧
    rbInside (updPage pSEQ (fun h => { h with rbItem := 1024 }) up) pSEQ = none ∧
    (let c := { up with pages := [(pSEQ, { PageHdr.reset with fault := 3#20, first := 5 })], firsts := [pSEQ] }
     (pageOf up pSEQ).fault = 0#20 ∧ (pageOf c pSEQ).fault ≠ 0#20 ∧ pSEQ ∈ c.firsts ∧ pSEQ ∉ up.firsts ∧ pDMA ≠ pSEQ ∧
       (pageOf c pSEQ).fault &&& ~~~((3#64).setWidth 20) = 0#20 ∧ (pageOf c pSEQ).fault &&& ~~~((1#64).setWidth 20) ≠ 0#20) := by decide +kernel
theorem test_witness_WrapperRows : 255 < 256 ∧ 65535 < 65536 ∧ isUp up = true ∧ isAwake up = true ∧ wrapLive up = true ∧
    (∀ k ∈ [1, 2, 3], let c := { inPhase .wrapper with wrap.instr := k }
      c.core.phase = .wrapper ∧ (c.wrap.instr = 1 ∨ c.wrap.instr = 2 ∨ c.wrap.instr = 3)) ∧
    (let c := { up with wrap.instr := 0x10, wrap.mbistGo := true }
     c.wrap.instr = 0x10 ∧ c.wrap.mbistGo = true) ∧ ({ up with core.image := image } : Chip).core.image[0]? = some 0xAC2E1400#32 := by
  decide +kernel
theorem test_witness_InstructionFrame : (∃ f, formOf (.add (z false)) = some (z false, f) ∧ Issues (z false) f c0) ∧
    (∃ f, formOf (.cmpeq (z false)) = some (z false, f) ∧ Issues (z false) f c0) ∧ Calm c0 :=
  ⟨issues_of_canFire (i := .add) (by decide +kernel), issues_of_canFire (i := .cmpeq) (by decide +kernel), calm_c0⟩

/-- ST of eight bytes of s9 at s3. -/
def stOp : SeqOp := ⟨0, false, 0#3, false, 9#5, 3#5, 0x300000000#40⟩

/-- A context whose s3 holds the last eight bytes of LMEM. -/
def atTop : Chip := ctx 0 { ready with regs := [(3, 0xFFFFF0000BFFFFF8#64), (9, 0x0102030405060708#64)] }

theorem calm_atTop : Calm atTop :=
  { running := by rfl, p0 := by rfl, outbox := by rfl, waiting := by rfl, held := by rfl, signals := by rfl, proxies := by rfl
    events := by rfl, firsts := by rfl, records := by rfl, acks := (fun _ h => nomatch h), credits := by rfl, responses := by rfl
    warm := by rfl, detach := by rfl, journals := by rfl, sequencer := by rfl, quiet := by rfl
    gates := fun u => by unfold unitKept; split <;> rfl
    moves := (fun _ h => nomatch h), latch := (fun h => nomatch h)
    rings := fun _ h => nomatch h
    contexts := by decide +kernel
    canonical := by decide +kernel
    busy := ⟨(0, ctxOf atTop 0), by decide +kernel, by rfl⟩
    lend := by decide +kernel }
theorem test_witness_StoreFrame : (∃ f, formOf (.st stOp) = some (stOp, f) ∧ Issues stOp f atTop) ∧ Calm atTop ∧
    (atTop.lmem.ecc = [] ∧ lsAddr stOp (ctxOf atTop 0) % 2 ^ opSize stOp = 0 ∧ isSelf atTop (lsAddr stOp (ctxOf atTop 0)) = true ∧
      regionOf (offOf (lsAddr stOp (ctxOf atTop 0))) (2 ^ opSize stOp) = some .lmem ∧
      mappedRange atTop true (offOf (lsAddr stOp (ctxOf atTop 0))) (2 ^ opSize stOp) = true ∧ opSize stOp = 3) :=
  ⟨issues_of_canFire (i := .st) (by decide +kernel), calm_atTop, by decide +kernel⟩
theorem test_witness_RegisterWriteFrame : Calm c0 := calm_c0
theorem test_witness_OnlyWakeInP3 : (inPhase .p3).core.phase = .p3 ∧ Instr.overvoltage ∉ [Instr.wakeN, .powerLoss, .plAckRise, .plAckFall,
    .uvRecover, .twWrstn, .railOutOfBand 1, .railOutOfBand 2] ∧ (inPhase .p3).wrap.mbistGo = false := by decide +kernel
theorem test_witness_EveryStepSettles : ∃ t, step ⟨c0, [.icacheFlush]⟩ = .next t ∧ isAwake t.chip = true := ⟨_, by rfl, by decide +kernel⟩
theorem test_witness_SequencerWords : Instr.wf (.movi (z true)) = true ∧ seqEncode (.movi (z true)) = some 0x1F80000000000000#64 ∧
    seqDecode 0 0x1F80000000000000#64 = some (.movi (z true)) := by decide +kernel

end Sys2Proof.Tests
end

section
/-! SUPPORT. The guard of an instruction (R112). -/

namespace Sys2Proof.Machine

/-- An instruction that can issue, with legal fields and a false guard, moves its context on and does nothing else. -/
theorem seqIssue_of_guard_false {o : SeqOp} {f : SeqForm} {g : Ctx → Chip → Chip} {c : Chip} (hcan : canIssue c o.ctx = true)
    (hpc : pcFault (ctxOf c o.ctx).pc = none) (hlegal : f.legal = true) (hguard : guardOn o (ctxOf c o.ctx) = false) :
    seqIssue o f g c = stepPast o.ctx id (issued o.ctx c) := by
  simp [seqIssue, hcan, hpc, hlegal, hguard]

/-- A guard is true when its predicate differs from GN. -/
theorem guardOn_iff (o : SeqOp) (x : Ctx) : guardOn o x = true ↔
    (x.pred o.gp.toNat = true ∧ o.gn = false) ∨ (x.pred o.gp.toNat = false ∧ o.gn = true) := by
  unfold guardOn
  cases x.pred o.gp.toNat <;> cases o.gn <;> decide

@[simp] theorem pred_zero (x : Ctx) : x.pred 0 = true := rfl

/-- A guard on p0, which reads true, is GN alone. -/
theorem guardOn_p0_iff {o : SeqOp} (x : Ctx) (hgp : o.gp = 0#3) : guardOn o x = true ↔ o.gn = false := by
  simp [guardOn_iff, hgp]

/-- Settles O6: every sequencer instruction goes through `seqIssue`, which does not reach the operation's own effect when the
guard is false. -/
theorem falseGuardOnlyAdvances : Obligations.FalseGuardOnlyAdvances := by
  unfold Obligations.FalseGuardOnlyAdvances
  refine ⟨fun i o f hform s hcan hpc hlegal hguard => ?_, guardOn_iff, fun o x => guardOn_p0_iff x⟩
  obtain ⟨g, hexec⟩ := exec_issues hform
  have hissue : seqIssue o f g s.chip = stepPast o.ctx id (issued o.ctx s.chip) :=
    seqIssue_of_guard_false hcan hpc hlegal hguard
  unfold Answers
  rw [hexec s, run_eq (awake_defined (canIssue_awake hcan)), hissue]
  rfl

end Sys2Proof.Machine
end

section
/-! SUPPORT. The release of the sequencer at the end of a start (R94): a start's record and the way to the operating point leave
SEQ and CORE as they are. -/

namespace Sys2Proof.Machine

/-! ## What requests to the drogue leave alone -/

theorem reclaim_keeps (c : Chip) : (reclaim c).seq = c.seq ∧ (reclaim c).core = c.core := by
  unfold reclaim
  split <;> exact ⟨rfl, rfl⟩

theorem noteDeferred_keeps (u : Nat) (c : Chip) : (noteDeferred u c).seq = c.seq ∧ (noteDeferred u c).core = c.core := by
  unfold noteDeferred
  split <;> exact ⟨rfl, rfl⟩

theorem drogueAdmit_keeps (c : Chip) : (drogueAdmit c).seq = c.seq ∧ (drogueAdmit c).core = c.core := by
  unfold drogueAdmit
  split
  case h_1 => exact ⟨rfl, rfl⟩
  case h_2 =>
    split
    · exact reclaim_keeps c
    · exact ⟨rfl, rfl⟩

theorem addRequest_keeps (u : Nat) (c : Chip) : (addRequest u c).seq = c.seq ∧ (addRequest u c).core = c.core := by
  obtain ⟨hseq, hcore⟩ := drogueAdmit_keeps { c with pwr.queue := c.pwr.queue ++ [newRequest u c] }
  unfold addRequest
  dsimp only
  split
  · exact ⟨hseq, hcore⟩
  · exact ⟨(noteDeferred_keeps ..).1.trans hseq, (noteDeferred_keeps ..).2.trans hcore⟩

theorem requestUnit_keeps (u : Nat) (c : Chip) : (requestUnit u c).seq = c.seq ∧ (requestUnit u c).core = c.core := by
  unfold requestUnit
  split
  · exact ⟨rfl, rfl⟩
  · exact addRequest_keeps u c

theorem dvfsGo_keeps (c : Chip) : (dvfsGo c).seq = c.seq ∧ (dvfsGo c).core = c.core := by
  unfold dvfsGo
  split
  · exact ⟨rfl, rfl⟩
  split
  · exact ⟨rfl, rfl⟩
  split
  · exact requestUnit_keeps 12 { c with pwr.busy := true }
  · exact ⟨rfl, rfl⟩

/-! ## The end of a start -/

@[simp] theorem startDone_seq (c : Chip) : (startDone c).seq = c.seq := rfl
@[simp] theorem startDone_phase (c : Chip) : (startDone c).core.phase = .running := rfl

theorem startOver_seq (c : Chip) : (startOver c).seq = (releaseSeq c).seq := (dvfsGo_keeps _).1
theorem startOver_phase (c : Chip) : (startOver c).core.phase = .running := by
  unfold startOver
  rw [(dvfsGo_keeps _).2, startDone_phase]

theorem coldOver_seq (c : Chip) : (coldOver c).seq = (releaseSeq c).seq :=
  startOver_seq { c with core.retainV := true }
theorem coldOver_phase (c : Chip) : (coldOver c).core.phase = .running :=
  startOver_phase { c with core.retainV := true }

/-- A warm start and a cold one release the sequencer alike. -/
theorem startGoes_seq (c : Chip) : (startGoes c).seq = (releaseSeq c).seq := by
  unfold startGoes
  split
  · exact startOver_seq c
  · exact coldOver_seq c

theorem startGoes_isUp (c : Chip) : isUp (startGoes c) = true := by
  rw [isUp_iff]
  unfold startGoes
  split
  · exact startOver_phase c
  · exact coldOver_phase c

/-- Context 0 as the release leaves it. -/
def releasedCtx (c : Chip) : Ctx := { Ctx.idle with pc := c.seq.bootPc, st := .ready }

theorem ctxOf_startGoes (c : Chip) (n : Nat) : ctxOf (startGoes c) n = if n = 0 then releasedCtx c else Ctx.idle := by
  have hread : ctxOf (startGoes c) n = SMap.get .idle (SMap.set .idle [] 0 (releasedCtx c)) n := by
    unfold ctxOf
    rw [startGoes_seq]
    rfl
  rw [hread]
  split
  case isTrue h => rw [h, SMap.get_set_same]
  case isFalse h => rw [SMap.get_set_other _ _ _ h, SMap.get_nil]

/-- Nothing is left in a context's registers, predicates, staging words and FIFO. -/
def Ctx.Blank (x : Ctx) : Prop :=
  (∀ r, x.reg r = 0#64) ∧ (∀ p, p ≠ 0 → x.pred p = false) ∧ (∀ i, SMap.get 0#64 x.staging i = 0#64) ∧ x.sums = []

/-- A context whose fields for them are those of a FREE one is blank. -/
theorem Ctx.blank_of {x : Ctx} (hregs : x.regs = []) (hpreds : x.preds = 0#8) (hstaging : x.staging = []) (hsums : x.sums = []) :
    x.Blank :=
  ⟨fun r => by simp [Ctx.reg, hregs], fun p hp => by simp [Ctx.pred, hp, hpreds], fun i => by rw [hstaging, SMap.get_nil], hsums⟩

theorem blank_startGoes (c : Chip) (n : Nat) : (ctxOf (startGoes c) n).Blank := by
  rw [ctxOf_startGoes]
  split <;> exact Ctx.blank_of rfl rfl rfl rfl

/-- Settles O20: after the release SEQ lists context 0 alone, and what follows in the start leaves SEQ and the phase. -/
theorem releasedContexts : Obligations.ReleasedContexts := by
  unfold Obligations.ReleasedContexts
  intro c
  have hzero : ctxOf (startGoes c) 0 = releasedCtx c := ctxOf_startGoes c 0
  have hother (n : Nat) (hn : n ≠ 0) : ctxOf (startGoes c) n = Ctx.idle := by rw [ctxOf_startGoes, if_neg hn]
  refine ⟨startGoes_isUp c, ?_, ?_, fun n hn => ?_, blank_startGoes c⟩
  · rw [hzero]; rfl
  · rw [hzero]; rfl
  · rw [hother n hn]; rfl

end Sys2Proof.Machine
end

section
/-! SUPPORT. The configuration of a ring (R127, R128): what writes of RING_CFG and RING_BASE leave in the selected ring. -/

namespace Sys2Proof.Machine

theorem Ring.locked_iff (r : Ring) : r.locked = true ↔ r.en = true ∨ r.head ≠ r.tail := by
  simp [Ring.locked]

theorem Ring.not_locked {r : Ring} (hen : r.en = false) (hempty : r.head = r.tail) : r.locked = false := by
  simp [Ring.locked, hen, hempty]

/-! ## RING_CFG -/

/-- A ring with the lockable fields that a RING_CFG value asks for (Table 5.10). -/
def Ring.asked (v : W64) (r : Ring) : Ring := { r with
  hostfed := v.getLsbD 1, prio := v.getLsbD 2, cls := v.toNat / 2 ^ 4 % 2 ^ 4, log2 := v.toNat / 2 ^ 8 % 2 ^ 5 }

/-- What a RING_CFG write makes of the lockable fields: it sets them, or keeps them all and notes a refused change (R128). -/
def Ring.configured (v : W64) (r : Ring) : Ring :=
  if r.en = true ∨ r.head ≠ r.tail then { r with cfgErr := r.cfgErr || decide (r.asked v ≠ r) } else r.asked v

/-- What a RING_CFG write then makes of EN: it is written, but one that would rise for a ring that cannot be bound (R127). -/
def Ring.withEn (c : Chip) (b : Bool) (was : Bool) (r : Ring) : Ring :=
  if b = true ∧ was = false then
    (if Ring.bindable c r = true then { r with en := true, abandoned := false } else { r with cfgErr := true })
  else { r with en := b }

/-- The lockable fields as the model computes them. -/
theorem Ring.configured_eq (v : W64) (r : Ring) : r.configured v =
    if r.locked then { r with cfgErr := r.cfgErr || (r.locked && decide (r.asked v ≠ r)) } else r.asked v := by
  unfold Ring.configured
  by_cases hlocked : r.locked = true
  · rw [if_pos (r.locked_iff.mp hlocked), if_pos hlocked, hlocked, Bool.true_and]
  · rw [if_neg (mt r.locked_iff.mpr hlocked), if_neg hlocked]

/-- A write of RING_CFG changes the selected ring only: its lockable fields first, then EN. -/
theorem ringCfgWrite_eq (v : W64) {c : Chip} (hsel : c.ring.sel < Config.rings) :
    ringCfgWrite v c = updRing c.ring.sel (fun r => (r.configured v).withEn c (v.getLsbD 0) r.en) c := by
  have hfields : ({ ringOf c c.ring.sel with
      hostfed := bitAt v 1, prio := bitAt v 2, cls := fld v 4 4, log2 := fld v 8 5 } : Ring) =
      (ringOf c c.ring.sel).asked v := by
    rw [fld_eq, fld_eq]; rfl
  unfold ringCfgWrite updRing
  dsimp only
  rw [if_neg (Nat.not_le.mpr hsel), hfields, ← Ring.configured_eq]
  simp only [Ring.withEn, Bool.and_eq_true, Bool.not_eq_true']
  rfl

/-- EN rises for a ring that can be bound. -/
theorem Ring.withEn_bound {c : Chip} {r : Ring} (h : Ring.bindable c r = true) :
    r.withEn c true false = { r with en := true, abandoned := false } := by
  simp [Ring.withEn, h]

/-- EN is refused for a ring that cannot be bound. -/
theorem Ring.withEn_refused {c : Chip} {r : Ring} (h : Ring.bindable c r = false) :
    r.withEn c true false = { r with cfgErr := true } := by
  simp [Ring.withEn, h]

/-- EN that does not rise is written. -/
theorem Ring.withEn_plain (c : Chip) {b was : Bool} (r : Ring) (h : b = false ∨ was = true) :
    r.withEn c b was = { r with en := b } := by
  refine if_neg fun ⟨hb, hwas⟩ => ?_
  rcases h with h | h
  · exact Bool.false_ne_true (h.symm.trans hb)
  · exact Bool.false_ne_true (hwas.symm.trans h)

/-- A RING_CFG write with a ring selected, where a condition on the core and that ring holds. -/
theorem acts_ringCfgWrite {v : W64} (p : Chip → Ring → Prop) (f : Ring → Ring)
    (h : ∀ c r, p c r → (r.configured v).withEn c (v.getLsbD 0) r.en = f r) :
    Acts (.ringCfgWrite v) (fun c => c.ring.sel < Config.rings ∧ p c (ringOf c c.ring.sel)) (fun c => updRing c.ring.sel f c) := by
  refine acts_regWrite (fun _ => rfl) fun c ⟨hsel, hp⟩ => ?_
  rw [ringCfgWrite_eq v hsel]
  exact congrArg (fun r => setRing c.ring.sel r c) (h c _ hp)

theorem ringCfgWrite_binds (v : W64) : Acts (.ringCfgWrite v)
    (fun c => c.ring.sel < Config.rings ∧ v.getLsbD 0 = true ∧ (ringOf c c.ring.sel).en = false ∧
      Ring.bindable c ((ringOf c c.ring.sel).configured v) = true)
    (fun c => updRing c.ring.sel (fun r => { r.configured v with en := true, abandoned := false }) c) := by
  refine acts_ringCfgWrite (fun c r => v.getLsbD 0 = true ∧ r.en = false ∧ Ring.bindable c (r.configured v) = true) _
    fun c r ⟨hbit, hen, hbind⟩ => ?_
  rw [hbit, hen, Ring.withEn_bound hbind]

theorem ringCfgWrite_refuses_en (v : W64) : Acts (.ringCfgWrite v)
    (fun c => c.ring.sel < Config.rings ∧ v.getLsbD 0 = true ∧ (ringOf c c.ring.sel).en = false ∧
      Ring.bindable c ((ringOf c c.ring.sel).configured v) = false)
    (fun c => updRing c.ring.sel (fun r => { r.configured v with cfgErr := true }) c) := by
  refine acts_ringCfgWrite (fun c r => v.getLsbD 0 = true ∧ r.en = false ∧ Ring.bindable c (r.configured v) = false) _
    fun c r ⟨hbit, hen, hbind⟩ => ?_
  rw [hbit, hen, Ring.withEn_refused hbind]

theorem ringCfgWrite_writes_en (v : W64) : Acts (.ringCfgWrite v)
    (fun c => c.ring.sel < Config.rings ∧ (v.getLsbD 0 = false ∨ (ringOf c c.ring.sel).en = true))
    (fun c => updRing c.ring.sel (fun r => { r.configured v with en := v.getLsbD 0 }) c) :=
  acts_ringCfgWrite (fun _ r => v.getLsbD 0 = false ∨ r.en = true) _ fun c _ h => Ring.withEn_plain c _ h

/-! ## RING_BASE -/

/-- Bits 5 to 0 cleared leave the multiple of 64 at or below a value (Table 5.9). -/
theorem toNat_and_not_63 (v : W64) : (v &&& ~~~(63#64)).toNat = v.toNat / 64 * 64 := by
  have hbits (i : Nat) : (63#64).getLsbD i = decide (i < 6) := by
    rw [BitVec.getLsbD_ofNat, Nat.testBit_two_pow_sub_one 6 i]
    by_cases hi : i < 6
    · simp [hi, Nat.lt_trans hi]
    · simp [hi]
  have hshift : v &&& ~~~(63#64) = (v >>> 6) <<< 6 := by
    refine BitVec.eq_of_getLsbD_eq fun i hi => ?_
    rw [BitVec.getLsbD_and, BitVec.getLsbD_not, hbits, BitVec.getLsbD_shiftLeft, BitVec.getLsbD_ushiftRight]
    by_cases hlow : i < 6
    · simp [hlow]
    · simp [hlow, hi, Nat.add_sub_cancel' (Nat.le_of_not_lt hlow)]
  rw [hshift, BitVec.toNat_shiftLeft, BitVec.toNat_ushiftRight, Nat.shiftLeft_eq, Nat.shiftRight_eq_div_pow]
  omega

/-- A RING_BASE write with a ring selected: locked, the base stays, and a change is noted (R128). -/
theorem ringBaseWrite_eq (v : W64) {c : Chip} (hsel : c.ring.sel < Config.rings) : ringBaseWrite v c =
    if (ringOf c c.ring.sel).locked = true then
      (if v.toNat / 64 * 64 = (ringOf c c.ring.sel).base then c
        else updRing c.ring.sel (fun r => { r with cfgErr := true }) c)
    else updRing c.ring.sel (fun r => { r with base := v.toNat / 64 * 64 }) c := by
  unfold ringBaseWrite
  dsimp only
  rw [if_neg (Nat.not_le.mpr hsel), toNat_and_not_63]
  rfl

theorem ringBaseWrite_unlocked (v : W64) {c : Chip} (hsel : c.ring.sel < Config.rings)
    (h : (ringOf c c.ring.sel).locked = false) :
    ringBaseWrite v c = updRing c.ring.sel (fun r => { r with base := v.toNat / 64 * 64 }) c := by
  rw [ringBaseWrite_eq v hsel, if_neg (Bool.eq_false_iff.mp h)]

theorem ringBaseWrite_refused (v : W64) {c : Chip} (hsel : c.ring.sel < Config.rings)
    (h : (ringOf c c.ring.sel).locked = true) (hne : v.toNat / 64 * 64 ≠ (ringOf c c.ring.sel).base) :
    ringBaseWrite v c = updRing c.ring.sel (fun r => { r with cfgErr := true }) c := by
  rw [ringBaseWrite_eq v hsel, if_pos h, if_neg hne]

theorem ringBaseWrite_same (v : W64) {c : Chip} (hsel : c.ring.sel < Config.rings)
    (h : (ringOf c c.ring.sel).locked = true) (heq : v.toNat / 64 * 64 = (ringOf c c.ring.sel).base) :
    ringBaseWrite v c = c := by
  rw [ringBaseWrite_eq v hsel, if_pos h, if_pos heq]

/-- Settles O23: a write of RING_CFG passes the lock of the other fields first and then, whatever came of that, acts on EN; one of
RING_BASE passes the same lock. -/
theorem ringConfiguration : Obligations.RingConfiguration := by
  unfold Obligations.RingConfiguration
  refine ⟨fun v => ⟨ringCfgWrite_binds v, ringCfgWrite_refuses_en v, ringCfgWrite_writes_en v⟩, fun v => ⟨?unlocked, ?refused, ?same⟩⟩
  case unlocked =>
    exact acts_regWrite (fun _ => rfl) fun c ⟨hsel, hen, hempty⟩ =>
      ringBaseWrite_unlocked v hsel (Ring.not_locked hen hempty)
  case refused =>
    exact acts_regWrite (fun _ => rfl) fun c ⟨hsel, hlocked, hne⟩ =>
      ringBaseWrite_refused v hsel ((Ring.locked_iff _).mpr hlocked) hne
  case same =>
    exact acts_regWrite (fun _ => rfl) fun c ⟨hsel, hlocked, heq⟩ =>
      ringBaseWrite_same v hsel ((Ring.locked_iff _).mpr hlocked) heq

end Sys2Proof.Machine
end

section
/-! SUPPORT. Counters that saturate (R161): a signal past the largest value is a recorded saturation, and what that leaves. -/

namespace Sys2Proof.Machine

/-! ## The fault bits of a page -/

theorem Cause.bit_lt (k : Cause) : k.bit < 20 := by
  cases k <;> decide

/-- The fault bits of a page gain the bit of the cause recorded there, and lose none (R481). -/
@[simp] theorem pageOf_pageFault_fault (p : Nat) (k : Cause) (c : Chip) :
    (pageOf (pageFault p k c) p).fault = (pageOf c p).fault ||| (1#20 <<< k.bit) := by
  unfold pageFault recordFault
  exact congrArg PageHdr.fault (SMap.get_set_same _ _ c.pages p)

theorem pageFault_raises (p : Nat) (k : Cause) (c : Chip) : (pageOf (pageFault p k c) p).fault.getLsbD k.bit = true := by
  rw [pageOf_pageFault_fault, BitVec.getLsbD_or, BitVec.getLsbD_shiftLeft]
  simp [k.bit_lt]

/-! ## Recording a saturation -/

@[simp] theorem watchCross_seq (p old new : Nat) (c : Chip) : (watchCross p old new c).seq = c.seq := rfl
@[simp] theorem watchCross_ring (p old new : Nat) (c : Chip) : (watchCross p old new c).ring = c.ring := rfl

@[simp] theorem recordSat_satV (p : Nat) (c : Chip) : (recordSat p c).sync.satV = true := rfl
@[simp] theorem recordSat_satCtr (p : Nat) (c : Chip) :
    (recordSat p c).sync.satCtr = if c.sync.satV then c.sync.satCtr else p := rfl
@[simp] theorem recordSat_seq (p : Nat) (c : Chip) : (recordSat p c).seq = c.seq := rfl
@[simp] theorem recordSat_ring (p : Nat) (c : Chip) : (recordSat p c).ring = c.ring := rfl

theorem recordSat_raises (p : Nat) (c : Chip) : (pageOf (recordSat p c) pSYNC).fault.getLsbD 8 = true :=
  pageFault_raises pSYNC .ctrSat _

/-! ## A signal past the largest value -/

/-- Past the largest value, a signal sets the counter to it, tells the watches, and then records the saturation. -/
theorem addCounter_past_max {c : Chip} {p inc : Nat} (hgood : (ctrOf c p).poisoned = false) (hinc : 0 < inc)
    (hpast : ctrMax < (ctrOf c p).value + inc) : addCounter p inc c =
      recordSat p (emit 0x02 pSYNC (pack [(0, 16, p), (16, 16, inc)]) (BitVec.ofNat 64 ctrMax)
        (watchCross p (ctrOf c p).value ctrMax (setCtr p ⟨ctrMax, false⟩ c))) := by
  have hacts : ¬ (inc = 0 ∨ (ctrOf c p).poisoned = true) := by simp [hgood, Nat.ne_of_gt hinc]
  unfold addCounter
  dsimp only
  rw [if_neg hacts, if_pos hpast, Nat.min_eq_right (Nat.le_of_lt hpast)]

/-- Settles O27: a signal past the largest value is a recorded saturation of the counter at that value, whether the counter stood
below it or at it. -/
theorem countersSaturate : Obligations.CountersSaturate := by
  unfold Obligations.CountersSaturate
  intro c p inc hgood hinc hpast
  have hmax : ctrMax = 0xFFFFFFFFFFFF := rfl
  have hvalue : ctrOf (addCounter p inc c) p = ⟨0xFFFFFFFFFFFF, false⟩ := by
    rw [addCounter_value c p inc hgood hinc, hmax, Nat.min_eq_right (Nat.le_of_lt hpast)]
  refine ⟨hvalue, ?_⟩
  rw [addCounter_past_max hgood hinc hpast]
  refine ⟨recordSat_raises p _, recordSat_satV p _, recordSat_satCtr p _, ?seq, ?ring⟩
  case seq => simp
  case ring => simp

end Sys2Proof.Machine
end

section
/-! SUPPORT. What every step leaves of the contexts (R96, R97, R168, R179): settling ends by stopping, ending and releasing every
context for which it is time, and every step ends by settling. -/

namespace Sys2Proof.Machine

/-! ## A sleeping core stays asleep -/

@[simp] theorem reclaim_pwr_state (c : Chip) : (reclaim c).pwr.state = c.pwr.state := by
  unfold reclaim
  split <;> rfl

theorem isAwake_congr {c d : Chip} (hcore : d.core = c.core) (hstate : d.pwr.state = c.pwr.state) : isAwake d = isAwake c := by
  simp only [isAwake, isUp, hcore, hstate]

/-- Asking for a wake changes neither the phase nor the power state. -/
theorem beginWake_keeps (row : Nat) (c : Chip) : (beginWake row c).core = c.core ∧ (beginWake row c).pwr.state = c.pwr.state := by
  have hreclaim : (reclaim c).core = c.core ∧ (reclaim c).pwr.state = c.pwr.state := ⟨(reclaim_keeps c).2, reclaim_pwr_state c⟩
  unfold beginWake
  split
  case isFalse => exact ⟨rfl, rfl⟩
  case isTrue =>
    by_cases hrow : 1 ≤ row ∧ row ≤ 3
    · simp only [if_pos hrow]
      split <;> exact hreclaim
    · simp only [if_neg hrow]
      split <;> exact ⟨rfl, rfl⟩

theorem isAwake_beginWake (row : Nat) (c : Chip) : isAwake (beginWake row c) = isAwake c :=
  isAwake_congr (beginWake_keeps row c).1 (beginWake_keeps row c).2

/-- A core is in P0 after its contexts have settled only if it was before, and then every context that it lists is settled. -/
theorem settleCtxs_of_awake {c : Chip} (h : isAwake (settleCtxs c) = true) : settleCtxs c = wakeAll c := by
  unfold settleCtxs at h ⊢
  cases hc : isAwake c with
  | true => rfl
  | false =>
    rw [hc] at h
    cases hrow : releaseDue c with
    | none => simp [hrow, hc] at h
    | some row => simp [hrow, isAwake_beginWake, hc] at h

/-! ## Settling settles -/

/-- Every context of a core is settled, and their table is in its canonical form. -/
def CtxsSettled (c : Chip) : Prop := SMap.wf Ctx.idle c.seq.ctxs = true ∧ ∀ p ∈ c.seq.ctxs, p.2.Settled c

theorem wakeAll_settles (c : Chip) : CtxsSettled (wakeAll c) := by
  refine ⟨SMap.wf_mapVal _ _ _, fun p hp => ?_⟩
  obtain ⟨x, -, hx⟩ := SMap.mem_mapVal _ _ _ hp
  rw [hx]
  exact settled_congr (settled_release c x) rfl rfl rfl rfl rfl

theorem CtxsSettled.noteQuiet {c : Chip} (h : CtxsSettled c) : CtxsSettled (noteQuiet c) := by
  obtain ⟨hctrs, hheld, hlines, hring, hpages, hseq, -, -⟩ := noteQuiet_keeps c
  unfold CtxsSettled
  rw [hseq]
  exact ⟨h.1, fun p hp => settled_congr (h.2 p hp) hctrs hheld hlines hring hpages⟩

/-- Whatever a command leaves, what follows leaves every context settled in P0. -/
theorem settle_settles {c : Chip} (h : isAwake (settle c) = true) : CtxsSettled (settle c) := by
  unfold settle settleLast at h ⊢
  cases hup : isUp (settleFirst c) with
  | false =>
    rw [hup] at h
    exact absurd (awake_up h) (by simp [hup])
  | true =>
    rw [hup, if_pos rfl] at h
    obtain ⟨-, -, -, -, -, -, hcore, hstate⟩ := noteQuiet_keeps (settleCtxs (settleFirst c))
    rw [if_pos rfl, settleCtxs_of_awake ((isAwake_congr hcore hstate).symm.trans h)]
    exact (wakeAll_settles _).noteQuiet

/-- A tick that leaves the core outside P0 puts nothing on the queue. -/
theorem tick_asleep {c : Chip} (h : isAwake (timePasses c) = false) :
    tick c = ([], if isUp (timePasses c) then settle (timePasses c) else timePasses c) := by
  unfold tick
  exact if_neg (by rw [h]; decide)

/-- A tick ends by settling wherever the core is up. -/
theorem tick_eq_settle {c : Chip} (h : isUp (timePasses c) = true) : ∃ d, (tick c).2 = settle d := by
  cases hawake : isAwake (timePasses c) with
  | false => exact ⟨timePasses c, by rw [tick_asleep hawake, if_pos h]⟩
  | true =>
    refine ⟨(fetchPipes (rangeFrom 0 Config.pipes) (countCycles (now c) (timePasses c))).2, ?_⟩
    simp only [tick, hawake, if_true]

theorem tick_settles {c : Chip} (h : isAwake (tick c).2 = true) : CtxsSettled (tick c).2 := by
  cases hup : isUp (timePasses c) with
  | true =>
    obtain ⟨d, hd⟩ := tick_eq_settle hup
    rw [hd] at h ⊢
    exact settle_settles h
  | false =>
    have hawake : isAwake (timePasses c) = false := by simp [isAwake, hup]
    rw [tick_asleep hawake, hup] at h
    exact absurd (hawake.symm.trans h) (by decide)

/-- Settles O57: a step is a command's effect or a tick, each of which ends by settling. -/
theorem everyStepSettles : Obligations.EveryStepSettles := by
  unfold Obligations.EveryStepSettles
  rintro ⟨c, queue⟩ t hstep hawake
  cases queue with
  | nil =>
    obtain rfl := Host.Outcome.next.inj hstep
    exact tick_settles hawake
  | cons i rest =>
    obtain ⟨d, rfl⟩ := exec_shaped i ⟨c, rest⟩ t hstep
    exact settle_settles hawake

/-- Settles O58: reset lists context 0 alone, READY with nothing to wait for, and requests no quiescence. -/
theorem settledAtReset : Obligations.SettledAtReset := by
  unfold Obligations.SettledAtReset
  have hctxs : State.reset.chip.seq.ctxs = [(0, { Ctx.idle with st := .ready })] := rfl
  have hwf : SMap.wf Ctx.idle State.reset.chip.seq.ctxs = true := by decide
  have hall : ∀ p ∈ State.reset.chip.seq.ctxs, p.2.Settled State.reset.chip := by
    intro p hp
    rw [hctxs, List.mem_singleton] at hp
    subst hp
    exact ⟨rfl, fun h => absurd h (by decide), fun h => absurd h (by decide), fun h => absurd h (by decide)⟩
  exact ⟨fun _ => ⟨hwf, hall⟩, hwf, hall⟩

end Sys2Proof.Machine
end

section
/-! SUPPORT. Words of the sequencer (Tables 4.6 and 4.7): an instruction and its word determine each other. -/

namespace Sys2Proof.Machine

/-- The instruction of a class and an operation has that code, with CLASS 1 of the operations of class ALU for ALUI. -/
theorem famInstr_code {cls op : Nat} {o : SeqOp} {i : Instr} (h : famInstr cls op o = some i) (halui : o.alui = (cls == 1)) :
    (formOf i).map Prod.fst = some o ∧ seqCode i = some (cls, op) := by
  unfold famInstr at h
  split at h
  case h_1 => simpa [halui, b2n] using alu_code h
  case h_2 => simpa [halui, b2n] using alu_code h
  case h_3 => exact ls_code h
  case h_4 => exact br_code h
  case h_5 => exact ring_code h
  case h_6 => exact sync_code h
  case h_7 => exact sum_code h
  case h_8 => exact sys_code h
  case h_9 => exact absurd h (by simp)

/-- The operands that a word holds for a context (Table 4.6). -/
def operandsOf (n : Nat) (w : W64) : SeqOp :=
  { ctx := n, alui := fld w 60 4 == 1, gp := BitVec.ofNat 3 (fld w 51 3), gn := bitAt w 50
    rd := BitVec.ofNat 5 (fld w 45 5), ra := BitVec.ofNat 5 (fld w 40 5), low := BitVec.ofNat 40 (fld w 0 40) }

theorem seqDecode_eq (n : Nat) (w : W64) : seqDecode n w = famInstr (fld w 60 4) (fld w 54 6) (operandsOf n w) := rfl

/-- Settles O60: the code and the operands of the decoded instruction are the fields of the word, and they are all of it. -/
theorem sequencerWordsKeepEveryBit : Obligations.SequencerWordsKeepEveryBit := by
  unfold Obligations.SequencerWordsKeepEveryBit
  intro n w i hdecode
  rw [seqDecode_eq] at hdecode
  rw [enc_of (famInstr_code hdecode rfl)]
  exact congrArg some (word_fields w _ n)

/-! ## Well-formed instructions -/

/-- An instruction with operands `o` is the one that some CLASS and OP spell with them. -/
def Spelled (i : Instr) (o : SeqOp) : Prop :=
  ∃ cls op, seqCode i = some (cls, op) ∧ cls < 16 ∧ op < 64 ∧ o.alui = (cls == 1) ∧ famInstr cls op o = some i

theorem spelled_alu {i : Instr} {o : SeqOp} {op : Nat} (hcode : seqCode i = some (b2n o.alui, op)) (hop : op < 64)
    (hi : aluInstr op o = some i) : Spelled i o := by
  cases halui : o.alui with
  | false => exact ⟨0, op, by rw [hcode, halui]; rfl, by decide, hop, halui, hi⟩
  | true => exact ⟨1, op, by rw [hcode, halui]; rfl, by decide, hop, halui, hi⟩

theorem spelled_other {i : Instr} {o : SeqOp} {cls op : Nat} (hwf : o.wf false = true) (hcode : seqCode i = some (cls, op))
    (hcls : 2 ≤ cls ∧ cls < 16) (hop : op < 64) (hi : famInstr cls op o = some i) : Spelled i o :=
  ⟨cls, op, hcode, hcls.2, hop, by rw [alui_false hwf, eq_comm, beq_eq_false_iff_ne]; omega, hi⟩

/-- A FENCE is spelled with the FK of its kind. -/
theorem spelled_fence {i : Instr} {o : SeqOp} {k : Nat} (hwf : o.wf false = true ∧ o.low.toNat / 2 ^ 13 % 4 = k)
    (hcode : seqCode i = some (5, 5)) (hi : opFk o = k → syncInstr 5 o = some i) : Spelled i o :=
  spelled_other hwf.1 hcode (by decide) (by decide) (hi ((bits_eq _ 13 2).trans hwf.2))

theorem spelled_of_wf {i : Instr} {o : SeqOp} {f : SeqForm} (hwf : Instr.wf i = true) (hform : formOf i = some (o, f)) :
    Spelled i o := by
  have operands {p : SeqOp} {k : SeqForm} (h : formOf i = some (p, k)) : p = o :=
    congrArg Prod.fst (Option.some.inj (h.symm.trans hform))
  cases i
  case add p | sub p | mul p | mulhu p | mulhs p | divu p | divs p | remu p | rems p | and p | or p | xor p | andn p | shl p |
    shr p | sar p | rol p | min p | max p | minu p | maxu p | clz p | ctz p | popc p | sel p | madd p | bfx p | bfi p |
    cmpeq p | cmpne p | cmplt p | cmple p | cmpltu p | cmpleu p | pand p | por p | pxor p | pandn p | movp p | movtp p |
    fadd p | fsub p | fmul p | fdiv p | fsqrt p | fma p | fmin p | fmax p | fcmplt p | fcmple p | fcmpeq p | fcvti p |
    icvtf p | fisfin p | movi p | orhi p =>
    obtain rfl := operands rfl
    exact spelled_alu rfl (by decide) rfl
  case ld p | st p | amoadd p | amoswap p | amocas p | amomaxu p | b p | bl p | jr p | jlr p | dbnz p | bz p | bnz p |
    ringPut p | ringPut2 p | ringGetw p | ringClr p | ringPush p | ringPushr p | ringTail p | ringHead p | wait p | test p |
    signal p | signalr p | ctrrd p | bararr p | barwait p | sumPop p | sumTry p | sumPeek p | sumCount p | sumDrop p |
    sysNop p | yield p | exit p | spawn p | cid p | timerd p | sleept p | pgrd p | pgwr p | notify p | swfault p | iflush p =>
    obtain rfl := operands rfl
    exact spelled_other hwf rfl (by decide) (by decide) rfl
  case fenceLd p | fenceSt p | fenceAll p =>
    obtain rfl := operands rfl
    simp only [Instr.wf, Bool.and_eq_true, decide_eq_true_eq] at hwf
    exact spelled_fence hwf rfl fun hfk => by simp only [syncInstr, hfk]
  all_goals exact absurd hform.symm (Option.some_ne_none _)

/-- Settles O59: a well-formed instruction is spelled by its CLASS, its OP and its operands, which are the fields of its word. -/
theorem sequencerWordsRoundTrip : Obligations.SequencerWordsRoundTrip := by
  unfold Obligations.SequencerWordsRoundTrip
  intro i o f w hwf hform hencode
  obtain ⟨cls, op, hcode, hcls, hop, halui, hfam⟩ := spelled_of_wf hwf hform
  simp only [seqEncode, hform, hcode, Option.some.injEq] at hencode
  rw [← hencode, decode_word cls op o hcls hop halui, hfam]

end Sys2Proof.Machine
end

section
/-! SUPPORT. The machine: what a step does with and without a command waiting (log 3), the undefined state (R493), and the values
of power-on reset. -/

namespace Sys2Proof.Machine

/-- Settles O1: the front command runs with the queue's rest, by the definition of a step. -/
theorem stepRunsFrontCommand : Obligations.StepRunsFrontCommand := fun _ _ _ => rfl

/-! ## Ticks outside P0 -/

@[simp] theorem lendOffer_core (c : Chip) : (lendOffer c).core = c.core := by
  unfold lendOffer
  split
  case h_1 => rfl
  case h_2 =>
    split
    · split <;> rfl
    · rfl

@[simp] theorem lendTick_core (c : Chip) : (lendTick c).core = c.core := by
  unfold lendTick
  split
  · rfl
  · exact lendOffer_core _

/-- A period of REFCLK changes the time base alone. -/
theorem advanceTime_eq (c : Chip) : ∃ t, advanceTime c = { c with time := t } := ⟨_, rfl⟩

@[simp] theorem advanceTime_core (c : Chip) : (advanceTime c).core = c.core := by
  obtain ⟨t, ht⟩ := advanceTime_eq c
  rw [ht]

@[simp] theorem holdLines_core (c : Chip) : (holdLines c).core = c.core := rfl

@[simp] theorem refEdge_core (c : Chip) : (refEdge c).core = c.core := by
  rw [refEdge, lendTick_core, holdLines_core, advanceTime_core]

theorem isUp_congr {c d : Chip} (h : d.core = c.core) : isUp d = isUp c := by
  unfold isUp
  rw [h]

/-- Outside P0 time passes to the next edge of REFCLK, where it runs. -/
theorem timePasses_asleep {c : Chip} (h : isAwake c = false) : timePasses c = if ticks c = true then refEdge c else c := by
  unfold timePasses
  rw [if_neg (by simp [h])]

theorem not_awake_of_not_up {c : Chip} (h : isUp c = false) : isAwake c = false := by simp [isAwake, h]

theorem isUp_timePasses {c : Chip} (h : isUp c = false) : isUp (timePasses c) = false := by
  rw [timePasses_asleep (not_awake_of_not_up h)]
  split
  · rw [isUp_congr (refEdge_core c), h]
  · exact h

/-- Outside P0, P1 and P2 a tick is the passing of time, where REFCLK runs. -/
theorem tick_down {c : Chip} (h : isUp c = false) : tick c = ([], if ticks c = true then refEdge c else c) := by
  have hup : isUp (timePasses c) = false := isUp_timePasses h
  rw [tick_asleep (not_awake_of_not_up hup), hup, timePasses_asleep (not_awake_of_not_up h)]
  rfl

theorem step_nil (c : Chip) : step ⟨c, []⟩ = .next { chip := (tick c).2, pending := (tick c).1 } := rfl

/-- Settles O2: an empty queue is a tick, and outside P0, P1 and P2 nothing but time can pass in it. -/
theorem emptyQueueTicks : Obligations.EmptyQueueTicks := by
  unfold Obligations.EmptyQueueTicks
  refine ⟨fun c => ⟨_, step_nil c, rfl, rfl⟩, fun c hup hticks => ?_, fun c hup hticks => ?_⟩
  · rw [step_nil, tick_down hup, hticks]; rfl
  · rw [step_nil, tick_down hup, hticks]; rfl

/-! ## The undefined state -/

/-- Where REFCLK does not run a core, nothing follows from a command. -/
theorem settle_of_stopped {c : Chip} (h : ticks c = false) : settle c = c := by
  unfold ticks at h
  unfold settle settleLast settleFirst isUp
  cases hphase : c.core.phase with
  | running => simp [hphase] at h
  | warm k => simp [hphase] at h
  | cold k => simp [hphase] at h
  | _ => simp [hphase]

/-- Every command but PORST_N's edges and the loss of the supply runs only while the state is defined. -/
theorem exec_runs (i : Instr) (ha : i ≠ .porstAssert) (hr : i ≠ .porstRelease) (hl : i ≠ .powerLoss) :
    ∃ f, ∀ s, exec i s = run f s := by
  cases i
  case porstAssert => exact absurd rfl ha
  case porstRelease => exact absurd rfl hr
  case powerLoss => exact absurd rfl hl
  all_goals exact ⟨_, fun _ => rfl⟩

theorem run_undefined {f : Chip → Chip} {s : State} (h : s.chip.core.phase = .undefined) : run f s = .fault .stateUndefined :=
  if_pos h

theorem refclkStop_eq {c : Chip} (h3 : c.core.phase ≠ .p3) (hu : c.core.phase ≠ .unpowered) :
    refclkStop c = { c with core.phase := .undefined } := if_neg (by simp [h3, hu])

/-- Settles O3: REFCLK_STOP makes the phase undefined, in which nothing follows of itself and `run` faults; PORST_N and the loss of
the supply do not go through it. -/
theorem undefinedUntilPorst : Obligations.UndefinedUntilPorst := by
  unfold Obligations.UndefinedUntilPorst
  refine ⟨fun s h3 hu hd => ⟨_, run_eq hd, ?_⟩, fun i s hd ha hr hl => ?_, fun s hd => ⟨⟨_, rfl, ?_⟩, ⟨_, rfl, ?_⟩, ?_⟩⟩
  · have hstill : ticks { s.chip with core.phase := .undefined } = false := rfl
    show (settle (refclkStop s.chip)).core.phase = .undefined
    rw [refclkStop_eq h3 hu, settle_of_stopped hstill]
  · obtain ⟨f, hf⟩ := exec_runs i ha hr hl
    rw [hf, run_undefined hd]
  · have hfresh : porstAssert s.chip = freshChip s.chip := if_neg (by simp [hd])
    have hstill : ticks (freshChip s.chip) = false := rfl
    show settle (porstAssert s.chip) = _
    rw [hfresh, settle_of_stopped hstill]
  · exact settle_of_stopped (c := powerLoss s.chip) rfl
  · have hstays : porstRelease s.chip = s.chip := if_neg (by simp [hd])
    have hstill : ticks s.chip = false := by simp [ticks, hd]
    show Host.Outcome.next { s with chip := settle (porstRelease s.chip) } = _
    rw [hstays, settle_of_stopped hstill]

/-- Settles O4: while the state is defined every command goes through `run` or `runAlways`, which both keep the queue. -/
theorem everyCommandAnswers : Obligations.EveryCommandAnswers := by
  unfold Obligations.EveryCommandAnswers
  intro i s hd
  by_cases ha : i = .porstAssert
  · exact ha ▸ ⟨_, rfl, rfl⟩
  by_cases hr : i = .porstRelease
  · exact hr ▸ ⟨_, rfl, rfl⟩
  by_cases hl : i = .powerLoss
  · exact hl ▸ ⟨_, rfl, rfl⟩
  obtain ⟨f, hf⟩ := exec_runs i ha hr hl
  exact ⟨_, (hf s).trans (run_eq hd), rfl⟩

/-! ## Reset -/

theorem ctxOf_reset (n : Nat) : ctxOf Chip.reset n = if n = 0 then { Ctx.idle with st := .ready } else Ctx.idle := by
  have hctxs : Chip.reset.seq.ctxs = [(0, { Ctx.idle with st := .ready })] := rfl
  unfold ctxOf
  rw [hctxs]
  simp only [SMap.get, eq_comm]

/-- Settles O5: reset lists no counter, ring, page or byte, and of the contexts context 0 alone. -/
theorem resetValues : Obligations.ResetValues := by
  unfold Obligations.ResetValues
  have hzero : ctxOf State.reset.chip 0 = { Ctx.idle with st := .ready } := ctxOf_reset 0
  have hother (n : Nat) (hn : n ≠ 0) : ctxOf State.reset.chip n = Ctx.idle := (ctxOf_reset n).trans (if_neg hn)
  have hregs (n r : Nat) : (ctxOf State.reset.chip n).reg r = 0#64 := by
    have hempty : (ctxOf State.reset.chip n).regs = [] := by
      by_cases hn : n = 0
      · rw [hn, hzero]; rfl
      · rw [hother n hn]; rfl
    simp [Ctx.reg, hempty]
  refine ⟨rfl, rfl, fun _ => rfl, fun _ => rfl, ?_, ?_, fun n hn => ?_, hregs, fun _ => ⟨rfl, rfl, rfl⟩, fun _ => ⟨rfl, rfl⟩, rfl, rfl, rfl⟩
  · rw [hzero]
  · rw [hzero]; rfl
  · rw [hother n hn]; rfl

end Sys2Proof.Machine
end

section
/-! SUPPORT. Arithmetic of the sequencer (R93, R115): what a register or predicate reads as after a write, and the values of Table 4.8
as the three shared forms of an operation give them. -/

namespace Sys2Proof.Machine

/-! ## Registers and predicates -/

@[simp] theorem setReg_zero (x : Ctx) (v : W64) : x.setReg 0 v = x := rfl
@[simp] theorem reg_zero (x : Ctx) : x.reg 0 = 0#64 := rfl
@[simp] theorem setPred_zero (x : Ctx) (v : Bool) : x.setPred 0 v = x := rfl

theorem reg_setReg_same (x : Ctx) {r : Nat} (v : W64) (h : r ≠ 0) : (x.setReg r v).reg r = v := by
  simp only [Ctx.setReg, Ctx.reg, if_neg h, SMap.get_set_same]

theorem pred_setPred_same (x : Ctx) {p : Nat} (v : Bool) (h0 : p ≠ 0) (h8 : p < 8) : (x.setPred p v).pred p = v := by
  have hbit : (1#8 <<< p).getLsbD p = true := by simp [h8]
  have hvalid : ¬ (p = 0 ∨ 8 ≤ p) := by omega
  simp only [Ctx.setPred, Ctx.pred, if_neg hvalid, if_neg h0]
  cases v with
  | false => simp [BitVec.getLsbD_and, BitVec.getLsbD_not, hbit]
  | true => simp [BitVec.getLsbD_or, hbit]

/-- Settles O8. -/
theorem scalarRegisters : Obligations.ScalarRegisters := by
  unfold Obligations.ScalarRegisters
  exact fun x => ⟨setReg_zero x, reg_zero x, setPred_zero x, pred_zero x, fun r v => reg_setReg_same x v,
    fun r r' v => setReg_other x r v, fun p v => pred_setPred_same x v, fun p p' v => setPred_other x p v⟩

/-! ## The shared forms of an operation -/

theorem sets_aluReg {i : Instr} {o : SeqOp} {f : AluForm} {g : W64 → W64 → W64 → W64 → W64} {v : Ctx → W64}
    {m : Chip → Chip} (hf : formOf i = some (o, f.form o)) (hx : ∀ s, exec i s = run m s) (hm : ∀ c, m c = aluReg f g o c)
    (hv : ∀ x, g (x.reg (opRa o)) (aluB o x) (x.reg (opRc o)) (x.reg (opRd o)) = v x) : Sets i v :=
  (sets_of hf fun s => by rw [hx, funext hm]; rfl).congr hv

theorem tests_aluPred {i : Instr} {o : SeqOp} {f : AluForm} {g : W64 → W64 → Bool} {v : Ctx → Bool}
    {m : Chip → Chip} (hf : formOf i = some (o, f.form o)) (hx : ∀ s, exec i s = run m s) (hm : ∀ c, m c = aluPred f g o c)
    (hv : ∀ x, g (x.reg (opRa o)) (aluB o x) = v x) : Tests i v :=
  (tests_of hf fun s => by rw [hx, funext hm]; rfl).congr hv

theorem tests_predOp {i : Instr} {o : SeqOp} {g : Bool → Bool → Bool} {v : Ctx → Bool}
    {m : Chip → Chip} (hf : formOf i = some (o, aluP.form o)) (hx : ∀ s, exec i s = run m s) (hm : ∀ c, m c = predOp g o c)
    (hv : ∀ x, g (x.pred (opRa o)) (x.pred (opRb o)) = v x) : Tests i v :=
  (tests_of hf fun s => by rw [hx, funext hm]; rfl).congr hv

/-! ## Values of Table 4.8 -/

theorem rangeFrom_zero (n : Nat) : rangeFrom 0 n = List.range n := by
  have hfrom (a : Nat) : rangeFrom a n = List.range' a n := by
    induction n generalizing a with
    | zero => rfl
    | succ n ih => simp [rangeFrom, List.range'_succ, ih]
  rw [hfrom, List.range_eq_range']

theorem mulhs_value (a b : W64) : w64 ((a.toInt * b.toInt).fdiv (2 ^ 64)) = BitVec.ofInt 64 (a.toInt * b.toInt / 2 ^ 64) := by
  rw [Int.fdiv_eq_ediv_of_nonneg _ (by decide)]
  rfl

/-- FCVTI saturates, and gives 0 for NaN. -/
theorem f64ToInt_eq (v : XNum) : f64ToInt v = (match v with
    | .nan => 0#64
    | .inf neg => if neg then 0x8000000000000000#64 else 0x7FFFFFFFFFFFFFFF#64
    | v => BitVec.ofInt 64 (max (-(2 ^ 63)) (min (2 ^ 63 - 1) ((XNum.toInt? .rne 0 v).getD 0)))) := by
  cases v with
  | nan => rfl
  | inf neg => cases neg <;> rfl
  | _ => rfl

/-- Settles O9: every operation has one of the shared forms, with the function of Table 4.8. -/
theorem arithmeticInstructions : Obligations.ArithmeticInstructions := by
  unfold Obligations.ArithmeticInstructions
  have hones : BitVec.allOnes 64 = 0xFFFFFFFFFFFFFFFF#64 := by decide
  refine ⟨fun o => ?integers, fun o => ?tests, fun o => ?floats⟩
  case' integers =>
    dsimp only
    refine ⟨?add, ?sub, ?mul, ?mulhu, ?mulhs, ?divu, ?divs, ?remu, ?rems, ?and, ?or, ?xor, ?andn, ?shl, ?shr, ?sar, ?rol, ?min,
      ?max, ?minu, ?maxu, ?clz, ?ctz, ?popc, ?sel, ?madd, ?bfx, ?bfi, ?movi, ?orhi⟩
  case' tests =>
    dsimp only
    refine ⟨?cmpeq, ?cmpne, ?cmplt, ?cmple, ?cmpltu, ?cmpleu, ?pand, ?por, ?pxor, ?pandn, ?movp, ?movtp⟩
  case' floats =>
    dsimp only
    refine ⟨?fadd, ?fsub, ?fmul, ?fdiv, ?fsqrt, ?fma, ?fmin, ?fmax, ?fcmplt, ?fcmple, ?fcmpeq, ?fisfin, ?fcvti, ?icvtf⟩
  case add | sub | mul | remu | and | or | xor | andn | shl | shr | sar | rol | min | max | minu | maxu | clz | madd | bfi | movi | orhi
      | rems | fadd | fsub | fmul | fdiv | fsqrt | fma | fmin | fmax | icvtf =>
    refine sets_aluReg rfl (fun _ => rfl) (fun _ => rfl) fun x => ?_
    rfl
  case mulhu =>
    refine sets_aluReg rfl (fun _ => rfl) (fun _ => rfl) fun x => ?_
    rw [Nat.shiftRight_eq_div_pow]
  case mulhs => exact sets_aluReg rfl (fun _ => rfl) (fun _ => rfl) fun _ => mulhs_value _ _
  case divu | divs =>
    refine sets_aluReg rfl (fun _ => rfl) (fun _ => rfl) fun x => ?_
    exact congrArg (fun v => if aluB o x = 0#64 then v else _) hones
  case ctz | popc =>
    refine sets_aluReg rfl (fun _ => rfl) (fun _ => rfl) fun x => ?_
    rw [rangeFrom_zero]
    rfl
  case sel =>
    refine sets_aluReg rfl (fun _ => rfl) (fun _ => rfl) fun x => ?_
    rw [ite_not]
  case bfx => exact sets_aluReg rfl (fun _ => rfl) (fun _ => rfl) fun _ => congrArg (BitVec.ofNat 64) (bits_eq _ _ _)
  case fcvti => exact sets_aluReg rfl (fun _ => rfl) (fun _ => rfl) fun _ => f64ToInt_eq _
  case cmpne =>
    refine tests_aluPred rfl (fun _ => rfl) (fun _ => rfl) fun x => ?_
    rw [bne, beq_eq_decide, decide_not]
  case cmpeq | cmplt | cmple | cmpltu | cmpleu | fcmplt | fcmple | fcmpeq | fisfin =>
    refine tests_aluPred rfl (fun _ => rfl) (fun _ => rfl) fun x => ?_
    rfl
  case pand | por | pxor | pandn =>
    refine tests_predOp rfl (fun _ => rfl) (fun _ => rfl) fun x => ?_
    rfl
  case movp => exact sets_of rfl fun _ => rfl
  case movtp => exact moves_of rfl fun _ => rfl

end Sys2Proof.Machine
end

section
/-! SUPPORT. Issue and the flow of the sequencer (R99, R113, R118 to R124): what stops an instruction at issue, and the effect of every
branch and of every RING, SYNC, SUM and SYS instruction. -/

namespace Sys2Proof.Machine

/-! ## What stops an instruction at issue -/

theorem seqIssue_of_illegal {o : SeqOp} {f : SeqForm} {g : Ctx → Chip → Chip} {c : Chip} (hcan : canIssue c o.ctx = true)
    (hpc : pcFault (ctxOf c o.ctx).pc = none) (hlegal : f.legal = false) :
    seqIssue o f g c = faultHere o.ctx .isaIllegal (issued o.ctx c) := by
  simp [seqIssue, hcan, hpc, hlegal]

theorem seqIssue_of_hazard {o : SeqOp} {f : SeqForm} {g : Ctx → Chip → Chip} {c : Chip} {w : MemWait}
    (hcan : canIssue c o.ctx = true) (hpc : pcFault (ctxOf c o.ctx).pc = none) (hlegal : f.legal = true)
    (hguard : guardOn o (ctxOf c o.ctx) = true) (hhazard : hazard (ctxOf c o.ctx) f = some w) :
    seqIssue o f g c = waitOn o.ctx (.memory w) c := by
  simp [seqIssue, hcan, hpc, hlegal, hguard, hhazard]

/-- A register is busy when a load or atomic has not yet written it (R99). -/
theorem mem_busy {x : Ctx} {r : Nat} : r ∈ x.busy ↔ ∃ a ∈ x.accs, a.loading = true ∧ a.rd = r := by
  simp [Ctx.busy, and_assoc]

/-- A hazard is a busy register, or a limit on accesses that is reached. -/
theorem hazard_eq_none (x : Ctx) (f : SeqForm) : hazard x f = none ↔
    (∀ r ∈ f.regs, r ≠ 0 → ∀ a ∈ x.accs, a.loading = true → a.rd ≠ r) ∧
    (f.load = true → x.loads < 8) ∧ (f.store = true → x.stores < 16) := by
  have hregs : (f.regs.filter fun r => r != 0 && x.busy.contains r) = [] ↔
      ∀ r ∈ f.regs, r ≠ 0 → ∀ a ∈ x.accs, a.loading = true → a.rd ≠ r := by
    simp [List.filter_eq_nil_iff, mem_busy]
  unfold hazard
  rw [← hregs]
  generalize (f.regs.filter fun r => r != 0 && x.busy.contains r) = held
  cases held with
  | cons r rs => simp
  | nil =>
    by_cases hload : f.load = true ∧ 8 ≤ x.loads
    · simp [hload]
    · by_cases hstore : f.store = true ∧ 16 ≤ x.stores
      · simp [hload, hstore]
      · have hfree : (f.load = true → x.loads < 8) ∧ (f.store = true → x.stores < 16) :=
          ⟨fun h => by have := not_and.1 hload h; omega, fun h => by have := not_and.1 hstore h; omega⟩
        simpa [hload, hstore] using hfree

/-- A fault of a context at its own instruction (R114). -/
theorem faultHere_isaIllegal (n : Nat) (c : Chip) : faultHere n .isaIllegal c =
    recordFault pSEQ .isaIllegal (faultCode pSEQ .isaIllegal) n 0xFFFF (ctxOf c n).pc
      (setCtx n { ctxOf c n with st := .faulted, wait := .none, fault := 0x103, late := false, stopping := false } c) := rfl

/-- Settles O7: illegal fields are seen first, before the guard, and a hazard after it. -/
theorem faultsAndHazardsAtIssue : Obligations.FaultsAndHazardsAtIssue := by
  unfold Obligations.FaultsAndHazardsAtIssue
  refine ⟨fun i o f hform s hcan hpc hlegal => ?_, fun i o f w hform s hcan hpc hlegal hguard hhazard => ?_, hazard_eq_none⟩
  · obtain ⟨g, hexec⟩ := exec_issues hform
    unfold Answers
    rw [hexec s, run_eq (awake_defined (canIssue_awake hcan)), seqIssue_of_illegal hcan hpc hlegal, faultHere_isaIllegal]
  · obtain ⟨g, hexec⟩ := exec_issues hform
    unfold Answers
    rw [hexec s, run_eq (awake_defined (canIssue_awake hcan)), seqIssue_of_hazard hcan hpc hlegal hguard hhazard]
    rfl

/-! ## Branches -/

/-- An offset counts instructions of 8 bytes from the branch (R118). -/
theorem brTarget_eq (o : SeqOp) (x : Ctx) : brTarget o x = x.pc + 8 * sextW 32 o.low.toNat := by
  have hshift (v : W64) : v <<< 3 = 8 * v := by bv_omega
  exact congrArg (x.pc + ·) (hshift _)

theorem branchIf_true (o : SeqOp) (f : Ctx → Ctx) (c : Chip) :
    branchIf o true f c = updCtx o.ctx (fun y => { f y with pc := y.pc + 8 * sextW 32 o.low.toNat }) c := by
  simp only [branchIf, if_true, brTarget_eq]

/-- A branch with an offset changes its own context alone, on either way. -/
theorem branchIf_decide (o : SeqOp) (p : Prop) [Decidable p] (f : Ctx → Ctx) (c : Chip) : branchIf o (decide p) f c =
    updCtx o.ctx (fun y => { f y with pc := if p then y.pc + 8 * sextW 32 o.low.toNat else y.pc + 8 }) c := by
  by_cases hp : p
  · simp only [hp, decide_true, branchIf_true, if_true]
  · simp only [hp, decide_false, if_false]
    rfl

/-- Settles O11. -/
theorem branches : Obligations.Branches := by
  unfold Obligations.Branches
  intro o
  refine ⟨fires_via rfl (seqB o) (fun _ => rfl) (fun _ => rfl) ?b, fires_via rfl (seqBl o) (fun _ => rfl) (fun _ => rfl) ?bl,
    fires_via rfl (seqJr o) (fun _ => rfl) (fun _ => rfl) ?jr, fires_via rfl (seqJlr o) (fun _ => rfl) (fun _ => rfl) ?jlr,
    fires_via rfl (seqDbnz o) (fun _ => rfl) (fun _ => rfl) ?dbnz, fires_via rfl (seqBz o) (fun _ => rfl) (fun _ => rfl) ?bz,
    fires_via rfl (seqBnz o) (fun _ => rfl) (fun _ => rfl) ?bnz⟩
  case b | bl => exact fun x c => branchIf_true o _ c
  case jr | jlr => exact fun x c => rfl
  case dbnz =>
    intro x c
    have htest : (x.reg (opRa o) - 1 != 0#64) = decide (x.reg (opRa o) - 1 ≠ 0#64) := Bool.eq_iff_iff.2 (by simp)
    exact (congrArg (branchIf o · _ c) htest).trans (branchIf_decide o _ _ c)
  case bz => exact fun x c => branchIf_decide o (x.reg (opRa o) = 0#64) id c
  case bnz =>
    intro x c
    have htest : (x.reg (opRa o) != 0#64) = decide (x.reg (opRa o) ≠ 0#64) := Bool.eq_iff_iff.2 (by simp)
    exact (congrArg (branchIf o · _ c) htest).trans (branchIf_decide o _ _ c)

/-! ## RING -/

theorem rangeFrom_length (a n : Nat) : (rangeFrom a n).length = n := by
  induction n generalizing a with
  | zero => rfl
  | succ n ih => simp [rangeFrom, ih]

/-- The staged descriptor takes 1 slot, or 3 with a chained extension (R120). -/
theorem stagedWords_eq (x : Ctx) : let k := if (SMap.get 0#64 x.staging 0).getLsbD 17 = true then 3 else 1
    x.stagedWords = (rangeFrom 0 (8 * k)).map (fun i => SMap.get 0#64 x.staging i) ∧ x.stagedWords.length / 8 = k := by
  have hflag : bitAt (x.staged 0) 17 = (SMap.get 0#64 x.staging 0).getLsbD 17 := rfl
  unfold Ctx.stagedWords
  rw [hflag, List.length_map, rangeFrom_length]
  cases (SMap.get 0#64 x.staging 0).getLsbD 17 <;> exact ⟨rfl, rfl⟩

/-- A push, with its four outcomes in their order (R119, R120, R133, R134). -/
theorem pushTo_eq (o : SeqOp) (slot : Nat) (x : Ctx) (c : Chip) : pushTo o slot x c =
    let n := 32 * o.ctx + slot
    let k := if (SMap.get 0#64 x.staging 0).getLsbD 17 = true then 3 else 1
    if (ringOf c n).en = false ∨ (ringOf c n).hostfed = true then faultHere o.ctx .isaIllegal c
    else if (ctxOf c o.ctx).accs.any Acc.storing = true then waitOn o.ctx (.memory .stores) c
    else if (ringOf c n).freeSlots < k then waitOn o.ctx (.ringSpace n k) c
    else stepPast o.ctx (fun y => y.setReg (opRd o) (BitVec.ofNat 64 (ringOf c n).tail))
      (pushWords n ((rangeFrom 0 (8 * k)).map fun i => SMap.get 0#64 x.staging i) c) := by
  obtain ⟨hwords, hslots⟩ := stagedWords_eq x
  unfold pushTo releaseFirst
  simp only [hslots]
  simp only [hwords, Bool.or_eq_true, Bool.not_eq_true']

/-- Settles O12. -/
theorem ringInstructions : Obligations.RingInstructions := by
  unfold Obligations.RingInstructions
  refine ⟨fun o => ⟨moves_of rfl fun _ => rfl, moves_of rfl fun _ => rfl, sets_of rfl fun _ => rfl, moves_of rfl fun _ => rfl,
    fires_of rfl fun _ => rfl, fires_of rfl fun _ => rfl⟩, fun o => ?_⟩
  exact ⟨fires_via rfl (seqRingPush o) (fun _ => rfl) (fun _ => rfl) fun x c => pushTo_eq o _ x c,
    fires_via rfl (seqRingPushr o) (fun _ => rfl) (fun _ => rfl) fun x c => pushTo_eq o _ x c⟩

end Sys2Proof.Machine
end

section
/-! SUPPORT. SYNC, SUM and SYS of the sequencer (R96, R105, R121 to R124): counters that translate or not, releases and fences, the
FIFO of summaries, starting a context, and registers of local pages. -/

namespace Sys2Proof.Machine

/-! ## SYNC -/

/-- A value that a counter gives, where the counter translates. -/
theorem useCtr_eq (o : SeqOp) (x : Ctx) (f : Option Nat → Chip → Chip) (c : Chip) : useCtr o x f c =
    match translate (blameCtx o.ctx x.pc) o.ctx (syncCtr o x) c with
    | (some p, c) => f (some p) c
    | (none, c) => f none c := by
  unfold useCtr
  cases h : translate (blameCtx o.ctx x.pc) o.ctx (syncCtr o x) c with
  | mk p d => cases p <;> rfl

/-- What an instruction does with its counter: one thing where it names none, another where it names one. -/
theorem withCtr_congr (o : SeqOp) (x : Ctx) {k : Chip} {f g : Option Nat → Chip → Chip} (h : ∀ p c, f p c = g p c) (c : Chip) :
    (if syncCtr o x = noCtr then k else useCtr o x f c) =
    if syncCtr o x = 0xFFFF then k
    else match translate (blameCtx o.ctx x.pc) o.ctx (syncCtr o x) c with
      | (some p, c) => g (some p) c
      | (none, c) => g none c := by
  rw [useCtr_eq, show f = g from funext fun p => funext (h p)]
  rfl

/-- A release waits while a store or atomic of the context is outstanding (R106). -/
theorem releaseFirst_congr (n : Nat) {f g : Chip → Chip} (h : ∀ c, f c = g c) (c : Chip) : releaseFirst n f c =
    if (ctxOf c n).accs.any Acc.storing = true then waitOn n (.memory .stores) c else g c := by
  rw [releaseFirst, h]

/-- The waits of a fence, in their order. -/
theorem fence_waits (ld st storing : Bool) (busy : List Nat) (a b d : Chip → Chip) (c : Chip) :
    (if st && storing then a else if ld && !busy.isEmpty then b else d) c =
    if st = true ∧ storing = true then a c else if ld = true ∧ busy ≠ [] then b c else d c := by
  cases busy <;> cases st <;> cases storing <;> cases ld <;> rfl

/-- Settles O13. -/
theorem syncInstructions : Obligations.SyncInstructions := by
  unfold Obligations.SyncInstructions
  refine ⟨fun o => ?counters, fun o => ?fences⟩
  case counters =>
    refine ⟨fires_via rfl (seqWait o) (fun _ => rfl) (fun _ => rfl) ?wait, fires_via rfl (seqTest o) (fun _ => rfl) (fun _ => rfl) ?test,
      fires_via rfl (seqSignal o) (fun _ => rfl) (fun _ => rfl) ?signal,
      fires_via rfl (seqSignalr o) (fun _ => rfl) (fun _ => rfl) ?signalr,
      fires_via rfl (seqCtrrd o) (fun _ => rfl) (fun _ => rfl) ?ctrrd⟩
    case wait => exact fun x c => withCtr_congr o x (fun _ _ => rfl) c
    case test => exact fun x c => withCtr_congr o x (fun _ _ => rfl) c
    case signal => exact fun x c => releaseFirst_congr o.ctx (fun c => withCtr_congr o x (fun _ _ => rfl) c) c
    case signalr =>
      exact fun x c => (releaseFirst_congr o.ctx (fun _ => rfl) c).trans (by simp only [fld_eq, pow_zero, Nat.div_one])
    case ctrrd => exact fun x c => withCtr_congr o x (fun _ _ => rfl) c
  case fences =>
    refine ⟨fires_via rfl (fence true false o) (fun _ => rfl) (fun _ => rfl) ?ld, fires_via rfl (fence false true o) (fun _ => rfl) (fun _ => rfl) ?st,
      fires_via rfl (fence true true o) (fun _ => rfl) (fun _ => rfl) ?all, fires_of rfl fun _ => rfl,
      fires_via rfl (seqBarwait o) (fun _ => rfl) (fun _ => rfl) ?barwait⟩
    case ld => exact fun x c => (fence_waits true false _ x.busy _ _ _ c).trans (by simp)
    case st => exact fun x c => (fence_waits false true _ x.busy _ _ _ c).trans (by simp)
    case all => exact fun x c => (fence_waits true true _ x.busy _ _ _ c).trans (by simp)
    case barwait =>
      intro x c
      simp only [barDone, decide_eq_true_eq]
      rfl

/-! ## SUM -/

/-- Settles O14. -/
theorem summaries : Obligations.Summaries := by
  unfold Obligations.Summaries
  intro o
  refine ⟨fires_via rfl (seqSumPop o) (fun _ => rfl) (fun _ => rfl) ?pop, fires_via rfl (seqSumTry o) (fun _ => rfl) (fun _ => rfl) ?try_,
    fires_via rfl (seqSumPeek o) (fun _ => rfl) (fun _ => rfl) ?peek, sets_of rfl fun _ => rfl,
    (moves_of (g := fun x y => { y with sums := x.sums.drop 1 }) rfl fun _ => rfl).congr fun x y => by rw [List.drop_one],
    fun x v => rfl, fun x b => rfl, ?legal⟩
  case pop | try_ | peek =>
    intro x c
    cases x.sums <;> rfl
  case legal =>
    intro f hform hlegal
    obtain ⟨rd, rt, pd, rfl⟩ : ∃ rd rt pd, f = sumForm rd rt pd o := by
      rcases hform with h | h | h | h | h <;> exact ⟨_, _, _, (Prod.mk.inj (Option.some.inj h)).2.symm⟩
    simp only [sumForm, Bool.and_eq_true, beq_iff_eq] at hlegal
    obtain ⟨⟨⟨⟨_, hra⟩, _⟩, _⟩, _⟩ := hlegal
    exact hra

/-! ## SYS -/

/-- Settles O15. -/
theorem systemInstructions : Obligations.SystemInstructions := by
  unfold Obligations.SystemInstructions
  intro o
  refine ⟨moves_of rfl fun _ => rfl, moves_of rfl fun _ => rfl, fires_via rfl (seqExit o) (fun _ => rfl) (fun _ => rfl) ?exit,
    fires_via rfl (seqSpawnOp o) (fun _ => rfl) (fun _ => rfl) ?spawn, sets_of rfl fun _ => rfl, fires_of rfl fun _ => rfl,
    fires_of rfl fun _ => rfl, fires_of rfl fun _ => rfl, fires_of rfl fun _ => rfl, fires_of rfl fun _ => rfl⟩
  case exit =>
    intro x c
    cases x.accs <;> rfl
  case spawn =>
    intro x c
    have hones : BitVec.allOnes 64 = 0xFFFFFFFFFFFFFFFF#64 := by decide
    simp only [hones]
    generalize spawnCtx _ (x.reg (opRb o)) (x.reg (opRc o)) c = r
    obtain ⟨n, d⟩ := r
    cases n <;> rfl

/-! ## Starting a context -/

theorem firstFrom_eq_none {p : Nat → Bool} {lo k : Nat} : firstFrom p lo k = none ↔ ∀ n, lo ≤ n → n < lo + k → p n = false := by
  induction k generalizing lo with
  | zero => simp only [firstFrom, true_iff]; omega
  | succ k ih =>
    unfold firstFrom
    cases hp : p lo with
    | true =>
      simp only [if_true, reduceCtorEq, false_iff]
      exact fun h => Bool.noConfusion (hp.symm.trans (h lo (le_refl _) (by omega)))
    | false =>
      simp only [Bool.false_eq_true, if_false, ih]
      refine ⟨fun h n h1 h2 => ?_, fun h n h1 h2 => h n (by omega) (by omega)⟩
      by_cases hn : n = lo
      · exact hn ▸ hp
      · exact h n (by omega) (by omega)

theorem firstFrom_first {p : Nat → Bool} {lo k n : Nat} (hlo : lo ≤ n) (hk : n < lo + k) (hp : p n = true)
    (hfirst : ∀ j, lo ≤ j → j < n → p j = false) : firstFrom p lo k = some n := by
  induction k generalizing lo with
  | zero => omega
  | succ k ih =>
    unfold firstFrom
    by_cases hn : lo = n
    · subst hn; exact if_pos hp
    · rw [if_neg (by rw [hfirst lo (le_refl _) (by omega)]; decide)]
      exact ih (by omega) (by omega) fun j h1 h2 => hfirst j (by omega) h2

/-- What spawning does with the context it finds. -/
theorem spawnCtx_eq (named : Option Nat) (pc arg : W64) (c : Chip) : spawnCtx named pc arg c =
    match (match named with
      | some n => if n < Config.contexts ∧ (ctxOf c n).st = .free then some n else none
      | none => lowestFree c) with
    | some n => if (pcFault pc).isSome then (none, c) else (some n, startCtx n pc arg c)
    | none => (none, c) := rfl

theorem spawnCtx_bad {pc : W64} (h : pcFault pc ≠ none) (named : Option Nat) (arg : W64) (c : Chip) :
    spawnCtx named pc arg c = (none, c) := by
  rw [spawnCtx_eq]
  split
  · rw [if_pos (Option.isSome_iff_ne_none.2 h)]
  · rfl

theorem lowestFree_eq {c : Chip} {n : Nat} (hn : n < 1024) (hfree : (ctxOf c n).st = .free)
    (hlow : ∀ k < n, (ctxOf c k).st ≠ .free) : lowestFree c = some n :=
  firstFrom_first (Nat.zero_le n) (by rw [show Config.contexts = 1024 from rfl]; omega) (decide_eq_true hfree)
    fun j _ h => decide_eq_false (hlow j h)

theorem lowestFree_none {c : Chip} (h : ∀ n < 1024, (ctxOf c n).st ≠ .free) : lowestFree c = none :=
  firstFrom_eq_none.2 fun n _ hn => decide_eq_false (h n (by rw [show Config.contexts = 1024 from rfl] at hn; omega))

/-- What a started context holds (R95). -/
theorem ctxOf_startCtx (n : Nat) (pc arg : W64) (c : Chip) : ctxOf (startCtx n pc arg c) n =
    { Ctx.idle with startArg := (ctxOf c n).startArg, pc := pc, st := .ready, regs := SMap.set 0#64 [] 1 arg } := by
  rw [startCtx, ctxOf_setCtx]

/-- Settles O16. -/
theorem spawning : Obligations.Spawning := by
  unfold Obligations.Spawning
  refine ⟨?named, ?refused, ?noneFree, ?lowest, ?started⟩
  case named =>
    intro c n pc arg hn hfree hpc
    simp [spawnCtx_eq, show n < Config.contexts from hn, hfree, hpc]
  case refused =>
    intro c n pc arg h
    by_cases hpc : pcFault pc = none
    · have hbad : ¬ (n < Config.contexts ∧ (ctxOf c n).st = .free) := by
        rcases h with h | h | h
        · exact fun g => absurd g.1 (by rw [show Config.contexts = 1024 from rfl]; omega)
        · exact fun g => h g.2
        · exact absurd hpc h
      rw [spawnCtx_eq]
      simp only [if_neg hbad]
    · exact spawnCtx_bad hpc _ _ _
  case noneFree =>
    rintro c pc arg (hnone | hpc)
    · rw [spawnCtx_eq]
      simp only [lowestFree_none hnone]
    · exact spawnCtx_bad hpc _ _ _
  case lowest =>
    intro c n pc arg hn hfree hlow hpc
    rw [spawnCtx_eq]
    simp [lowestFree_eq hn hfree hlow, hpc]
  case started =>
    intro c n pc arg
    dsimp only
    rw [ctxOf_startCtx]
    refine ⟨rfl, rfl, SMap.get_set_same _ _ _ _, fun r hr => ?_, fun p hp => ?_, rfl, fun i => rfl⟩
    · by_cases h0 : r = 0
      · subst h0; rfl
      · rw [Ctx.reg, if_neg h0]; exact SMap.get_set_other _ _ _ hr
    · simp [Ctx.pred, hp, Ctx.idle]

/-! ## Registers of local pages -/

/-- The offset of PGRD and PGWR, if it is one of a page (R18, R124). -/
theorem pgOffset_eq (o : SeqOp) (x : Ctx) : let off := (BitVec.ofNat 64 (opOff16 o) + x.reg (opRa o)).toNat
    pgOffset o x = if opPage o < 20 ∧ off % 8 = 0 ∧ off < 0x10000 then some off else none := rfl

theorem answers_of_fires {i : Instr} {o : SeqOp} {f : SeqForm} {g : Ctx → Chip → Chip} (h : Fires i g) (hf : formOf i = some (o, f))
    {s : State} (hs : Issues o f s.chip) {c : Chip} (e : g (ctxOf (issued o.ctx s.chip) o.ctx) (issued o.ctx s.chip) = c) :
    Answers i s c := e ▸ h o f hf s hs

/-- PGRD and PGWR, with the offset they name. -/
theorem fires_pgrd (o : SeqOp) : Fires (.pgrd o) fun x c => match pgOffset o x with
    | none => faultHere o.ctx .addrUnmapped c
    | some off => pushAcc o.ctx ((newAcc .load (opRd o) 3 false 0).with (.done (pageRead (opPage o) off c).1.toNat))
        (pageRead (opPage o) off c).2 :=
  fires_via rfl (seqPgrd o) (fun _ => rfl) (fun _ => rfl) fun _ _ => rfl

theorem fires_pgwr (o : SeqOp) : Fires (.pgwr o) fun x c => match pgOffset o x with
    | none => faultHere o.ctx .addrUnmapped c
    | some off => pageWrite o.ctx (opPage o) off (x.reg (opRb o)) (pushAcc o.ctx ((newAcc .store 0 3 false 0).with (.done 0)) c) :=
  fires_via rfl (seqPgwr o) (fun _ => rfl) (fun _ => rfl) fun _ _ => rfl

/-- Settles O17. -/
theorem pageInstructions : Obligations.PageInstructions := by
  unfold Obligations.PageInstructions
  intro o
  refine ⟨fun s f hf hs => ⟨fun hok => answers_of_fires (fires_pgrd o) hf hs ?_, fun hbad => answers_of_fires (fires_pgrd o) hf hs ?_⟩,
    fun s f hf hs => ⟨fun hok => answers_of_fires (fires_pgwr o) hf hs ?_, fun hbad => answers_of_fires (fires_pgwr o) hf hs ?_⟩⟩
  · rw [pgOffset_eq, if_pos hok]
  · rw [pgOffset_eq, if_neg hbad]
  · rw [pgOffset_eq, if_pos hok]
  · rw [pgOffset_eq, if_neg hbad]

end Sys2Proof.Machine
end

section
/-! SUPPORT. Loads, stores and atomics of the sequencer (R107, R116, R117): their addresses, what faults them, and what they do to LMEM of
this core. -/

namespace Sys2Proof.Machine

/-- Words without a stored error read as they stand. -/
theorem eccRead_sound {cls : Nat} {offs : List Nat} {c : Chip} (h : errWords c offs = []) : eccRead cls offs c = (false, c) := by
  simp only [eccRead, h, List.any_nil, List.foldl_nil]

theorem badAccess_of_misaligned {c : Chip} {w : Bool} {a n : Nat} (h : a % n ≠ 0) : badAccess c w a n = true := by
  simp [badAccess, h]

/-- An aligned access of this core to mapped bytes of LMEM does not fault. -/
theorem badAccess_lmem {c : Chip} {w : Bool} {a n : Nat} (halign : a % n = 0) (hlmem : regionOf (offOf a) n = some .lmem)
    (hmapped : mappedRange c w (offOf a) n = true) : badAccess c w a n = false := by
  simp [badAccess, halign, hlmem, hmapped]

theorem inLmem_of_region {off n : Nat} (h : regionOf off n = some .lmem) : inLmem off n = true := by
  have hfound := List.find?_some (h : Region.all.find? (fun r => decide (r.span.1 ≤ off) && decide (off + max n 1 ≤ r.span.2)) = _)
  have hspan : off + max n 1 ≤ Config.lmemBytes := of_decide_eq_true (Bool.and_eq_true_iff.1 hfound).2
  exact decide_eq_true (by omega)

theorem ctxLoad_misaligned {n rd size a : Nat} {sx : Bool} {c : Chip} (h : a % 2 ^ size ≠ 0) :
    ctxLoad n rd size sx a c = faultHere n .addrUnmapped c := if_pos (badAccess_of_misaligned h)

theorem ctxStore_misaligned {n size a : Nat} {v : W64} {c : Chip} (h : a % 2 ^ size ≠ 0) :
    ctxStore n size a v c = faultHere n .addrUnmapped c := if_pos (badAccess_of_misaligned h)

/-- A load from LMEM of this core carries its bytes. -/
theorem ctxLoad_lmem {n rd size a : Nat} {sx : Bool} {c : Chip} (halign : a % 2 ^ size = 0) (hself : isSelf c a = true)
    (hlmem : regionOf (offOf a) (2 ^ size) = some .lmem) (hmapped : mappedRange c false (offOf a) (2 ^ size) = true)
    (hsound : errWords c (rangeFrom (offOf a) (2 ^ size)) = []) : ctxLoad n rd size sx a c =
      pushAcc n ((newAcc .load rd size sx a).with (.done (lmemNat c (offOf a) (2 ^ size)))) c := by
  unfold ctxLoad
  simp [badAccess_lmem halign hlmem hmapped, hself, hlmem, localLoad, eccRead_sound hsound]

theorem ctxAmo_bad {op : Nat} {o : SeqOp} {b v : W64} {a : Nat} {c : Chip}
    (h : opSize o < 2 ∨ a % 2 ^ opSize o ≠ 0 ∨ regionOf (offOf a) (2 ^ opSize o) ≠ some .lmem) :
    ctxAmo op o b v a c = faultHere o.ctx .addrUnmapped c := if_pos h

/-- An offset is aligned as its address is. -/
theorem offOf_mod {a k : Nat} (hk : k ≤ 3) : offOf a % 2 ^ k = a % 2 ^ k := by
  have hdvd : 2 ^ k ∣ 2 ^ 44 := Nat.pow_dvd_pow 2 (by omega)
  have hoff : offOf a = a % 2 ^ 44 := by simp [offOf, bits_eq]
  rw [hoff, Nat.mod_mod_of_dvd _ hdvd]

/-- An atomic on LMEM of this core takes the old value and stores the new one. -/
theorem ctxAmo_lmem {op : Nat} {o : SeqOp} {b v : W64} {a : Nat} {c : Chip} (hop : 2 ≤ op ∧ op ≤ 5) (hlo : 2 ≤ opSize o)
    (hhi : opSize o ≤ 3) (halign : a % 2 ^ opSize o = 0) (hself : isSelf c a = true)
    (hlmem : regionOf (offOf a) (2 ^ opSize o) = some .lmem) (hsound : errWords c (rangeFrom (offOf a) (2 ^ opSize o)) = []) :
    let n := 2 ^ opSize o
    let old := lmemNat c (offOf a) n
    ctxAmo op o b v a c = pushAcc o.ctx ((newAcc .amo (opRd o) (opSize o) false a).with (.done old))
      (lmemWrite (offOf a) (leBytes n (amoStores op (8 * n) old b.toNat v.toNat)) c) := by
  have hgood : ¬ (opSize o < 2 ∨ a % 2 ^ opSize o ≠ 0 ∨ regionOf (offOf a) (2 ^ opSize o) ≠ some .lmem) := by
    simp only [halign, hlmem, ne_eq, not_true_eq_false, or_false]
    omega
  have hserved : ¬ ((opSize o ≠ 2 ∧ opSize o ≠ 3) ∨ op < 2 ∨ 5 < op ∨ offOf a % 2 ^ opSize o ≠ 0 ∨
      (!inLmem (offOf a) (2 ^ opSize o)) = true) := by
    rw [offOf_mod hhi, inLmem_of_region hlmem]
    simp [halign]
    omega
  unfold ctxAmo
  simp only [if_neg hgood, hself, if_true, serveAmo, if_neg hserved, eccRead_sound hsound, Bool.false_eq_true, if_false]

/-- Settles O10. -/
theorem memoryInstructions : Obligations.MemoryInstructions := by
  unfold Obligations.MemoryInstructions
  refine ⟨⟨fun o => ⟨fires_of rfl fun _ => rfl, fires_of rfl fun _ => rfl⟩, fun o x => rfl, fun c n rd size a sx v => ⟨fun h =>
    ⟨ctxLoad_misaligned h, ctxStore_misaligned h⟩, fun halign hself hlmem hmapped hsound =>
    ctxLoad_lmem halign hself hlmem hmapped hsound⟩⟩, fun o => ?fires, fun op o b v a c h => ctxAmo_bad h, ?values⟩
  case fires =>
    exact ⟨fires_via rfl (seqAmo 2 false o) (fun _ => rfl) (fun _ => rfl) fun _ _ => rfl,
      fires_via rfl (seqAmo 3 false o) (fun _ => rfl) (fun _ => rfl) fun _ _ => rfl,
      fires_via rfl (seqAmo 4 true o) (fun _ => rfl) (fun _ => rfl) fun _ _ => rfl,
      fires_via rfl (seqAmo 5 false o) (fun _ => rfl) (fun _ => rfl) fun _ _ => rfl⟩
  case values =>
    intro o b v a c n off old w acts hlo hhi halign hself hlmem hsound
    have hop (op : Nat) (h : 2 ≤ op ∧ op ≤ 5) := ctxAmo_lmem (b := b) (v := v) h hlo hhi halign hself hlmem hsound
    exact ⟨hop 2 (by decide), hop 3 (by decide), hop 4 (by decide), hop 5 (by decide)⟩

end Sys2Proof.Machine
end

section
/-! SUPPORT. Waits of contexts and the commands of the SEQ page (R97, R99, R100, R104, R117, R123, R125, R183): what ends a wait from
outside, and what each command does in each state of the selected context. -/

namespace Sys2Proof.Machine

/-! ## Returns, acknowledgements and lines -/

theorem loadReturn_done {n tag v : Nat} {a : Acc} {c : Chip} (hends : (ctxOf c n).ending = false)
    (hfound : ((ctxOf c n).accs.find? fun b => b.tag == tag && b.loading) = some a) (hres : a.res = .done v) :
    loadReturn n tag c = updCtx n (fun x => x.setReg a.rd (a.value v)) (updAcc n tag (fun b => { b with returned := true }) c) := by
  simp [loadReturn, hfound, hres, hends]

theorem loadReturn_failed {n tag code : Nat} {a : Acc} {c : Chip} (hfaultable : (ctxOf c n).faultable = true)
    (hfound : ((ctxOf c n).accs.find? fun b => b.tag == tag && b.loading) = some a) (hres : a.res = .failed code) :
    loadReturn n tag c = faultCtx n code false (updCtx n (fun x => { x with pc := a.pc })
      (updAcc n tag (fun b => { b with returned := true, acked := true }) c)) := by
  simp [loadReturn, hfound, hres, hfaultable]

theorem storeAck_done {n tag v : Nat} {a : Acc} {c : Chip}
    (hfound : ((ctxOf c n).accs.find? fun b => b.tag == tag && b.storing) = some a) (hres : a.res = .done v) :
    storeAck n tag c = updAcc n tag (fun b => { b with acked := true }) c := by
  simp [storeAck, hfound, hres]

theorem storeAck_failed {n tag code : Nat} {a : Acc} {c : Chip} (hkind : a.kind = .store) (hfaultable : (ctxOf c n).faultable = true)
    (hfound : ((ctxOf c n).accs.find? fun b => b.tag == tag && b.storing) = some a) (hres : a.res = .failed code) :
    storeAck n tag c = faultCtx n code true (updAcc n tag (fun b => { b with acked := true }) c) := by
  simp [storeAck, hfound, hres, hkind, hfaultable]

theorem fetchFill_local {n line off : Nat} {c : Chip} (hst : (ctxOf c n).st = .waiting) (hwait : (ctxOf c n).wait = .fetch line)
    (hlocal : lineLocal c line = some off) : fetchFill n c =
      if (eccRead 2 (rangeFrom off 64) c).1 then faultHere n .eccUncorr (eccRead 2 (rangeFrom off 64) c).2
      else fillLine line (lmemBytes (eccRead 2 (rangeFrom off 64) c).2 off 64) (eccRead 2 (rangeFrom off 64) c).2 := by
  unfold fetchFill
  dsimp only
  rw [hst, hwait]
  simp only [hlocal]

theorem up_defined {c : Chip} (h : isUp c = true) : c.core.phase ≠ .undefined := by
  rw [(isUp_iff c).1 h]; decide

/-- A command that acts in P0, P1 and P2 answers with its effect. -/
theorem answers_up {i : Instr} {f : Chip → Chip} {s : State} {d : Chip} (hx : ∀ s, exec i s = run (inUp f) s)
    (hup : isUp s.chip = true) (e : f s.chip = d) : Answers i s d := by
  unfold Answers
  rw [hx s, run_eq (up_defined hup), inUp_eq hup, e]

/-! ## Deadlines -/

/-- A release makes a waiting context READY exactly where its wait is over. -/
theorem releaseCtx_ready {c : Chip} {x : Ctx} (h : waitsNow x = true) : (releaseCtx c x).st = .ready ↔ x.due c = true := by
  have hst : x.st = .waiting := of_decide_eq_true (Bool.and_eq_true_iff.1 h).1
  have hgoes {b : Bool} {y : Ctx} (hy : y.st = .ready) : (if b = true then y else x).st = .ready ↔ b = true := by
    cases b <;> simp [hy, hst]
  have hstays : ¬ x.st = .ready := by rw [hst]; decide
  unfold releaseCtx Ctx.due
  simp only [h, Bool.not_true, Bool.false_eq_true, if_false, Bool.true_and]
  cases x.wait with
  | counter v p t =>
    cases p with
    | none => exact iff_of_false hstays Bool.false_ne_true
    | some p => exact hgoes rfl
  | summary => cases x.sums <;> simp [hst, Ctx.goOn]
  | ringSpace n k =>
    by_cases hk : k ≤ (ringOf c n).freeSlots
    · simp [hk, Ctx.goOn]
    · simp [hk, hst]
  | memory m => exact hgoes rfl
  | barrier l t => exact hgoes rfl
  | none | fetch _ | time _ | flush => exact iff_of_false hstays Bool.false_ne_true

theorem waitsNow_of_expired {c : Chip} {n : Nat} (h : waitExpired c n = true) : waitsNow (ctxOf c n) = true := by
  unfold waitExpired at h
  split at h
  · simp only [Bool.and_eq_true] at h
    obtain ⟨⟨⟨hwaits, _⟩, _⟩, _⟩ := h
    exact hwaits
  · exact absurd h Bool.false_ne_true

theorem waitTimeout_awake {c : Chip} {n : Nat} (ha : isAwake c = true) : waitTimeout n c = timeOut n c := by
  unfold waitTimeout
  rw [awake_up ha, awake_not_asleep ha]
  cases h : waitExpired c n with
  | true => rfl
  | false => simp [timeOut, h]

theorem sleeptDeadline_due {c : Chip} {n t : Nat} (ha : isAwake c = true) (hwaits : waitsNow (ctxOf c n) = true)
    (hwait : (ctxOf c n).wait = .time t) (hdue : t ≤ now c) : sleeptDeadline n c = wakePast n c := by
  have hover : sleepOver c n = true := by simp [sleepOver, hwaits, hwait, hdue]
  have hexit : wakeExit 2 c = c := by simp [wakeExit, leaveState, ((isAwake_iff c).1 ha).2]
  simp [sleeptDeadline, awake_up ha, hover, hexit, awake_not_asleep ha, sleepEnds]

/-- Settles O18. -/
theorem waitsEnd : Obligations.WaitsEnd := by
  unfold Obligations.WaitsEnd
  refine ⟨fun s n tag a hup hends hfound => ⟨fun v hres => ?_, fun code hres hfaultable => ?_⟩,
    fun s n tag a hup hfound => ⟨fun v hres => ?_, fun code hres hkind hfaultable => ?_⟩,
    fun s n line off hawake hst hwait hlocal => ?_, fun n => ⟨?flush, ?sleep, ?expired, ?released, ?running⟩⟩
  · exact answers_up (fun _ => rfl) hup (loadReturn_done hends hfound hres)
  · exact answers_up (fun _ => rfl) hup (loadReturn_failed hfaultable hfound hres)
  · exact answers_up (fun _ => rfl) hup (storeAck_done hfound hres)
  · exact answers_up (fun _ => rfl) hup (storeAck_failed hkind hfaultable hfound hres)
  · unfold Answers
    rw [show exec (.fetchFill n) s = run (inP0 (fetchFill n)) s from rfl, run_eq (awake_defined hawake), inP0_eq hawake,
      fetchFill_local hst hwait hlocal]
  case flush =>
    refine acts_of (g := iflushDone n) (fun _ => rfl) fun c ha ⟨hwaits, hwait⟩ => ?_
    simp [iflushDone, hwaits, hwait, ha, flushIcache]
  case sleep =>
    exact acts_of (g := sleeptDeadline n) (fun _ => rfl) fun c ha ⟨hwaits, t, hwait, hdue⟩ => sleeptDeadline_due ha hwaits hwait hdue
  case expired =>
    refine acts_of (g := waitTimeout n) (fun _ => rfl) fun c ha ⟨hexpired, hdue⟩ => ?_
    have hstays : ¬ (releaseCtx c (ctxOf c n)).st = .ready := by
      rw [releaseCtx_ready (waitsNow_of_expired hexpired), hdue]; exact Bool.false_ne_true
    rw [waitTimeout_awake ha, timeOut, if_pos hexpired, if_neg hstays]
  case released =>
    refine acts_of (g := waitTimeout n) (fun _ => rfl) fun c ha ⟨hexpired, hdue⟩ => ?_
    rw [waitTimeout_awake ha, timeOut, if_pos hexpired, if_pos ((releaseCtx_ready (waitsNow_of_expired hexpired)).2 hdue)]
  case running =>
    refine acts_of (g := waitTimeout n) (fun _ => rfl) fun c ha hrunning => ?_
    rw [waitTimeout_awake ha, timeOut, if_neg (by rw [hrunning]; exact Bool.false_ne_true)]
    rfl

/-! ## Commands of the SEQ page -/

theorem ctxCommand_eq {f : Nat → Chip → Chip} {c : Chip} (h : c.seq.ctxSel < 1024) : ctxCommand f c = f c.seq.ctxSel c := if_pos h

/-- A command on a selected context that exists acts as stated where a condition holds. -/
theorem acts_ctxCommand {i : Instr} {v : W64} {f : Nat → Chip → Chip} {k : Chip → Chip} {p : Chip → Prop}
    (hx : ∀ s, exec i s = run (regWrite pSEQ 0x110 v (ctxCommand f)) s) (e : ∀ c, p c → f c.seq.ctxSel c = k c) :
    Acts i (fun c => c.seq.ctxSel < 1024 ∧ p c) k :=
  acts_regWrite hx fun c ⟨hsel, hp⟩ => (ctxCommand_eq hsel).trans (e c hp)

theorem ctxStart_free {n : Nat} {c : Chip} (h : (ctxOf c n).st = .free ∧ pcFault (ctxOf c n).pc = none) :
    ctxStart n c = startCtx n (ctxOf c n).pc (ctxOf c n).startArg c := by simp [ctxStart, h]

theorem ctxStart_other {n : Nat} {c : Chip} (h : (ctxOf c n).st ≠ .free ∨ pcFault (ctxOf c n).pc ≠ none) : ctxStart n c = c := by
  rcases h with h | h <;> simp [ctxStart, h]

theorem ctxStop_goes {n : Nat} {c : Chip} (hst : (ctxOf c n).st = .ready ∨ (ctxOf c n).st = .waiting) (hends : (ctxOf c n).ending = false) :
    ctxStop n c = settleStop n (updCtx n (fun x => { x with stopping := true, quiesceStop := false }) c) :=
  if_pos ⟨hst, by rw [hends]; decide⟩

/-- A STOP waits for the data of loads and atomics. -/
theorem settleStop_waits {n : Nat} {x : Ctx} {c : Chip} (h : x.accs.any Acc.loading = true) :
    settleStop n (setCtx n x c) = setCtx n x c := by simp [settleStop, h]

theorem settleStop_now {n : Nat} {x : Ctx} {c : Chip} (hstop : x.stopping = true) (h : x.accs.any Acc.loading = false) :
    settleStop n (setCtx n x c) = setCtx n { x with stopping := false, st := .stopped, waitedBefore := waitedNs c x } c := by
  have hx : x ≠ Ctx.idle := by rintro rfl; exact absurd hstop (by decide)
  simp only [settleStop, ctxOf_setCtx, hstop, h, Bool.not_false, Bool.and_self, if_true, setCtx_setCtx n x _ c hx]
  rfl

theorem ctxStop_other {n : Nat} {c : Chip} (h : (ctxOf c n).st = .free ∨ (ctxOf c n).st = .stopped ∨ (ctxOf c n).st = .faulted) :
    ctxStop n c = c := by rcases h with h | h | h <;> simp [ctxStop, h]

theorem ctxResume_other {n : Nat} {c : Chip} (h : (ctxOf c n).st = .free ∨ (ctxOf c n).st = .ready ∨ (ctxOf c n).st = .waiting) :
    ctxResume n c = c := by rcases h with h | h | h <;> simp [ctxResume, h]

/-- A KILL waits for every access of the context (R96). -/
theorem settleEnd_waits {n : Nat} {x : Ctx} {c : Chip} (h : x.accs ≠ []) : settleEnd n (setCtx n x c) = setCtx n x c := by
  simp [settleEnd, h]

theorem settleEnd_now {n : Nat} {x : Ctx} {c : Chip} (hend : x.ending = true) (h : x.accs = [])
    (harg : x.startArg = (ctxOf c n).startArg) : settleEnd n (setCtx n x c) = freeCtx n c := by
  have hx : x ≠ Ctx.idle := by rintro rfl; exact absurd hend (by decide)
  simp [settleEnd, hend, h, freeCtx, setCtx_setCtx n x _ c hx, harg]

/-- Settles O19. -/
theorem contextControl : Obligations.ContextControl := by
  unfold Obligations.ContextControl
  refine ⟨?commands, ?registers, does_regWrite, does_regWrite⟩
  case commands =>
    dsimp only
    refine ⟨acts_ctxCommand (fun _ => rfl) fun c h => ctxStart_free h, acts_ctxCommand (fun _ => rfl) fun c h => ctxStart_other h,
      acts_ctxCommand (fun _ => rfl) ?stop, acts_ctxCommand (fun _ => rfl) ?stopWaits,
      acts_ctxCommand (fun _ => rfl) fun c h => ctxStop_other h, acts_ctxCommand (fun _ => rfl) fun c h => if_pos h,
      acts_ctxCommand (fun _ => rfl) fun c h => ctxResume_other h, acts_ctxCommand (fun _ => rfl) fun c h => if_pos h,
      acts_ctxCommand (fun _ => rfl) ?kill, acts_ctxCommand (fun _ => rfl) ?killWaits⟩
    case stop => exact fun c ⟨hst, hends, haccs⟩ => (ctxStop_goes hst hends).trans (settleStop_now rfl haccs)
    case stopWaits => exact fun c ⟨hst, hends, haccs⟩ => (ctxStop_goes hst hends).trans (settleStop_waits haccs)
    case kill => exact fun c ⟨hst, haccs⟩ => (if_neg hst).trans (settleEnd_now rfl haccs rfl)
    case killWaits => exact fun c ⟨hst, haccs⟩ => (if_neg hst).trans (settleEnd_waits haccs)
  case registers =>
    intro v
    have hexists {c : Chip} (h : c.seq.ctxSel < 1024) : ¬ Config.contexts ≤ c.seq.ctxSel := Nat.not_le.2 h
    refine ⟨acts_regWrite (fun _ => rfl) ?pc, acts_regWrite (fun _ => rfl) ?pcKept, acts_regWrite (fun _ => rfl) ?arg,
      acts_regWrite (fun _ => rfl) ?reg, acts_regWrite (fun _ => rfl) ?preds, acts_regWrite (fun _ => rfl) ?regKept⟩
    case pc => rintro c ⟨hsel, h | h | h⟩ <;> simp [ctxPcWrite, hexists hsel, h, updCtx]
    case pcKept => rintro c ⟨hsel, h | h⟩ <;> simp [ctxPcWrite, hexists hsel, h]
    case arg => exact fun c ⟨hsel, h⟩ => by simp [regdataWrite, hexists hsel, h, updCtx]
    case reg => rintro c ⟨⟨hsel, h | h⟩, hidx⟩ <;> simp [regdataWrite, hexists hsel, h, updCtx, hidx]
    case preds => rintro c ⟨⟨hsel, h | h⟩, hidx⟩ <;> simp [regdataWrite, hexists hsel, h, updCtx, hidx, Ctx.setPreds]
    case regKept => rintro c ⟨hsel, h | h⟩ <;> simp [regdataWrite, hexists hsel, h]

end Sys2Proof.Machine
end

section
/-! SUPPORT. Rings (R135, R138 to R148, R155, R157): fetch, issue and completion of a descriptor, the doorbell, the ring commands and
the queue of notices. -/

namespace Sys2Proof.Machine

/-! ## Fetch, issue and completion -/

/-- A ring from which descriptors may be fetched (R139). -/
theorem ringFetch_open {n : Nat} {c : Chip} (hn : n < 32768) (hen : (ringOf c n).en = true) (hrun : (ringOf c n).halted = false)
    (hq : (pageOf c pRING).qreq = false) : ringFetch n c =
      match (ringOf c n).descs.find? fun d => decide (d.phase = .refetch) with
      | some d => fetchAt n d.idx (sub32 (ringOf c n).tail d.idx) (fun e c => updRing n (fun r => r.refetched d e) c) c
      | none => fetchAt n (ringOf c n).nextFetch (sub32 (ringOf c n).tail (ringOf c n).nextFetch)
          (fun e c => updRing n (fun r => { r with descs := r.descs ++ [e] }) c) c := by
  have hexists : ¬ Config.rings ≤ n := Nat.not_le.2 hn
  refine if_neg ?_
  simp [hexists, hen, hrun, hq]

/-- A ring whose first descriptor waits for its start has a checked descriptor. -/
theorem waitsStart_of_checked {r : Ring} {d : Desc} (h : r.descs.find? (fun d => decide (d.phase = .checked)) = some d) :
    r.waitsStart = true :=
  List.any_eq_true.2 ⟨d, List.mem_of_find?_eq_some h, List.find?_some (p := fun d : Desc => decide (d.phase = .checked)) h⟩

theorem waitsStart_of_none {r : Ring} (h : r.descs.find? (fun d => decide (d.phase = .checked)) = none) : r.waitsStart = false :=
  List.any_eq_false.2 (List.find?_eq_none.1 h)

theorem descriptorIssue_ready {n : Nat} {c : Chip} {d : Desc} (hnone : (ringOf c n).descs.find? (fun d => decide (d.phase = .checked)) = none)
    (hready : readyToIssue c n = some d) (htaken : ringTaken c (ringOf c n).cls = some n)
    (hpage : pageStopped c (classPage (ringOf c n).cls) = false) : descriptorIssue n c =
      startInTurn n (issueDesc (classTable (ringOf c n).cls) (classReads (ringOf c n).cls) (ringOf c n).cls n d
        { c with ring.lastTaken := SMap.set 0 c.ring.lastTaken (ringOf c n).cls (n + 1) }) := by
  simp [descriptorIssue, waitsStart_of_none hnone, hready, htaken, hpage]

theorem descriptorIssue_checked {n : Nat} {c : Chip} {d : Desc} (h : (ringOf c n).descs.find? (fun d => decide (d.phase = .checked)) = some d) :
    descriptorIssue n c = if inTurn c (ringOf c n).cls n then retryDesc n d.idx c else c := by
  simp [descriptorIssue, waitsStart_of_checked h, startInTurn, h]

/-- Settles O21. -/
theorem descriptorSteps : Obligations.DescriptorSteps := by
  unfold Obligations.DescriptorSteps
  refine ⟨fun n hn => ?next, fun n d hn => ?again, fun n d => ?ready, fun n d => ?turn, fun n d => ?outOfTurn, fun q d => ?complete,
    fun q d => ?nop, fun q => works_row (fun _ => rfl) fun c d hr _ => ?spawn⟩
  case next => exact acts_inP0 (fun _ => rfl) fun c ⟨hen, hrun, hq, hnone⟩ => by rw [ringFetch_open hn hen hrun hq, hnone]
  case again => exact acts_inP0 (fun _ => rfl) fun c ⟨hen, hrun, hq, hsome⟩ => by rw [ringFetch_open hn hen hrun hq, hsome]
  case ready => exact acts_inP0 (fun _ => rfl) fun c ⟨hnone, hready, htaken, hpage⟩ => descriptorIssue_ready hnone hready htaken hpage
  case turn => exact acts_inP0 (fun _ => rfl) fun c ⟨hsome, hturn⟩ => (descriptorIssue_checked hsome).trans (if_pos hturn)
  case outOfTurn =>
    exact acts_inP0 (fun _ => rfl) fun c ⟨hsome, hturn⟩ =>
      (descriptorIssue_checked hsome).trans (if_neg (by rw [hturn]; exact Bool.false_ne_true))
  case complete => exact acts_inP0 (fun _ => rfl) fun c ⟨hfound, hcan⟩ => by simp only [descriptorComplete, hfound, hcan, if_true]
  case nop => exact acts_inP0 (fun _ => rfl) fun c ⟨hfound, hopc⟩ => by simp only [descNop, hfound, hopc, if_true]
  case spawn => exact onRunning_eq hr

/-! ## Doorbells and ring commands -/

theorem onRing_eq {n : Nat} {f : Chip → Chip} {c : Chip} (h : n < 32768) : onRing n f c = f c := if_pos h

/-- A doorbell moves the tail of an enabled HOSTFED ring into free slots (R135). -/
theorem doorbell_eq (v : W64) (c : Chip) : let n := v.toNat % 2 ^ 15; let t := v.toNat / 2 ^ 32 % 2 ^ 32
    doorbell v c = if (ringOf c n).en = true ∧ (ringOf c n).hostfed = true ∧ 0 < sub32 t (ringOf c n).tail ∧
        sub32 t (ringOf c n).tail ≤ 2 ^ (ringOf c n).log2 - sub32 (ringOf c n).tail (ringOf c n).head
      then updRing n (fun r => { r with tail := t }) c else updRing n (fun r => { r with dbErr := true }) c := by
  simp only [doorbell, fld_eq, pow_zero, Nat.div_one, Bool.and_eq_true, decide_eq_true_eq, and_assoc]
  rfl

theorem ringResume_running {n : Nat} {c : Chip} (h : (ringOf c n).halted = false) : ringResume n c = c := by
  simp [ringResume, h]

theorem ringRetire_running {b : Bool} {n : Nat} {c : Chip} (h : (ringOf c n).halted = false) : ringRetire b n c = c := by
  simp [ringRetire, h]

theorem ringResume_halted {n : Nat} {c : Chip} {d : Desc} (h : (ringOf c n).halted = true)
    (hfound : (ringOf c n).find (ringOf c n).fidx = some d) : ringResume n c =
      (if (ringOf c n).en then ringFetch n else id)
        (updRing n (fun r => { r with halted := false, fault := 0, rbuf := [], era := r.era + 1, descs := r.descs.map fun e =>
          if e.idx = r.fidx then { Desc.fetched e.idx e.slots [] with phase := .refetch } else e }) c) := by
  unfold ringResume
  simp only [h, hfound, Bool.not_true, Bool.false_eq_true, if_false, Option.isSome_some, if_true]
  cases (ringOf c n).en <;> rfl

/-- The halted descriptor of a ring retires in its turn, with the counter it is to signal. -/
def retireHalted (n : Nat) (d : Desc) (k : Nat) (p : Option Nat) (c : Chip) : Chip :=
  retireFront n k (updRing n (fun r => { r.unhalt.put { d with phase := .completed, silent := true, sigP := p } with
    rbuf := [], era := r.era + 1 }) c)

/-- The counter that a skipped descriptor signals, translated now if it never was. -/
def skipSignal (signal : Bool) (n : Nat) (d : Desc) (c : Chip) : Option Nat × Chip :=
  if !signal ∨ d.words.isEmpty then (none, c)
  else if d.sigP.isSome then (d.sigP, c)
  else ((descCtr n d.idx d.sigCtr c).1.getD none, (descCtr n d.idx d.sigCtr c).2)

theorem ringRetire_halted {b : Bool} {n : Nat} {c : Chip} {d : Desc} (h : (ringOf c n).halted = true)
    (hfound : (ringOf c n).find (ringOf c n).fidx = some d) : ringRetire b n c =
      retireHalted n d (ringOf c n).descs.length (skipSignal b n d c).1 (skipSignal b n d c).2 := by
  have hsignal : skipSignal b n d c =
      (if !b ∨ d.words.isEmpty then ((none : Option Nat), c)
        else if d.sigP.isSome then (d.sigP, c)
        else
          match descCtr n d.idx d.sigCtr c with
          | (some p, c) => (p, c)
          | (none, c) => (none, c)) := by
    unfold skipSignal
    rcases descCtr n d.idx d.sigCtr c with ⟨_ | p, e⟩ <;> rfl
  rw [hsignal]
  unfold ringRetire
  simp only [h, hfound, Bool.not_true, Bool.false_eq_true, if_false]
  rfl

/-- A read of RING_DONE_Q. -/
theorem regRead_doneQ {c : Chip} (ha : isAwake c = true) : regRead pRING 0x148 .doneQRead c = doneQTake c := by
  simp only [regRead, awake_up ha, awake_not_asleep ha, Bool.not_true, Bool.false_and, Bool.false_eq_true, if_false]
  rfl

/-- Settles O22. -/
theorem ringControl : Obligations.RingControl := by
  unfold Obligations.RingControl
  refine ⟨fun v => ⟨acts_regWrite (fun _ => rfl) fun c hok => ?accepted, acts_regWrite (fun _ => rfl) fun c hbad => ?refused⟩,
    fun n d hn => ?halted, fun n hn => ?running, fun p rest => ?notice, ?empty⟩
  case accepted => exact (doorbell_eq v c).trans (if_pos hok)
  case refused => exact (doorbell_eq v c).trans (if_neg hbad)
  case halted =>
    refine ⟨acts_regWrite (fun _ => rfl) fun c ⟨hhalt, hfound, _⟩ => ?resume, acts_regWrite (fun _ => rfl) fun c ⟨hhalt, hfound, _⟩ => ?skip,
      acts_regWrite (fun _ => rfl) fun c ⟨hhalt, hfound, hwords⟩ => ?unread, fun p => acts_regWrite (fun _ => rfl) fun c ⟨hhalt, hfound, hwords, hsig⟩ => ?translated,
      acts_regWrite (fun _ => rfl) fun c ⟨hhalt, hfound, hwords, hsig⟩ => ?untranslated⟩
    case resume => exact (onRing_eq hn).trans (ringResume_halted hhalt hfound)
    case skip => exact (onRing_eq hn).trans (ringRetire_halted hhalt hfound)
    case unread =>
      have hsignal : skipSignal true n d c = (none, c) := by simp [skipSignal, hwords]
      exact (onRing_eq hn).trans ((ringRetire_halted hhalt hfound).trans (by rw [hsignal]; rfl))
    case translated =>
      have hsignal : skipSignal true n d c = (some p, c) := by simp [skipSignal, hwords, hsig]
      exact (onRing_eq hn).trans ((ringRetire_halted hhalt hfound).trans (by rw [hsignal]; rfl))
    case untranslated =>
      have hsignal : skipSignal true n d c = ((descCtr n d.idx d.sigCtr c).1.getD none, (descCtr n d.idx d.sigCtr c).2) := by
        simp [skipSignal, hwords, hsig]
      exact (onRing_eq hn).trans ((ringRetire_halted hhalt hfound).trans (by rw [hsignal]; rfl))
  case running =>
    exact ⟨acts_regWrite (fun _ => rfl) fun c h => (onRing_eq hn).trans (ringResume_running h),
      acts_regWrite (fun _ => rfl) fun c h => (onRing_eq hn).trans (ringRetire_running h),
      acts_regWrite (fun _ => rfl) fun c h => (onRing_eq hn).trans (ringRetire_running h)⟩
  case notice => exact acts_of (fun _ => rfl) fun c ha h => (regRead_doneQ ha).trans (by simp [doneQTake, h])
  case empty =>
    refine acts_of (fun _ => rfl) fun c ha h => (regRead_doneQ ha).trans ?_
    calc doneQTake c = { c with ring.doneQ := c.ring.doneQ, ring.doneOvf := false } := by simp [doneQTake, h]
      _ = _ := rfl

/-- Settles O24. -/
theorem setIndices : Obligations.SetIndices := by
  unfold Obligations.SetIndices
  intro n v hn hv ok
  have hbad (c : Chip) : ok c ↔ ¬ ((ringOf c n).en = true ∨ (ringOf c n).descs.any Desc.inFlight = true) := by
    simp [ok]
  have hvalue : v % 2 ^ 32 = v := Nat.mod_eq_of_lt hv
  refine ⟨acts_regWrite (fun _ => rfl) fun c h => (onRing_eq hn).trans ?_, acts_regWrite (fun _ => rfl) fun c h => (onRing_eq hn).trans ?_⟩
  · rw [hvalue]; exact if_neg ((hbad c).1 h)
  · exact if_pos (not_not.1 fun hn => h ((hbad c).2 hn))

end Sys2Proof.Machine
end

section
/-! SUPPORT. Counters, maps, watches and the bridle lines (R160 to R167, R176 to R180): what a signal can change, registers of the SYNC
page, and the moves of a line. -/

namespace Sys2Proof.Machine

/-! ## Signals -/

/-- A signal changes nothing, or sets its counter, tells the watches and the trace, and may then record a saturation. -/
theorem addCounter_cases (p inc : Nat) (c : Chip) : addCounter p inc c = c ∨ ∃ v d0 d1,
    let d := emit 0x02 pSYNC d0 d1 (watchCross p (ctrOf c p).value v (setCtr p ⟨v, false⟩ c))
    addCounter p inc c = d ∨ addCounter p inc c = recordSat p d := by
  unfold addCounter
  dsimp only
  split
  · exact .inl rfl
  · split
    · exact .inr ⟨_, _, _, .inr rfl⟩
    · exact .inr ⟨_, _, _, .inl rfl⟩

@[simp] theorem watchCross_lmem (p old new : Nat) (c : Chip) : (watchCross p old new c).lmem = c.lmem := rfl
@[simp] theorem recordSat_lmem (p : Nat) (c : Chip) : (recordSat p c).lmem = c.lmem := rfl
@[simp] theorem ctrOf_watchCross (p old new n : Nat) (c : Chip) : ctrOf (watchCross p old new c) n = ctrOf c n := rfl
@[simp] theorem ctrOf_recordSat (p n : Nat) (c : Chip) : ctrOf (recordSat p c) n = ctrOf c n := rfl
@[simp] theorem ctrOf_emit (k p n : Nat) (d0 d1 : W64) (c : Chip) : ctrOf (emit k p d0 d1 c) n = ctrOf c n := rfl

@[simp] theorem addCounter_seq (p inc : Nat) (c : Chip) : (addCounter p inc c).seq = c.seq := by
  rcases addCounter_cases p inc c with h | ⟨v, d0, d1, h | h⟩ <;> rw [h] <;> simp

@[simp] theorem addCounter_ring (p inc : Nat) (c : Chip) : (addCounter p inc c).ring = c.ring := by
  rcases addCounter_cases p inc c with h | ⟨v, d0, d1, h | h⟩ <;> rw [h] <;> simp

@[simp] theorem addCounter_lmem (p inc : Nat) (c : Chip) : (addCounter p inc c).lmem = c.lmem := by
  rcases addCounter_cases p inc c with h | ⟨v, d0, d1, h | h⟩ <;> rw [h] <;> simp

theorem ctrOf_addCounter_other {p n : Nat} (inc : Nat) (c : Chip) (hn : n ≠ p) : ctrOf (addCounter p inc c) n = ctrOf c n := by
  rcases addCounter_cases p inc c with h | ⟨v, d0, d1, h | h⟩ <;> rw [h] <;> simp [ctrOf_setCtr_other _ _ hn]

/-- A signal that fits records nothing. -/
theorem addCounter_fits_pages {c : Chip} {p inc : Nat} (hfits : (ctrOf c p).value + inc ≤ ctrMax) :
    (addCounter p inc c).pages = c.pages := by
  unfold addCounter
  dsimp only
  rw [if_neg (Nat.not_lt.2 hfits)]
  split
  · rfl
  · rfl

/-- Settles O26. -/
theorem signalsAdd : Obligations.SignalsAdd := by
  unfold Obligations.SignalsAdd
  intro c p inc
  have hmax : ctrMax = 0xFFFFFFFFFFFF := rfl
  refine ⟨rfl, fun hgood hinc hfits => ⟨?_, addCounter_fits_pages hfits⟩, fun n hn => ctrOf_addCounter_other inc c hn,
    addCounter_seq p inc c, addCounter_ring p inc c, addCounter_lmem p inc c⟩
  rw [addCounter_value c p inc hgood hinc, Nat.min_eq_left (hmax ▸ hfits)]

/-! ## Registers of counters, maps and watches -/

theorem ctrValWrite_raises {v : W64} {c : Chip} (hgood : (ctrOf c c.sync.ctrSel).poisoned = false)
    (hle : (ctrOf c c.sync.ctrSel).value ≤ v.toNat % 2 ^ 48) : ctrValWrite v c =
      watchCross c.sync.ctrSel (ctrOf c c.sync.ctrSel).value (v.toNat % 2 ^ 48) (setCtr c.sync.ctrSel ⟨v.toNat % 2 ^ 48, false⟩ c) := by
  simp only [ctrValWrite, setCtrVal, fld_eq, pow_zero, Nat.div_one, hgood, hle, Bool.false_eq_true, if_false, if_true]

theorem ctrValWrite_lowers {v : W64} {c : Chip} (hgood : (ctrOf c c.sync.ctrSel).poisoned = false)
    (hlt : v.toNat % 2 ^ 48 < (ctrOf c c.sync.ctrSel).value) : ctrValWrite v c = pageFault pSYNC .ctrMisuse
      { c with sync.misCtr := if c.sync.misV then c.sync.misCtr else c.sync.ctrSel, sync.misV := true } := by
  have hnot : ¬ (ctrOf c c.sync.ctrSel).value ≤ v.toNat % 2 ^ 48 := Nat.not_le.2 hlt
  simp only [ctrValWrite, setCtrVal, fld_eq, pow_zero, Nat.div_one, hgood, hnot, Bool.false_eq_true, if_false]
  rfl

theorem ctrValWrite_frees {v : W64} {c : Chip} (hbad : (ctrOf c c.sync.ctrSel).poisoned = true) : ctrValWrite v c =
    watchCross c.sync.ctrSel 0 (v.toNat % 2 ^ 48) (setCtr c.sync.ctrSel ⟨v.toNat % 2 ^ 48, false⟩ c) := by
  simp only [ctrValWrite, setCtrVal, fld_eq, pow_zero, Nat.div_one, hbad, if_true]

theorem reached_poisoned {c : Chip} {p : Nat} (t : Nat) (h : (ctrOf c p).poisoned = true) : reached c p t = false := by
  simp [reached, h]

theorem ctrRead_poisoned {c : Chip} {p : Nat} (h : (ctrOf c p).poisoned = true) : ctrRead c p = 0xFFFFFFFFFFFF := if_pos h

theorem compatApply_due {k : Nat} {x : InSig} {c : Chip} (h : c.sync.compatHeld[k]? = some x) (hdue : x.tRaise + 1000 ≤ now c) :
    compatApply k c = addCounter x.target x.inc { c with sync.compatHeld := c.sync.compatHeld.eraseIdx k } := by
  simp [compatApply, h, Nat.not_lt.2 hdue]

theorem compatApply_early {k : Nat} {x : InSig} {c : Chip} (h : c.sync.compatHeld[k]? = some x) (hearly : now c < x.tRaise + 1000) :
    compatApply k c = c := by
  simp [compatApply, h, hearly]

/-- Settles O25. -/
theorem syncRegisters : Obligations.SyncRegisters := by
  unfold Obligations.SyncRegisters
  refine ⟨⟨fun v => ?values, fun n hn => ?ecc, fun c p t h => ?poisoned⟩, ⟨fun v => ?maps, fun x v hx hv => ?drops, ?global, does_regWrite⟩,
    ⟨fun w v hw => ?watch, fun v => ?control, fun k x => ?applies, fun k x => ?held⟩⟩
  case values =>
    exact ⟨acts_regWrite (fun _ => rfl) fun c ⟨hgood, hle⟩ => ctrValWrite_raises hgood hle,
      acts_regWrite (fun _ => rfl) fun c ⟨hgood, hlt⟩ => ctrValWrite_lowers hgood hlt,
      acts_regWrite (fun _ => rfl) fun c hbad => ctrValWrite_frees hbad,
      acts_regWrite (fun _ => rfl) fun c _ => by simp [ctrAddWrite, fld_eq]⟩
  case ecc =>
    refine (runs_inUp (h := fun _ => True) (fun _ => rfl) fun c _ => ?_).acts
    have hexists : ¬ Config.counters ≤ n := Nat.not_le.2 hn
    rw [if_pos (show n < Config.counters from hn), counterEcc, if_neg hexists]
    rfl
  case poisoned => exact ⟨reached_poisoned t h, ctrRead_poisoned h, fun inc => addCounter_poisoned c p inc h⟩
  case maps =>
    refine ⟨acts_regWrite (fun _ => rfl) fun c hsel => (if_pos hsel).trans ?_, acts_regWrite (fun _ => rfl) fun c hsel => if_neg (Nat.not_lt.2 hsel)⟩
    simp only [fld_eq, inLmem, Nat.mul_comm 64]
    rfl
  case drops =>
    have hx' : x % 65536 = x := Nat.mod_eq_of_lt (by omega)
    have hv' : v % 65536 = v := Nat.mod_eq_of_lt hv
    exact ⟨acts_regWrite (fun _ => rfl) fun c _ => by rw [hx', hv']; rfl,
      acts_regWrite (fun _ => rfl) fun c _ => by rw [hx']; rfl⟩
  case global => exact acts_regWrite (fun _ => rfl) fun c _ => by simp [invGlobal, dropTrans]
  case watch =>
    refine acts_regWrite (fun _ => rfl) fun c _ => ?_
    rw [if_pos hw, watchWrite, if_neg (Nat.not_le.2 hw)]
    simp only [fld_eq, pow_zero, Nat.div_one]
  case control =>
    refine acts_regWrite (fun _ => rfl) fun c _ => ?_
    rw [watchCtlWrite, rangeFrom_zero]
    rfl
  case applies => exact runs_inUp (fun _ => rfl) fun c ⟨hx, hdue⟩ => compatApply_due hx hdue
  case held => exact runs_inUp (fun _ => rfl) fun c ⟨hx, hearly⟩ => compatApply_early hx hearly

/-! ## Bridle lines -/

/-- What the links do, in P0, P1, P2 and during a warm start. -/
theorem links_onLink {i : Instr} {f k : Chip → Chip} {h : Chip → Prop} (hx : ∀ s, exec i s = run (onLink f) s)
    (e : ∀ c, h c → f c = k c) : Links i h k := takes_of hx fun c ⟨hup, hc⟩ => (if_pos hup).trans (e c hc)

/-- Setting bit 0 of a value leaves its other fields. -/
theorem fld_or_one (v : W64) {a : Nat} (b : Nat) (ha : 0 < a) : fld (v ||| 1#64) a b = fld v a b := by
  have hone : 1 >>> a = 0 := by rw [Nat.shiftRight_eq_div_pow, Nat.div_eq_of_lt (Nat.one_lt_two_pow (by omega))]
  simp only [fld, bits, BitVec.toNat_or, BitVec.toNat_ofNat, Nat.shiftRight_or_distrib]
  norm_num [hone]

theorem idleStep_idle (x : Line) (h : x.st = .idle) : x.idleStep =
    if (x.gen + 1) * x.count ≤ x.arrivals then { x with st := .arrived } else x := by simp [Line.idleStep, h]

@[simp] theorem idleStep_arrivals (x : Line) : x.idleStep.arrivals = x.arrivals := by unfold Line.idleStep; split <;> rfl

theorem barCfgWrite_enables {v : W64} {c : Chip} (h : (barOf c c.sync.barSel).en = false) (hv : bitAt v 0 = true) : barCfgWrite v c =
    let l := c.sync.barSel
    let d := updBar l (fun _ => { barOf c l with localCount := fld v 8 8, hold := fld v 16 8, en := true, st := .idle, arrivals := 0, gen := 0 }) c
    { d with seq.ctxs := SMap.mapVal .idle (fun _ y => { y with barTarget := SMap.erase y.barTarget l }) d.seq.ctxs } := by
  unfold barCfgWrite
  simp only [h, hv, Bool.false_eq_true, if_false, Bool.not_false, Bool.and_self, if_true]

theorem barCfgWrite_on {v : W64} {c : Chip} (h : (barOf c c.sync.barSel).en = true) (hv : bitAt v 0 = true) :
    barCfgWrite v c = updBar c.sync.barSel id c := by
  unfold barCfgWrite
  simp only [h, hv, if_true, Bool.not_true, Bool.and_false, Bool.false_and, Bool.false_eq_true, if_false]
  rfl

theorem barCfgWrite_disables {v : W64} {c : Chip} (h : (barOf c c.sync.barSel).en = true) (hv : bitAt v 0 = false) :
    barCfgWrite v c = updBar c.sync.barSel (fun x => { x with en := false, st := .disabled }) c := by
  unfold barCfgWrite
  simp only [h, hv, if_true, Bool.not_true, Bool.not_false, Bool.and_self, Bool.false_eq_true, if_false]
  rfl

@[simp] theorem barOf_updCtx (n l : Nat) (f : Ctx → Ctx) (c : Chip) : barOf (updCtx n f c) l = barOf c l := rfl

/-- Settles O28. -/
theorem bridleLines : Obligations.BridleLines := by
  unfold Obligations.BridleLines
  refine ⟨⟨fun l hl => ?moves, fun v => ?config⟩, fun c n l => ⟨fun hon => ?counted, fun hoff => ?stray⟩⟩
  case moves =>
    have hexists : ¬ 8 ≤ l := Nat.not_le.2 hl
    refine ⟨links_onLink (fun _ => rfl) fun c _ => if_neg hexists, links_onLink (fun _ => rfl) fun c _ => if_neg hexists,
      links_onLink (fun _ => rfl) fun c _ => (if_neg hexists).trans (congrArg (updBar l · c) (funext fun x => ?_))⟩
    dsimp only
    rw [idleStep_idle _ rfl]
    rfl
  case config =>
    have hset : bitAt (v ||| 1#64) 0 = true := by simp [bitAt]
    have hclear : bitAt (v &&& ~~~(1#64)) 0 = false := by simp [bitAt]
    refine ⟨acts_regWrite (fun _ => rfl) fun c hoff => (barCfgWrite_enables hoff hset).trans ?_,
      acts_regWrite (fun _ => rfl) fun c hon => barCfgWrite_on hon hset,
      acts_regWrite (fun _ => rfl) fun c hon => barCfgWrite_disables hon hclear⟩
    simp only [fld_or_one v 8 (show 0 < 8 by decide), fld_or_one v 8 (show 0 < 16 by decide), fld_eq]
  case counted =>
    unfold barArrive
    simp only [if_neg hon]
    refine ⟨?_, ?_⟩
    · rw [barOf_updCtx, barOf_updBar, idleStep_arrivals]
    · rw [ctxOf_updCtx, SMap.get_set_same]
  case stray =>
    unfold barArrive
    simp only [if_pos hoff]
    refine ⟨?_, ?_, ?_⟩
    · rw [barOf_updCtx, barOf_updBar]
    · rw [barOf_updCtx, barOf_updBar]
    · rw [ctxOf_updCtx, SMap.get_erase_same]

end Sys2Proof.Machine
end

section
/-! SUPPORT. Local memory (R188 to R194, R201, R202): writes and poison, arbitration shares, and the rows of scrubbing and errors. -/

namespace Sys2Proof.Machine

/-! ## Writes -/

/-- What a write of consecutive bytes changes, where no word refuses its bytes: they read back. -/
theorem get_lmemWrite_written {off : Nat} {bs : List Byte} {c : Chip} (h : partialBad [] (cellsAt off bs) c = []) {k : Nat}
    (hk : k < bs.length) : Mem.get (lmemWrite off bs c).lmem.mem (off + k) = bs[k] := by
  rw [lmemWrite_mem h]
  refine Mem.get_foldl_mem _ _ _ _ (fun p hp hat => ?_) ⟨_, mem_cellsAt.2 ⟨k, hk, rfl⟩, rfl⟩
  obtain ⟨j, hj, rfl⟩ := mem_cellsAt.1 hp
  obtain rfl : j = k := Nat.add_left_cancel hat
  rfl

/-- And every other byte reads as before. -/
theorem get_lmemWrite_other {off : Nat} {bs : List Byte} {c : Chip} (h : partialBad [] (cellsAt off bs) c = []) {a : Nat}
    (ha : a < off ∨ off + bs.length ≤ a) : Mem.get (lmemWrite off bs c).lmem.mem a = Mem.get c.lmem.mem a := by
  rw [lmemWrite_mem h]
  refine Mem.get_foldl_other _ _ _ fun p hp => ?_
  obtain ⟨j, hj, rfl⟩ := mem_cellsAt.1 hp
  dsimp only
  omega

/-- Bytes within one word lie in that word alone. -/
theorem mem_cellsAt_word {w k : Nat} {bs : List Byte} (h : k + bs.length ≤ 8) {p : Nat × Byte} (hp : p ∈ cellsAt (8 * w + k) bs) :
    p.1 / 8 = w := by
  obtain ⟨j, hj, rfl⟩ := mem_cellsAt.1 hp
  dsimp only
  omega

theorem mem_partialBad {kept : List Nat} {cells : List (Nat × Byte)} {c : Chip} {p : Nat × WordErr} : p ∈ partialBad kept cells c ↔
    p ∈ c.lmem.ecc ∧ (∃ q ∈ cells, q.1 / 8 = p.1) ∧ coversWord kept cells p.1 = false ∧ p.2.bad = true := by
  simp only [partialBad, partialErr, errWords, List.mem_filter, List.any_eq_true, List.mem_map, beq_iff_eq, Bool.not_eq_true']
  constructor
  · rintro ⟨⟨⟨hlisted, a, ⟨q, hq, rfl⟩, hqw⟩, hcovers⟩, hbad⟩
    exact ⟨hlisted, ⟨q, hq, hqw⟩, hcovers, hbad⟩
  · rintro ⟨hlisted, ⟨q, hq, hqw⟩, hcovers, hbad⟩
    exact ⟨⟨⟨hlisted, q.1, ⟨q, hq, rfl⟩, hqw⟩, hcovers⟩, hbad⟩

theorem mem_rangeFrom {a lo n : Nat} : a ∈ rangeFrom lo n ↔ lo ≤ a ∧ a < lo + n := by
  induction n generalizing lo with
  | zero => simp only [rangeFrom, List.not_mem_nil, false_iff]; omega
  | succ n ih => simp only [rangeFrom, List.mem_cons, ih]; omega

/-- Consecutive bytes cover a word if it lies among them. -/
theorem coversWord_cellsAt (off w : Nat) (bs : List Byte) :
    coversWord [] (cellsAt off bs) w = true ↔ off ≤ 8 * w ∧ 8 * w + 8 ≤ off + bs.length := by
  have hany (a : Nat) : ((cellsAt off bs).any fun p => p.1 == a) = true ↔ off ≤ a ∧ a < off + bs.length := by
    rw [List.any_eq_true]
    refine ⟨fun ⟨p, hp, hpa⟩ => ?_, fun ⟨hlo, hhi⟩ => ⟨_, mem_cellsAt.2 ⟨a - off, by omega, rfl⟩, by simp; omega⟩⟩
    obtain ⟨k, hk, rfl⟩ := mem_cellsAt.1 hp
    simp only [beq_iff_eq] at hpa
    omega
  simp only [coversWord, List.all_eq_true, mem_rangeFrom, Bool.and_eq_true, hany, List.contains_nil, Bool.not_false, and_true]
  refine ⟨fun h => ⟨(h (8 * w) (by omega)).1, ?_⟩, fun ⟨hlo, hhi⟩ a ha => by omega⟩
  have := (h (8 * w + 7) (by omega)).2
  omega

/-- A whole write is refused by no word. -/
theorem partialBad_whole (c : Chip) (w : Nat) {bs : List Byte} (h : bs.length = 8) : partialBad [] (cellsAt (8 * w) bs) c = [] := by
  refine List.eq_nil_iff_forall_not_mem.2 fun p hp => ?_
  obtain ⟨_, ⟨q, hq, hqw⟩, hcovers, _⟩ := mem_partialBad.1 hp
  obtain rfl : w = p.1 := (mem_cellsAt_word (k := 0) (by omega) hq).symm.trans hqw
  exact Bool.noConfusion (hcovers.symm.trans ((coversWord_cellsAt _ _ _).2 (by omega)))

/-- The stored error of a word after a write that strikes no armed injection. -/
theorem ecc_lmemWriteCells {kept : List Nat} {cells : List (Nat × Byte)} {c : Chip} (harm : c.lmem.injArm = false) (w : Nat) :
    SMap.get WordErr.ok (lmemWriteCells kept cells c).lmem.ecc w =
      if ((cells.filter fun p => !(((partialBad kept cells c).map Prod.fst).contains (p.1 / 8))).any fun p => p.1 / 8 == w) = true
      then .ok else SMap.get WordErr.ok c.lmem.ecc w := by
  unfold lmemWriteCells
  simp only [harm, Bool.false_and, Bool.false_eq_true, if_false]
  exact SMap.get_mapVal _ _ _ _ (by simp)

/-- Settles O29. -/
theorem lmemWrites : Obligations.LmemWrites := by
  unfold Obligations.LmemWrites
  refine ⟨fun c off bs h => ⟨lmemWrite_wf off bs c, fun k hk => get_lmemWrite_written h hk, fun a ha => get_lmemWrite_other h ha⟩,
    fun c w hpoison harm => ⟨fun bs hbs => ⟨?whole, fun k hk => get_lmemWrite_written (partialBad_whole c w hbs) hk⟩,
      fun k bs hne hk hlt => ?part⟩⟩
  case whole =>
    have hstruck : ((cellsAt (8 * w) bs).any fun p => p.1 / 8 == w) = true :=
      List.any_eq_true.2 ⟨_, mem_cellsAt.2 ⟨0, by omega, rfl⟩, by simp⟩
    rw [lmemWrite, ecc_lmemWriteCells harm, partialBad_whole c w hbs]
    simp [hstruck]
  case part =>
    have hlisted : (w, WordErr.poison) ∈ c.lmem.ecc := by
      have := SMap.listed WordErr.ok c.lmem.ecc w (by rw [hpoison]; decide)
      rwa [hpoison] at this
    have hfirst : ∃ q ∈ cellsAt (8 * w + k) bs, q.1 / 8 = w :=
      ⟨_, mem_cellsAt.2 ⟨0, List.length_pos_iff.2 hne, rfl⟩, by dsimp only; have := List.length_pos_iff.2 hne; omega⟩
    have hpart : coversWord [] (cellsAt (8 * w + k) bs) w = false :=
      Bool.eq_false_iff.2 fun h => by have := (coversWord_cellsAt _ _ _).1 h; omega
    have hrefuses : w ∈ (partialBad [] (cellsAt (8 * w + k) bs) c).map Prod.fst :=
      List.mem_map.2 ⟨_, mem_partialBad.2 ⟨hlisted, hfirst, hpart, rfl⟩, rfl⟩
    have hlive : ((cellsAt (8 * w + k) bs).filter fun p =>
        !(((partialBad [] (cellsAt (8 * w + k) bs) c).map Prod.fst).contains (p.1 / 8))) = [] := by
      refine List.filter_eq_nil_iff.2 fun p hp => ?_
      rw [mem_cellsAt_word hk hp]
      simpa using hrefuses
    refine ⟨?_, ?_⟩
    · rw [lmemWrite, ecc_lmemWriteCells harm, hlive]
      exact hpoison
    · rw [lmemWrite, lmemWriteCells, hlive]
      rfl

/-! ## Arbitration shares -/

/-- Shares that sum to 16 at most, and ranks that are 0 to 5 (R201). -/
theorem arbOk_iff (v : W64) :
    let share (k : Nat) : Nat := v.toNat / 2 ^ (4 * k) % 2 ^ 4
    let rank (k : Nat) : Nat := v.toNat / 2 ^ (24 + 3 * k) % 2 ^ 3
    arbOk v = true ↔ share 0 + share 1 + share 2 + share 3 + share 4 + share 5 ≤ 16 ∧ ∀ r < 6, ∃ k < 6, rank k = r := by
  intro share rank
  have hsum : ((rangeFrom 0 6).map fun k => fld v (4 * k) 4).foldl (· + ·) 0 =
      share 0 + share 1 + share 2 + share 3 + share 4 + share 5 := by
    simp only [fld_eq, rangeFrom, List.map_cons, List.map_nil, List.foldl_cons, List.foldl_nil, Nat.zero_add]
    rfl
  have hrank : ((rangeFrom 0 6).all fun r => (rangeFrom 0 6).any fun k => fld v (24 + 3 * k) 3 == r) = true ↔
      ∀ r < 6, ∃ k < 6, rank k = r := by
    simp only [List.all_eq_true, List.any_eq_true, mem_rangeFrom, fld_eq, beq_iff_eq, Nat.zero_le, true_and, Nat.zero_add]
    rfl
  rw [arbOk, Bool.and_eq_true, decide_eq_true_eq, hsum, hrank]

/-- LMEM_ARB keeps the 42 bits of its fields. -/
theorem maskWrite_arb (v : W64) : maskWrite (maskOf [(0, 42)]) 0#64 v = v &&& 0x3FFFFFFFFFF#64 := by
  have hmask : maskOf [(0, 42)] = 0x3FFFFFFFFFF#64 := by decide
  simp [maskWrite, hmask]

theorem lmemArbWrite_good {v : W64} (h : arbOk v = true) (c : Chip) : lmemArbWrite v c = { c with
    lmem.arbErr := c.lmem.arbErr && !v.getLsbD 63, lmem.arbPending := some (v &&& 0x3FFFFFFFFFF#64) } := by
  have hbit : bitAt v 63 = v.getLsbD 63 := rfl
  simp only [lmemArbWrite, h, if_true, maskWrite_arb, hbit]
  cases v.getLsbD 63
  · simp
  · simp

theorem lmemArbWrite_bad {v : W64} (h : ¬ arbOk v = true) (c : Chip) : lmemArbWrite v c = { c with lmem.arbErr := true } := by
  simp only [lmemArbWrite, if_neg h]
  cases bitAt v 63 <;> rfl

/-- Settles O30. -/
theorem arbitrationShares : Obligations.ArbitrationShares := by
  unfold Obligations.ArbitrationShares
  refine ⟨fun v => ⟨fun hok => acts_regWrite (fun _ => rfl) fun c _ => ?good, fun hbad => acts_regWrite (fun _ => rfl) fun c _ => ?bad⟩,
    fun v => acts_inP0 (fun _ => rfl) fun c h => ?apply⟩
  case good => exact lmemArbWrite_good ((arbOk_iff v).2 hok) c
  case bad => exact lmemArbWrite_bad (fun h => hbad ((arbOk_iff v).1 h)) c
  case apply => simp only [lmemArbApply, h]

/-! ## Scrubbing and errors -/

theorem poisonWord_fresh {cls w : Nat} {e : WordErr} (h : e ≠ .poison) (c : Chip) :
    (poisonWord cls w e c).lmem.ecc = SMap.set .ok c.lmem.ecc w .poison ∧
    (poisonWord cls w e c).lmem.ueCount = min (c.lmem.ueCount + 1) (2 ^ 16 - 1) := by
  simp only [poisonWord, if_neg h, pageFault_lmem]
  exact ⟨trivial, rfl⟩

@[simp] theorem poisonWord_ring (cls w : Nat) (e : WordErr) (c : Chip) : (poisonWord cls w e c).ring = c.ring := by
  unfold poisonWord; split <;> rfl

theorem scrubRead_row {b : Nat} {c : Chip} (hb : b < 256) (ha : isAwake c = true) (hen : c.lmem.scrubEn = true)
    (hgoes : (bankOf c b).scrubDone = false) : scrubRead b c =
      let last := decide (12288 ≤ (bankOf c b).scrubRow + 1)
      scrubPass (updBank b (fun k => { k with scrubRow := if last then 0 else k.scrubRow + 1, scrubDone := last })
        ((rangeFrom (8 * bankLine b (bankOf c b).scrubRow) 8).foldl (fun c w => scrubWord w c) c)) := by
  have hexists : ¬ Config.banks ≤ b := Nat.not_le.2 hb
  refine if_neg ?_
  simp [hexists, hen, hgoes, ((isAwake_iff c).1 ha).2]

theorem lmemEccError_hits {w cls : Nat} {q : DescRef} {d : Desc} {c : Chip} (hw : 8 * w < Config.lmemBytes) (hfound : descOf c q = some d)
    (hstarted : d.started = true) : lmemEccError w cls q c =
      if (ringOf c q.ring).cls = 6 then failRestore q.ring q.idx .eccUncorr (poisonWord cls w (SMap.get WordErr.ok c.lmem.ecc w) c)
      else abandonDesc q.ring q.idx .eccUncorr (poisonWord cls w (SMap.get WordErr.ok c.lmem.ecc w) c) := by
  have hring : ringOf (poisonWord cls w (SMap.get WordErr.ok c.lmem.ecc w) c) q.ring = ringOf c q.ring := by
    simp only [ringOf, poisonWord_ring]
  simp only [lmemEccError, hfound, hstarted, Nat.not_le.2 hw, Bool.not_true, Bool.false_eq_true, or_self, if_false, hring]

/-- Settles O31. -/
theorem lmemRows : Obligations.LmemRows := by
  unfold Obligations.LmemRows
  refine ⟨fun b hb => ?scrub, fun w => ?single, fun w => ?other, fun c w => ⟨fun h => ?corrects, fun h => ?poisons, fun h => ?leaves⟩,
    does_regWrite, fun v => ?inject, fun w cls q d hw => ⟨?engine, ?restore⟩⟩
  case scrub => exact acts_of (fun _ => rfl) fun c ha ⟨hen, hgoes⟩ => (inP0_eq ha).trans (scrubRead_row hb ha hen hgoes)
  case single => exact acts_inP0 (fun _ => rfl) fun c ⟨hqueued, hsingle⟩ => by simp only [eccWriteback, hqueued, hsingle, if_true]
  case other => exact acts_inP0 (fun _ => rfl) fun c ⟨hqueued, hother⟩ => by simp only [eccWriteback, hqueued, hother, if_true, if_false]
  case corrects =>
    simp only [scrubWord, h]
    exact ⟨SMap.get_set_same _ _ _ _, rfl⟩
  case poisons =>
    obtain ⟨hecc, hcount⟩ := poisonWord_fresh (cls := 6) (w := w) (e := .double) (by decide) c
    simp only [scrubWord, h]
    exact ⟨by rw [hecc, SMap.get_set_same], hcount⟩
  case leaves => rcases h with h | h <;> simp only [scrubWord, h]
  case inject => exact acts_regWrite (fun _ => rfl) fun c _ => by simp only [eccInjectWrite, fld_eq]; rfl
  case engine =>
    exact acts_inP0 (fun _ => rfl) fun c ⟨hfound, hstarted, hcls⟩ => (lmemEccError_hits hw hfound hstarted).trans (if_neg hcls)
  case restore =>
    exact acts_inP0 (fun _ => rfl) fun c ⟨hfound, hstarted, hcls⟩ => (lmemEccError_hits hw hfound hstarted).trans (if_pos hcls)

end Sys2Proof.Machine
end

section
/-! SUPPORT. Frames (R115, R116, R125, R188): nothing follows in a calm core, so a command there answers exactly its own effect. -/

namespace Sys2Proof.Machine

/-! ## Nothing follows in a calm core -/

theorem calm_awake {c : Chip} (h : Calm c) : isAwake c = true := (isAwake_iff c).2 ⟨h.running, h.p0⟩

theorem calm_gives {c : Chip} (h : Calm c) : gives c = true := by simp [gives, inWarm, h.running]

/-- Every listed ring of a calm core is still. -/
theorem calm_still {c : Chip} (h : Calm c) : ∀ n ∈ ringKeys c, (ringOf c n).Still c := by
  intro n hn
  obtain ⟨kr, hkr, rfl⟩ := List.mem_map.1 hn
  exact (h.rings kr hkr).1

theorem settleBlocks_calm {c : Chip} (h : Calm c) : settleBlocks c = c := by
  have howes : ∀ kr ∈ c.ring.rings, ∀ d ∈ kr.2.descs, d.owes = false := fun kr hkr d hd => ((h.rings kr hkr).2 d hd).2
  have hsums : ∀ kr ∈ c.ring.rings, ∀ d ∈ kr.2.descs, d.sums = [] := fun kr hkr d hd => ((h.rings kr hkr).2 d hd).1
  have hdetach : detachAdvance c = c := by simp [detachAdvance, h.detach]
  have hwarm : warmWaiting c = c := by simp [warmWaiting, h.warm]
  simp only [settleBlocks, calm_awake h, if_true, servePages_idle h.outbox h.waiting h.held, commitWrites_idle howes,
    noteJournals_idle h.journals, noteLatchWait_idle h.latch, advanceRings_idle (calm_still h), drainSums_idle hsums,
    keepGated_idle h.gates h.moves, hdetach, hwarm]

theorem settleLinks_calm {c : Chip} (h : Calm c) : settleLinks c = c := by
  simp only [settleLinks, answerProxies_idle h.proxies, sendAll_idle h.outbox h.waiting h.signals,
    flushEvents_idle h.events h.firsts h.records, sendAcks_idle (calm_gives h) h.acks, returnGrant_idle h.credits h.responses]

theorem settleLast_calm {c : Chip} (h : Calm c) : settleLast c = c := by
  have hctxs : settleCtxs c = c := by simp only [settleCtxs, calm_awake h, if_true, wakeAll_idle h.canonical h.sequencer h.contexts]
  simp only [settleLast, awake_up (calm_awake h), if_true, hctxs, noteQuiet_busy h.busy h.quiet h.lend]

theorem settle_calm {c : Chip} (h : Calm c) : settle c = c := by
  simp only [settle, settleFirst, h.running, settleBlocks_calm h, settleLinks_calm h, settleLast_calm h]

/-- Settles O52. -/
theorem calmCoreIsSettled : Obligations.CalmCoreIsSettled := by
  unfold Obligations.CalmCoreIsSettled
  exact fun c h => settle_calm h

/-- A command whose effect leaves the core calm answers that effect. -/
theorem answers_calm {i : Instr} {s : State} {c : Chip} (h : Answers i s c) (hcalm : Calm c) : exec i s = .next { s with chip := c } := by
  unfold Answers at h
  rw [h, settle_calm hcalm]

/-! ## Register and predicate instructions -/

theorem issues_ready {o : SeqOp} {f : SeqForm} {c : Chip} (h : Issues o f c) : (ctxOf c o.ctx).st = .ready ∧ (ctxOf c o.ctx).stopping = false := by
  have hcan := h.can
  simp only [canIssue, Bool.and_eq_true, decide_eq_true_eq, Bool.not_eq_true'] at hcan
  obtain ⟨⟨_, hready⟩, hstop⟩ := hcan
  exact ⟨hready, hstop⟩

/-- A context of a calm core that issues is told neither to end nor to stop. -/
theorem calm_runs {o : SeqOp} {f : SeqForm} {c : Chip} (h : Issues o f c) (hcalm : Calm c) : (ctxOf c o.ctx).ending = false :=
  (hcalm.contexts _ (listed_of_ready (issues_ready h).1)).2.1

/-- A core stays calm when the context that has issued goes on with a change that keeps its state. -/
theorem calm_stepPast {o : SeqOp} {f : SeqForm} {c : Chip} {g : Ctx → Ctx} (h : Issues o f c) (hcalm : Calm c)
    (hst : ∀ x, (g x).st = x.st) (hending : ∀ x, (g x).ending = x.ending) (hstopping : ∀ x, (g x).stopping = x.stopping) :
    Calm (stepPast o.ctx g (issued o.ctx c)) := by
  refine calm_setCtx (calm_issued hcalm) ?_ ?_ ?_
  · exact (hst _).trans ((congrArg Ctx.st (ctxOf_issued c o.ctx)).trans (issues_ready h).1)
  · exact (hending _).trans ((congrArg Ctx.ending (ctxOf_issued c o.ctx)).trans (calm_runs h hcalm))
  · exact (hstopping _).trans ((congrArg Ctx.stopping (ctxOf_issued c o.ctx)).trans (issues_ready h).2)

@[simp] theorem setReg_st (x : Ctx) (r : Nat) (v : W64) : (x.setReg r v).st = x.st := by unfold Ctx.setReg; split <;> rfl
@[simp] theorem setReg_ending (x : Ctx) (r : Nat) (v : W64) : (x.setReg r v).ending = x.ending := by unfold Ctx.setReg; split <;> rfl
@[simp] theorem setReg_stopping (x : Ctx) (r : Nat) (v : W64) : (x.setReg r v).stopping = x.stopping := by unfold Ctx.setReg; split <;> rfl
@[simp] theorem setPred_st (x : Ctx) (p : Nat) (b : Bool) : (x.setPred p b).st = x.st := by unfold Ctx.setPred; split <;> rfl
@[simp] theorem setPred_ending (x : Ctx) (p : Nat) (b : Bool) : (x.setPred p b).ending = x.ending := by unfold Ctx.setPred; split <;> rfl
@[simp] theorem setPred_stopping (x : Ctx) (p : Nat) (b : Bool) : (x.setPred p b).stopping = x.stopping := by unfold Ctx.setPred; split <;> rfl

/-- An instruction whose whole effect is a value in rd, which may depend on the core too. -/
def WritesReg (i : Instr) : Prop := ∃ v : Ctx → Chip → W64, FiresWith i fun o x c => stepPast o.ctx (fun y => y.setReg (opRd o) (v x c)) c

theorem writesReg_of_sets {i : Instr} {v : Ctx → W64} (h : Sets i v) : WritesReg i := ⟨fun x _ => v x, h⟩

/-- Every register instruction writes rd and nothing else. -/
theorem registerInstrs_write (o : SeqOp) : ∀ i ∈ registerInstrs, WritesReg (i o) := by
  obtain ⟨hadd, hsub, hmul, hmulhu, hmulhs, hdivu, hdivs, hremu, hrems, hand, hor, hxor, handn, hshl, hshr, hsar, hrol, hmin, hmax,
    hminu, hmaxu, hclz, hctz, hpopc, hsel, hmadd, hbfx, hbfi, hmovi, horhi⟩ := arithmeticInstructions.1 o
  obtain ⟨-, -, -, -, -, -, -, -, -, -, hmovp, -⟩ := arithmeticInstructions.2.1 o
  obtain ⟨hfadd, hfsub, hfmul, hfdiv, hfsqrt, hfma, hfmin, hfmax, -, -, -, -, hfcvti, hicvtf⟩ := arithmeticInstructions.2.2 o
  obtain ⟨-, -, hgetw, -, -, -⟩ := ringInstructions.1 o
  obtain ⟨-, -, -, hcount, -⟩ := summaries o
  obtain ⟨-, -, -, -, hcid, -⟩ := systemInstructions o
  have hcore {i : Instr} {f : SeqForm} (v : Chip → W64) (hf : formOf i = some (o, f))
      (hx : ∀ s, exec i s = run (seqIssue o f fun _ c => stepPast o.ctx (fun y => y.setReg (opRd o) (v c)) c) s) : WritesReg i :=
    ⟨fun _ c => v c, firesWith_of (g := fun o _ c => stepPast o.ctx (fun y => y.setReg (opRd o) (v c)) c) hf hx⟩
  have htail : WritesReg (.ringTail o) := hcore (fun c => BitVec.ofNat 64 (ringOf c (32 * o.ctx + opRc o)).tail) rfl fun _ => rfl
  have hhead : WritesReg (.ringHead o) := hcore (fun c => BitVec.ofNat 64 (ringOf c (32 * o.ctx + opRc o)).head) rfl fun _ => rfl
  have htimerd : WritesReg (.timerd o) := hcore (fun c => BitVec.ofNat 64 (now c)) rfl fun _ => rfl
  simp only [registerInstrs, List.forall_mem_cons, List.not_mem_nil, false_implies, implies_true, and_true]
  exact ⟨writesReg_of_sets hadd, writesReg_of_sets hsub, writesReg_of_sets hmul, writesReg_of_sets hmulhu, writesReg_of_sets hmulhs,
    writesReg_of_sets hdivu, writesReg_of_sets hdivs, writesReg_of_sets hremu, writesReg_of_sets hrems, writesReg_of_sets hand,
    writesReg_of_sets hor, writesReg_of_sets hxor, writesReg_of_sets handn, writesReg_of_sets hshl, writesReg_of_sets hshr,
    writesReg_of_sets hsar, writesReg_of_sets hrol, writesReg_of_sets hmin, writesReg_of_sets hmax, writesReg_of_sets hminu,
    writesReg_of_sets hmaxu, writesReg_of_sets hclz, writesReg_of_sets hctz, writesReg_of_sets hpopc, writesReg_of_sets hsel,
    writesReg_of_sets hmadd, writesReg_of_sets hbfx, writesReg_of_sets hbfi, writesReg_of_sets hmovp, writesReg_of_sets hfadd,
    writesReg_of_sets hfsub, writesReg_of_sets hfmul, writesReg_of_sets hfdiv, writesReg_of_sets hfsqrt, writesReg_of_sets hfma,
    writesReg_of_sets hfmin, writesReg_of_sets hfmax, writesReg_of_sets hfcvti, writesReg_of_sets hicvtf, writesReg_of_sets hmovi,
    writesReg_of_sets horhi, writesReg_of_sets hgetw, htail, hhead, writesReg_of_sets hcount, writesReg_of_sets hcid, htimerd⟩

/-- Every predicate instruction writes pd and nothing else. -/
theorem predicateInstrs_write (o : SeqOp) : ∀ i ∈ predicateInstrs, ∃ v, Tests (i o) v := by
  obtain ⟨hcmpeq, hcmpne, hcmplt, hcmple, hcmpltu, hcmpleu, hpand, hpor, hpxor, hpandn, -, -⟩ := arithmeticInstructions.2.1 o
  obtain ⟨-, -, -, -, -, -, -, -, hfcmplt, hfcmple, hfcmpeq, hfisfin, -, -⟩ := arithmeticInstructions.2.2 o
  simp only [predicateInstrs, List.forall_mem_cons, List.not_mem_nil, false_implies, implies_true, and_true]
  exact ⟨⟨_, hcmpeq⟩, ⟨_, hcmpne⟩, ⟨_, hcmplt⟩, ⟨_, hcmple⟩, ⟨_, hcmpltu⟩, ⟨_, hcmpleu⟩, ⟨_, hpand⟩, ⟨_, hpor⟩, ⟨_, hpxor⟩, ⟨_, hpandn⟩,
    ⟨_, hfcmplt⟩, ⟨_, hfcmple⟩, ⟨_, hfcmpeq⟩, ⟨_, hfisfin⟩⟩

/-- Settles O53. -/
theorem instructionFrame : Obligations.InstructionFrame := by
  unfold Obligations.InstructionFrame
  refine ⟨fun i hi o f s hf hs hcalm => ?_, fun i hi o f s hf hs hcalm => ?_⟩
  · obtain ⟨v, hfires⟩ := registerInstrs_write o i hi
    have hans := hfires o f hf s hs
    exact ⟨_, answers_calm hans (calm_stepPast hs hcalm (fun _ => setReg_st _ _ _) (fun _ => setReg_ending _ _ _) fun _ => setReg_stopping _ _ _)⟩
  · obtain ⟨v, hfires⟩ := predicateInstrs_write o i hi
    have hans := hfires o f hf s hs
    exact ⟨_, answers_calm hans (calm_stepPast hs hcalm (fun _ => setPred_st _ _ _) (fun _ => setPred_ending _ _ _) fun _ => setPred_stopping _ _ _)⟩

/-! ## Stores -/

/-- A store of aligned bytes of LMEM of this core without errors. -/
theorem ctxStore_lmem {n size a : Nat} {v : W64} {c : Chip} (halign : a % 2 ^ size = 0) (hself : isSelf c a = true)
    (hlmem : regionOf (offOf a) (2 ^ size) = some .lmem) (hmapped : mappedRange c true (offOf a) (2 ^ size) = true)
    (hsound : c.lmem.ecc = []) : ctxStore n size a v c =
      pushAcc n ((newAcc .store 0 size false a).with (.done 0)) (lmemWrite (offOf a) (leBytes (2 ^ size) v.toNat) c) := by
  have hbad : partialBad [] (cellsAt (offOf a) (leBytes (2 ^ size) v.toNat)) c = [] := by
    simp [partialBad, partialErr, errWords, hsound]
  unfold ctxStore
  simp [badAccess_lmem halign hlmem hmapped, hself, hlmem, lmemStore, hbad, lmemWrite]

/-- Where the context of an access that is pushed stands. -/
theorem ctxOf_pushAcc (n : Nat) (a : Acc) (c : Chip) : ctxOf (pushAcc n a c) n = let x := ctxOf c n
    { x with accs := x.accs ++ [{ a with tag := x.nextTag, pc := x.pc }], nextTag := x.nextTag + 1, pc := x.pc + 8 } := ctxOf_updCtx _ _ _

theorem calm_pushAcc {c : Chip} {n : Nat} (a : Acc) (h : Calm c) (hst : (ctxOf c n).st = .ready) (hending : (ctxOf c n).ending = false)
    (hstopping : (ctxOf c n).stopping = false) : Calm (pushAcc n a c) := calm_setCtx h hst hending hstopping

/-- Settles O54. -/
theorem storeFrame : Obligations.StoreFrame := by
  unfold Obligations.StoreFrame
  intro o f s hf hs hcalm hsound x a n off halign hself hlmem hmapped
  have hx : ctxOf (issued o.ctx s.chip) o.ctx = x := ctxOf_issued _ _
  have hfires : Answers (.st o) s (ctxStore o.ctx (opSize o) (lsAddr o (ctxOf (issued o.ctx s.chip) o.ctx))
      ((ctxOf (issued o.ctx s.chip) o.ctx).reg (opRd o)) (issued o.ctx s.chip)) := (memoryInstructions.1.1 o).2 o f hf s hs
  rw [hx, ctxStore_lmem (c := issued o.ctx s.chip) halign hself hlmem hmapped hsound] at hfires
  have hbad : partialBad [] (cellsAt off (leBytes n (x.reg (opRd o)).toNat)) (issued o.ctx s.chip) = [] := by
    simp [partialBad, partialErr, errWords, hsound]
  have hwritten : Calm (lmemWrite off (leBytes n (x.reg (opRd o)).toNat) (issued o.ctx s.chip)) :=
    calm_lmem _ (calm_issued hcalm)
  have hstored : ctxOf (lmemWrite off (leBytes n (x.reg (opRd o)).toNat) (issued o.ctx s.chip)) o.ctx = x := hx
  refine ⟨_, answers_calm hfires (calm_pushAcc _ hwritten ?_ ?_ ?_), fun k hk => ?_, fun b hb => ?_, ?_, ?_, ?_, rfl, rfl, rfl, rfl⟩
  · rw [hstored]; exact (issues_ready hs).1
  · rw [hstored]; exact calm_runs hs hcalm
  · rw [hstored]; exact (issues_ready hs).2
  · have hlen : k < (leBytes n (x.reg (opRd o)).toNat).length := by rw [leBytes_length]; exact hk
    exact (get_lmemWrite_written hbad hlen).trans (leBytes_get _ _ _ hlen)
  · exact get_lmemWrite_other hbad (by rw [leBytes_length]; exact hb)
  all_goals
    dsimp only
    rw [ctxOf_pushAcc, hstored]

/-! ## Registers -/

/-- From a calm core a register write that leaves it calm answers its effect alone. -/
theorem regWrite_calm {i : Instr} {p off : Nat} {v : W64} {f : Chip → Chip} {s : State} {c : Chip} (h : Calm s.chip)
    (hx : ∀ s, exec i s = run (regWrite p off v f) s) (e : f s.chip = c) (hc : Calm c) : exec i s = .next { s with chip := c } := by
  rw [hx s, run_eq (awake_defined (calm_awake h)), regWrite_eq (calm_awake h), e, settle_calm hc]

/-- Settles O55. -/
theorem registerWriteFrame : Obligations.RegisterWriteFrame := by
  unfold Obligations.RegisterWriteFrame
  intro s v h
  refine ⟨regWrite_calm h (fun _ => rfl) rfl (calm_lmem _ h), regWrite_calm h (fun _ => rfl) ?inject (calm_lmem _ h),
    regWrite_calm h (fun _ => rfl) rfl (calm_of h), regWrite_calm h (fun _ => rfl) rfl (calm_of h),
    regWrite_calm h (fun _ => rfl) rfl (calm_of h), regWrite_calm h (fun _ => rfl) rfl (calm_of h),
    regWrite_calm h (fun _ => rfl) ?mtbf (calm_of h), regWrite_calm h (fun _ => rfl) rfl (calm_of h),
    regWrite_calm h (fun _ => rfl) ?arm (calm_of h), regWrite_calm h (fun _ => rfl) rfl (calm_of h),
    regWrite_calm h (fun _ => rfl) rfl (calm_of h), regWrite_calm h (fun _ => rfl) rfl (calm_of h),
    regWrite_calm h (fun _ => rfl) rfl (calm_of h)⟩
  case inject => simp only [eccInjectWrite, fld_eq]; rfl
  case mtbf => simp only [mtbfWrite, fld_eq, pow_zero, Nat.div_one]
  case arm => simp only [tpulseArm, fld_eq, pow_zero, Nat.div_one]; rfl

end Sys2Proof.Machine
end

section
/-! SUPPORT. P3 (R468, R490): what every command does there, by the state of the core in which its row acts. -/

namespace Sys2Proof.Machine

/-! ## Nothing follows in P3 -/

theorem settle_p3 {c : Chip} (h : c.core.phase = .p3) : settle c = c := by
  have hfirst : settleFirst c = c := by simp only [settleFirst, h]
  simp [settle, hfirst, settleLast, isUp, h]

/-- A command whose row does nothing in P3 leaves the state as it is. -/
theorem p3_keeps {i : Instr} {f : Chip → Chip} {s : State} (h : s.chip.core.phase = .p3) (hx : ∀ s, exec i s = run f s)
    (e : f s.chip = s.chip) : exec i s = .next s := by
  rw [hx s, run_eq (by rw [h]; decide), e, settle_p3 h]

theorem p3_keeps_seq {i : Instr} {o : SeqOp} {f : SeqForm} {s : State} (h : s.chip.core.phase = .p3) (hform : formOf i = some (o, f)) :
    exec i s = .next s := by
  obtain ⟨g, hexec⟩ := exec_issues hform
  exact p3_keeps h hexec (p3_seq h o f g)

/-! ## Rows of their own -/

section
variable {c : Chip} (h : c.core.phase = .p3)
include h

theorem p3_not_up : isUp c = false := by simp [isUp, h]
theorem p3_not_awake : isAwake c = false := by simp [isAwake, isUp, h]
theorem p3_pwrRuns : pwrRuns c = false := by simp [pwrRuns, h]

theorem p3_portReg (n : Nat) (v : Port → W64) (f : Chip → Chip) : portReg n v f c = c := by simp [portReg, p3_reg h]
theorem p3_pageReg (p : Nat) (v : PageHdr → Bool × Bool) (f : Chip → Chip) : pageReg p v f c = c := by simp [pageReg, p3_reg h]
theorem p3_regCommand (p off : Nat) (v : W64) : regCommand p off v c = c := by simp [regCommand, p3_not_up h]
theorem p3_sbAccess (off : Nat) (v : Option W64) (i : Instr) : sbAccess off v i c = c := by simp [sbAccess, sbLive, h]
theorem p3_hppTake (ch beats : Nat) (q : HppReq) (f : Chip → Chip) : hppTake ch beats q f c = c := by simp [hppTake, p3_pwrRuns h]
theorem p3_hppPeer (ch : Nat) (q : HppReq) (p : Packet) : hppPeer ch q p c = c := by simp [hppPeer, p3_hppTake h]
theorem p3_hello (w : Nat) : hello w c = c := by simp [hello, h]
theorem p3_imgData (ws : List W32) : imgData ws c = c := by simp [imgData, h]
theorem p3_imgEnd : imgEnd c = c := by simp [imgEnd, h]
theorem p3_imageTimeout : imageTimeout c = c := by simp [imageTimeout, h]
theorem p3_detachComplete : detachComplete c = c := by simp [detachComplete, p3_not_up h]
theorem p3_detachTimeout : detachTimeout c = c := by
  unfold detachTimeout
  cases c.hport.detachFrom <;> simp [p3_not_up h]
theorem p3_wakeExitDone : wakeExitDone c = c := by
  unfold wakeExitDone
  cases c.pwr.waking <;> simp [p3_not_up h]
theorem p3_drogueTurn : drogueTurn c = c := by simp [drogueTurn, p3_not_awake h, p3_pwrRuns h]
theorem p3_rampTurn : rampTurn c = c := by simp [rampTurn, p3_not_awake h, baseRamped, p3_pwrRuns h]
theorem p3_undervoltage : undervoltage c = c := by simp [undervoltage, p3_pwrRuns h]
theorem p3_overvoltage : overvoltage c = c := by simp [overvoltage, h]
theorem p3_powerOnEdge : powerOnEdge c = c := by simp [powerOnEdge, h]
theorem p3_warmRequest : warmRequest c = c := by simp [warmRequest, h]
theorem p3_startCmdCold : startCmdCold c = c := by simp [startCmdCold, h]
theorem p3_railPowerGood : railPowerGood c = c := by simp [railPowerGood, h]
theorem p3_regulatorTimeout (rail : Nat) : regulatorTimeout rail c = c := by simp [regulatorTimeout, h]
theorem p3_coldStartRetry : coldStartRetry c = c := by simp [coldStartRetry, h]
theorem p3_marchDone (failing : List W64) : marchDone failing c = c := by simp [marchDone, marchTestDone, startHeld, h]
theorem p3_pllLock : pllLock c = c := by simp [pllLock, h]
theorem p3_pllLockTimeout : pllLockTimeout c = c := by simp [pllLockTimeout, h]
theorem p3_refclkStop : refclkStop c = c := by simp [refclkStop, h]
theorem p3_iflushDone (n : Nat) : iflushDone n c = c := by simp [iflushDone, p3_not_awake h]
theorem p3_sleeptDeadline (n : Nat) : sleeptDeadline n c = c := by simp [sleeptDeadline, p3_not_up h]
theorem p3_waitTimeout (n : Nat) : waitTimeout n c = c := by simp [waitTimeout, p3_not_up h]
theorem p3_mbistGo (bank : Nat) : mbistGo bank c = c := by simp [mbistGo, p3_wrap h]
theorem p3_wrapRegacc (v : W64) (go w : Bool) (off : Nat) : wrapRegacc v go w off c = c := by simp [wrapRegacc, p3_wrap h]
theorem p3_imgRead (i : Nat) : imgRead i c = c := by simp [imgRead, p3_wrap h]
theorem p3_porstAssert : porstAssert c = c := by simp [porstAssert, h]
theorem p3_porstRelease : porstRelease c = c := by simp [porstRelease, h]

end

/-- Settles O56. -/
theorem onlyWakeInP3 : Obligations.OnlyWakeInP3 := by
  unfold Obligations.OnlyWakeInP3
  intro i s h hseen hmbist
  cases i
  case add | sub | mul | mulhu | mulhs | divu | divs | remu | rems | and | or | xor | andn | shl | shr | sar | rol | min | max |
      minu | maxu | clz | ctz | popc | sel | madd | bfx | bfi | cmpeq | cmpne | cmplt | cmple | cmpltu | cmpleu | pand | por |
      pxor | pandn | movp | movtp | fadd | fsub | fmul | fdiv | fsqrt | fma | fmin | fmax | fcmplt | fcmple | fcmpeq | fcvti |
      icvtf | fisfin | movi | orhi | ld | st | amoadd | amoswap | amocas | amomaxu | b | bl | jr | jlr | dbnz | bz | bnz |
      ringPut | ringPut2 | ringGetw | ringClr | ringPush | ringPushr | ringTail | ringHead | wait | test | signal | signalr |
      ctrrd | fenceLd | fenceSt | fenceAll | bararr | barwait | sumPop | sumTry | sumPeek | sumCount | sumDrop | sysNop | yield
      | exit | spawn | cid | timerd | sleept | pgrd | pgwr | notify | swfault | iflush =>
    exact p3_keeps_seq h rfl
  case fetchFill | descriptorFetch | descriptorIssue | descriptorComplete | nop | seqInternalSpawn | scrubRead | eccWriteback |
      copyb | copy | permute | gather | scatter | fill | split64 | transpose | stream | taps | arrayFlip | product | run |
      treduce | lreduce | creduce | xreduce | sctTap | registerRgn | release | openStep | commit | skip | pin | unpin | thaw |
      put | reshard | begin | journal | trickle | snapClose | digest | restore | abandon | blockGate | lmemEccError |
      bufferWaitStart | mxaStart | fwdRow | vecStart | tappedRunStart | creducePiece | openTake | pinWaitStart | reshardPush |
      reshardAnnounce | reshardCopy | trickleRegionDone | zgateHalfRequest | mvpStart | lmemArbApply | force7Apply | wvmHold |
      snapLatchCopy =>
    exact p3_keeps h (fun _ => rfl) (p3_p0 h _)
  case loadReturn | storeAck | counterEcc | compatSignalApply | teeBlockAck | detachReq | detach | dvfsStepDone | p1Entry |
      p2Entry | lendOffer =>
    exact p3_keeps h (fun _ => rfl) (p3_up h _)
  case barInRise | barHoldExpire | barInLow | trainingWord | trainingTimeout | laneLockLoss | ackTimeout | flitData | flitIdle |
      flitReplay | negotiate | wr | rd | amo | sig | wrack | rddata | amorsp | sigack | respTimeout | routeHoldTimeout |
      timeSyncSend | timeSync | timeReply | close | traceRecordAck | timeExchangeTimeout | reclaimLate | tpulseEdge |
      holdoverExpire =>
    exact p3_keeps h (fun _ => rfl) (p3_link h _)
  case ctxPcWrite | ctxRegdataWrite | doorbell | ringCfgWrite | ringBaseWrite | ringResume | ringSkip | ringSkipSignal | setidx
      | ctrValWrite | ctrAddWrite | vmapWrite | vmapInvEntry | vmapInvCtx | watchWrite | watchCtlWrite | barEnable | barDisable
      | lmemArbWrite | eccInjectWrite | dmaStageWrite | force7Write | slotCfgWrite | slotScaleWrite | wvmStepWrite | lguardWrite
      | swap | tlkCountClear | snapStreamWrite | mtbfWrite | dvfsPointWrite | latTolWrite | tpulseArm | timeMark | traceCfgWrite
      | traceHeadWrite | ctxStart | ctxStop | ctxResume | ctxKill | icacheFlush | spawnFailClear | vmapInvGlobal | rsigStatClear
      | eccStatClear | clrHist | clrPend | sctStatClear | lguardStatClear | routeCopy | routeClear | snapStatClear | pwrHold |
      pwrRelease | pwrOff | timeStatClear | traceStatClear =>
    exact p3_keeps h (fun _ => rfl) (p3_reg h _ _ _ _)
  case hppResponse | hppCredit =>
    exact p3_keeps h (fun _ => rfl) (p3_lanes h _)
  case hportTimeout =>
    exact p3_keeps h (fun _ => rfl) (p3_hport h _)
  case doneQRead =>
    exact p3_keeps h (fun _ => rfl) (p3_read h _ _ _)
  case portEnable | portDisable | retrain => exact p3_keeps h (fun _ => rfl) (p3_portReg h _ _ _)
  case quiesceRequest | quiesceClear | pgEnWrite => exact p3_keeps h (fun _ => rfl) (p3_pageReg h _ _ _)
  case registerWrite => exact p3_keeps h (fun _ => rfl) (p3_regCommand h _ _ _)
  case regRd | regWr => exact p3_keeps h (fun _ => rfl) (p3_sbAccess h _ _ _)
  case hppRd | hppWr => exact p3_keeps h (fun _ => rfl) (p3_hppTake h _ _ _ _)
  case hppPeer => exact p3_keeps h (fun _ => rfl) (p3_hppPeer h _ _ _)
  case hello => exact p3_keeps h (fun _ => rfl) (p3_hello h _)
  case imgData => exact p3_keeps h (fun _ => rfl) (p3_imgData h _)
  case imgEnd => exact p3_keeps h (fun _ => rfl) (p3_imgEnd h)
  case imageTimeout => exact p3_keeps h (fun _ => rfl) (p3_imageTimeout h)
  case detachComplete => exact p3_keeps h (fun _ => rfl) (p3_detachComplete h)
  case detachTimeout => exact p3_keeps h (fun _ => rfl) (p3_detachTimeout h)
  case wakeExitDone => exact p3_keeps h (fun _ => rfl) (p3_wakeExitDone h)
  case drogueAdmit => exact p3_keeps h (fun _ => rfl) (p3_drogueTurn h)
  case rampDone => exact p3_keeps h (fun _ => rfl) (p3_rampTurn h)
  case undervoltage => exact p3_keeps h (fun _ => rfl) (p3_undervoltage h)
  case overvoltage => exact p3_keeps h (fun _ => rfl) (p3_overvoltage h)
  case powerOn => exact p3_keeps h (fun _ => rfl) (p3_powerOnEdge h)
  case wrstRelease | startCmdWarm => exact p3_keeps h (fun _ => rfl) (p3_warmRequest h)
  case startCmdCold => exact p3_keeps h (fun _ => rfl) (p3_startCmdCold h)
  case railPowerGood => exact p3_keeps h (fun _ => rfl) (p3_railPowerGood h)
  case regulatorTimeout => exact p3_keeps h (fun _ => rfl) (p3_regulatorTimeout h _)
  case coldStartRetry => exact p3_keeps h (fun _ => rfl) (p3_coldStartRetry h)
  case marchTestDone => exact p3_keeps h (fun _ => rfl) (p3_marchDone h _)
  case pllLock => exact p3_keeps h (fun _ => rfl) (p3_pllLock h)
  case pllLockTimeout => exact p3_keeps h (fun _ => rfl) (p3_pllLockTimeout h)
  case refclkStop => exact p3_keeps h (fun _ => rfl) (p3_refclkStop h)
  case iflushDone => exact p3_keeps h (fun _ => rfl) (p3_iflushDone h _)
  case sleeptDeadline => exact p3_keeps h (fun _ => rfl) (p3_sleeptDeadline h _)
  case waitTimeout => exact p3_keeps h (fun _ => rfl) (p3_waitTimeout h _)
  case mbist => exact p3_keeps h (fun _ => rfl) (p3_mbistGo h _)
  case regacc => exact p3_keeps h (fun _ => rfl) (p3_wrapRegacc h _ _ _ _)
  case imgread => exact p3_keeps h (fun _ => rfl) (p3_imgRead h _)
  case wsBypass | wsExtest | wsClamp | wsSafe | wsIntest =>
    exact p3_keeps h (fun _ => rfl) (if_neg (by rw [p3_wrap h]; exact Bool.false_ne_true))
  case rbDataRead page => exact p3_keeps h (fun _ => rfl) (by simp [p3_read h])
  case rbDataWrite page v => exact p3_keeps h (fun _ => rfl) (by simp [p3_reg h])
  case mbistDone f => exact p3_keeps h (fun _ => rfl) (by simp [mbistEnds, hmbist f rfl])
  case railOutOfBand rail =>
    have hone : rail ≠ 1 := by rintro rfl; exact hseen (by simp)
    have htwo : rail ≠ 2 := by rintro rfl; exact hseen (by simp)
    exact p3_keeps h (fun _ => rfl) (by simp [railOutOfBand, hone, htwo])
  case porstAssert =>
    rw [show exec .porstAssert s = runAlways porstAssert s from rfl, runAlways, p3_porstAssert h, settle_p3 h]
  case porstRelease =>
    rw [show exec .porstRelease s = runAlways porstRelease s from rfl, runAlways, p3_porstRelease h, settle_p3 h]
  case wakeN | powerLoss | plAckRise | plAckFall | uvRecover | twWrstn => exact absurd (by simp) hseen

end Sys2Proof.Machine
end

section
/-! SUPPORT. Engine writes to LMEM (R30, R188, R206): what a write leaves in bytes that other engines have written, what it notes
in the rings, and the bytes that it changes. -/

namespace Sys2Proof.Machine

/-! ## Bytes that other engines have written -/

/-- A cell as a write that races leaves it: with its value, or with the one the byte held (R30). -/
def Raced (c : Chip) (p q : Nat × Byte) : Prop := q = p ∨ q = (p.1, coreByte c p.1)

/-- One cell of a write that races. -/
def raceStep (d : Desc) (s : List (Nat × Byte) × Chip) (p : Nat × Byte) : List (Nat × Byte) × Chip :=
  if (d.racedAt p.1).isSome then
    let (k, c) := takeFree s.2
    (s.1 ++ [if k % 2 = 0 then (p.1, coreByte c p.1) else p], c)
  else (s.1 ++ [p], s.2)

theorem raceWrite_eq (d : Desc) (cells : List (Nat × Byte)) (c : Chip) :
    raceWrite d cells c = if d.raced.isEmpty then (cells, c) else cells.foldl (raceStep d) ([], c) := rfl

theorem raceStep_cell (d : Desc) (acc : List (Nat × Byte)) (p : Nat × Byte) (c : Chip) (j : Nat) :
    ∃ q k, Raced c p q ∧ raceStep d (acc, { c with free := j }) p = (acc ++ [q], { c with free := k }) := by
  unfold raceStep
  split
  · by_cases hfree : Config.freeNat j % 2 = 0
    · exact ⟨_, j + 1, .inr rfl, by simp only [takeFree, hfree, if_true]; rfl⟩
    · exact ⟨_, j + 1, .inl rfl, by simp only [takeFree, hfree, if_false]⟩
  · exact ⟨p, j, .inl rfl, rfl⟩

theorem raceSteps_cells (d : Desc) (c : Chip) (cells : List (Nat × Byte)) (acc : List (Nat × Byte)) (j : Nat) :
    ∃ qs k, List.Forall₂ (Raced c) cells qs ∧ cells.foldl (raceStep d) (acc, { c with free := j }) = (acc ++ qs, { c with free := k }) := by
  induction cells generalizing acc j with
  | nil => exact ⟨[], j, .nil, by simp⟩
  | cons p cells ih =>
    obtain ⟨q, k, hq, hstep⟩ := raceStep_cell d acc p c j
    obtain ⟨qs, k', hqs, hsteps⟩ := ih (acc ++ [q]) k
    exact ⟨q :: qs, k', .cons hq hqs, by rw [List.foldl_cons, hstep, hsteps, List.append_assoc]; rfl⟩

/-- A write that races leaves each of its bytes with the one value or the other, and takes free values for the choice. -/
theorem raceWrite_cells (d : Desc) (cells : List (Nat × Byte)) (c : Chip) :
    ∃ qs k, List.Forall₂ (Raced c) cells qs ∧ raceWrite d cells c = (qs, { c with free := k }) := by
  rw [raceWrite_eq]
  split
  · exact ⟨cells, c.free, List.forall₂_same.2 fun p _ => .inl rfl, rfl⟩
  · obtain ⟨qs, k, hqs, hsteps⟩ := raceSteps_cells d c cells [] c.free
    exact ⟨qs, k, hqs, hsteps⟩

theorem forall₂_raced {c : Chip} {cells qs : List (Nat × Byte)} (h : List.Forall₂ (Raced c) cells qs) :
    (∀ q ∈ qs, ∃ p ∈ cells, Raced c p q) ∧ ∀ p ∈ cells, ∃ q ∈ qs, Raced c p q := by
  induction h with
  | nil => simp
  | @cons p q cells qs hpq _ ih =>
    obtain ⟨hleft, hright⟩ := ih
    refine ⟨fun r hr => ?_, fun r hr => ?_⟩
    · rcases List.mem_cons.1 hr with rfl | hr
      · exact ⟨p, by simp, hpq⟩
      · obtain ⟨s, hs, hrel⟩ := hleft r hr
        exact ⟨s, List.mem_cons_of_mem _ hs, hrel⟩
    · rcases List.mem_cons.1 hr with rfl | hr
      · exact ⟨q, by simp, hpq⟩
      · obtain ⟨s, hs, hrel⟩ := hright r hr
        exact ⟨s, List.mem_cons_of_mem _ hs, hrel⟩

/-! ## What a write notes in the rings -/

/-- What a write notes of itself in a descriptor: its own reads see it, and other running ones keep what the bytes held. -/
def raceNote (n idx : Nat) (offs : List Nat) (c : Chip) (k : Nat) (d : Desc) : Desc :=
  if k = n ∧ d.idx = idx then { d with seen := d.seen.filter fun p => !offs.contains p.1 }
  else if d.phase = .running then
    { d with raced := offs.foldl (fun m a => if m.any (fun p => p.1 == a) then m else SMap.insert (coreByte c a) m a) d.raced
             racedBy := offs.foldl (fun m a => SMap.insert (n, idx) m a) d.racedBy }
  else d

theorem noteRace_eq (n idx : Nat) (offs : List Nat) (c : Chip) : noteRace n idx offs c = { c with
    ring.rings := SMap.mapVal .reset (fun k r => { r with descs := r.descs.map (raceNote n idx offs c k) }) c.ring.rings } := by
  simp only [noteRace, noteRaceOn, and_true]
  rfl

@[simp] theorem raceNote_phase (n idx : Nat) (offs : List Nat) (c : Chip) (k : Nat) (d : Desc) :
    (raceNote n idx offs c k d).phase = d.phase := by
  unfold raceNote
  split
  · rfl
  · split <;> rfl

theorem ringOf_noteRace (n idx k : Nat) (offs : List Nat) (c : Chip) : ringOf (noteRace n idx offs c) k =
    { ringOf c k with descs := (ringOf c k).descs.map (raceNote n idx offs c k) } := by
  rw [noteRace_eq]
  exact SMap.get_mapVal Ring.reset _ c.ring.rings k rfl

/-! ## The bytes that a write changes -/

/-- Where a byte is written at all, it holds the value of one of the cells written to it. -/
theorem Mem.get_foldl_some (m : Mem) {cells : List (Nat × Byte)} {a : Nat} (h : ∃ p ∈ cells, p.1 = a) :
    ∃ p ∈ cells, p.1 = a ∧ Mem.get (cells.foldl (fun m p => Mem.set m p.1 p.2) m) a = p.2 := by
  induction cells generalizing m with
  | nil => obtain ⟨p, hp, _⟩ := h; cases hp
  | cons q cells ih =>
    rw [List.foldl_cons]
    by_cases hlater : ∃ p ∈ cells, p.1 = a
    · obtain ⟨p, hp, hpa, hval⟩ := ih (Mem.set m q.1 q.2) hlater
      exact ⟨p, List.mem_cons_of_mem _ hp, hpa, hval⟩
    · obtain ⟨p, hp, hpa⟩ := h
      obtain rfl : p = q := (List.mem_cons.1 hp).resolve_right fun hp => hlater ⟨p, hp, hpa⟩
      refine ⟨p, by simp, hpa, ?_⟩
      rw [Mem.get_foldl_other _ _ _ fun r hr hra => hlater ⟨r, hr, hra⟩, ← hpa, Mem.get_set_same]

/-- Without stored errors a write refuses nothing. -/
theorem partialBad_sound {c : Chip} (h : c.lmem.ecc = []) (kept : List Nat) (cells : List (Nat × Byte)) : partialBad kept cells c = [] := by
  simp [partialBad, partialErr, errWords, h]

theorem lmemWriteCells_sound {c : Chip} (h : c.lmem.ecc = []) (kept : List Nat) (cells : List (Nat × Byte)) :
    (lmemWriteCells kept cells c).lmem.mem = cells.foldl (fun m p => Mem.set m p.1 p.2) c.lmem.mem := by
  simp [lmemWriteCells, partialBad_sound h]

theorem region_of_here {c : Chip} {a : Nat} (h : hereRegion c a = some .lmem) : isSelf c a = true ∧ regionOf (offOf a) 1 = some .lmem := by
  unfold hereRegion at h
  split at h
  · rename_i hself
    refine ⟨hself, ?_⟩
    unfold regionAt at h
    split at h
    · split at h <;> cases h
    · split at h <;> cases h
    · exact h
  · cases h

/-- The cells that a descriptor's write of storage of this core leaves, and the free values that it takes. -/
def cellsLeft (n idx : Nat) (cells : List (Nat × Byte)) (c : Chip) : List (Nat × Byte) × Chip :=
  match (ringOf c n).find idx with
  | some d => raceWrite d cells c
  | none => (cells, c)

theorem cellsLeft_cells (n idx : Nat) (cells : List (Nat × Byte)) (c : Chip) : ∃ qs k, List.Forall₂ (Raced c) cells qs ∧
    ((∀ e, (ringOf c n).find idx = some e → e.raced = []) → qs = cells) ∧ cellsLeft n idx cells c = (qs, { c with free := k }) := by
  unfold cellsLeft
  cases hfind : (ringOf c n).find idx with
  | none => exact ⟨cells, c.free, List.forall₂_same.2 fun p _ => .inl rfl, fun _ => rfl, rfl⟩
  | some d =>
    obtain ⟨qs, k, hqs, hrace⟩ := raceWrite_cells d cells c
    refine ⟨qs, k, hqs, fun hnone => ?_, hrace⟩
    rw [raceWrite_eq, if_pos (by rw [hnone d rfl]; rfl)] at hrace
    exact (Prod.mk.inj hrace).1.symm

/-- What a write of storage of this core does: cells, then the note of the race, LMEM and the apertures. -/
theorem storeHere_eq (lc n idx : Nat) (m : List (Nat × Byte)) (c : Chip) : storeHere lc n idx [] m c =
    let mine := m.filter fun p => hereRegion c p.1 == some .lmem || hereRegion c p.1 == some .drain || hereRegion c p.1 == some .tile
    let x := cellsLeft n idx (mine.map fun p => (offOf p.1, p.2)) c
    let d := noteRace n idx (x.1.map Prod.fst) x.2
    let lm := x.1.filter fun p => regionOf p.1 1 == some .lmem
    let pb := partialBad [] lm d
    (if pb.isEmpty then .ready else .failed .eccUncorr,
      (x.1.filter fun p => regionOf p.1 1 != some .lmem).foldl (fun c p => aperturePut c p.1 p.2)
        (lmemWriteCells [] lm (pb.foldl (fun c p => poisonWord lc p.1 p.2 c) d))) := rfl

/-- A write of cells of LMEM of this core without stored errors is made at once. -/
theorem storeHere_lmem {c : Chip} {lc n idx : Nat} {m : List (Nat × Byte)} (hsound : c.lmem.ecc = [])
    (hlmem : ∀ p ∈ m, hereRegion c p.1 = some .lmem) : ∃ qs k,
      List.Forall₂ (Raced c) (m.map fun p => (offOf p.1, p.2)) qs ∧
      ((∀ e, (ringOf c n).find idx = some e → e.raced = []) → qs = m.map fun p => (offOf p.1, p.2)) ∧
      storeHere lc n idx [] m c = (.ready, lmemWriteCells [] qs (noteRace n idx (qs.map Prod.fst) { c with free := k })) := by
  have hmine : (m.filter fun p => hereRegion c p.1 == some .lmem || hereRegion c p.1 == some .drain || hereRegion c p.1 == some .tile) = m :=
    List.filter_eq_self.2 fun p hp => by simp [hlmem p hp]
  obtain ⟨qs, k, hqs, hfree, hrace⟩ := cellsLeft_cells n idx (m.map fun p => (offOf p.1, p.2)) c
  have hregion : ∀ q ∈ qs, regionOf q.1 1 = some .lmem := by
    intro q hq
    obtain ⟨p, hp, hpq⟩ := (forall₂_raced hqs).1 q hq
    obtain ⟨r, hr, rfl⟩ := List.mem_map.1 hp
    have hq1 : q.1 = offOf r.1 := by rcases hpq with rfl | rfl <;> rfl
    rw [hq1]
    exact (region_of_here (hlmem r hr)).2
  have hlm : (qs.filter fun p => regionOf p.1 1 == some .lmem) = qs := List.filter_eq_self.2 fun q hq => by simp [hregion q hq]
  have hrest : (qs.filter fun p => regionOf p.1 1 != some .lmem) = [] := List.filter_eq_nil_iff.2 fun q hq => by simp [hregion q hq]
  have hbad : partialBad [] qs (noteRace n idx (qs.map Prod.fst) { c with free := k }) = [] := partialBad_sound hsound _ _
  refine ⟨qs, k, hqs, hfree, ?_⟩
  rw [storeHere_eq]
  simp only [hmine, hrace, hlm, hrest, hbad, List.foldl_nil, List.isEmpty_nil, if_true]

/-- An engine write of LMEM of this core with nothing outstanding elsewhere is made at once. -/
theorem engineWrite_lmem {c : Chip} {lc vc n idx : Nat} {cells : List (Nat × Byte)} (hlmem : ∀ p ∈ cells, hereRegion c p.1 = some .lmem)
    (hfar : farWrites c n idx = false) : engineWrite lc vc n idx [] cells c =
      storeHere lc n idx [] (cells.foldl (fun m p => SMap.insert p.2 m p.1) []) c := by
  have hm : ∀ p ∈ cells.foldl (fun (m : SMap Byte) p => SMap.insert p.2 m p.1) [], hereRegion c p.1 = some .lmem := fun p hp =>
    hlmem p ((mem_gather cells [] hp).resolve_right (List.not_mem_nil))
  unfold engineWrite
  generalize cells.foldl (fun (m : SMap Byte) p => SMap.insert p.2 m p.1) [] = m at hm ⊢
  have has : ∀ a ∈ m.map Prod.fst, hereRegion c a = some .lmem := by
    intro a ha
    obtain ⟨p, hp, rfl⟩ := List.mem_map.1 ha
    exact hm p hp
  have hbad : ((m.map Prod.fst).any fun a => isSelf c a && ((hereRegion c a).isNone || hereRegion c a == some .weight)) = false :=
    List.any_eq_false.2 fun a ha => by simp [has a ha]
  have hpages : ((m.map Prod.fst).filter fun a => hereRegion c a == some .pages) = [] :=
    List.filter_eq_nil_iff.2 fun a ha => by simp [has a ha]
  have hown : (m.filter fun p => isSelf c p.1) = m := List.filter_eq_self.2 fun p hp => (region_of_here (hm p hp)).1
  have hext : ((m.map Prod.fst).filter fun a => !isSelf c a) = [] :=
    List.filter_eq_nil_iff.2 fun a ha => by simp [(region_of_here (has a ha)).1]
  have hsent : ((m.map Prod.fst).filter fun a => hereRegion c a == some .host || hereRegion c a == some .pages) = [] :=
    List.filter_eq_nil_iff.2 fun a ha => by simp [has a ha]
  have hstored : (m.filter fun p => isStored c p.1) = m := List.filter_eq_self.2 fun p hp => by simp [isStored, hm p hp, Region.stored]
  have hwhole : wholeWords [] = true := rfl
  simp only [hbad, hpages, hwhole, hown, hext, hfar, hsent, hstored, List.isEmpty_nil, Bool.not_true, Bool.or_self, Bool.false_eq_true, if_false]
  rfl

/-- Settles O33. -/
theorem engineWritesToLmem : Obligations.EngineWritesToLmem := by
  unfold Obligations.EngineWritesToLmem
  intro c lc vc n idx cells hsound hlmem hnodup hfar
  have hm : ∀ p, p ∈ cells.foldl (fun (m : SMap Byte) p => SMap.insert p.2 m p.1) [] ↔ p ∈ cells := fun p =>
    ⟨fun hp => (mem_gather cells [] hp).resolve_right (List.not_mem_nil),
      fun hp => gather_has cells [] hp (List.Nodup.of_map offOf (by rw [List.map_map]; exact hnodup))⟩
  obtain ⟨qs, k, hqs, hfree, hstore⟩ := storeHere_lmem (lc := lc) (n := n) (idx := idx) hsound (fun p hp => hlmem p ((hm p).1 hp))
  obtain ⟨hfrom, hto⟩ := forall₂_raced hqs
  have hmem : (lmemWriteCells [] qs (noteRace n idx (qs.map Prod.fst) { c with free := k })).lmem.mem =
      qs.foldl (fun m p => Mem.set m p.1 p.2) c.lmem.mem := lmemWriteCells_sound hsound _ _
  have hcell : ∀ q ∈ qs, ∀ p ∈ cells, q.1 = offOf p.1 → Raced c (offOf p.1, p.2) q := by
    intro q hq p hp hqp
    obtain ⟨l, hl, hrel⟩ := hfrom q hq
    obtain ⟨p', hp', rfl⟩ := List.mem_map.1 hl
    have hkey : q.1 = offOf p'.1 := by rcases hrel with rfl | rfl <;> rfl
    obtain rfl : p' = p := List.inj_on_of_nodup_map hnodup ((hm p').1 hp') hp (hkey.symm.trans hqp)
    exact hrel
  have hlast : ∀ p ∈ cells, ∃ q ∈ qs, q.1 = offOf p.1 ∧ Raced c (offOf p.1, p.2) q ∧
      Mem.get (qs.foldl (fun m p => Mem.set m p.1 p.2) c.lmem.mem) (offOf p.1) = q.2 := by
    intro p hp
    obtain ⟨q, hq, hrel⟩ := hto (offOf p.1, p.2) (List.mem_map.2 ⟨p, (hm p).2 hp, rfl⟩)
    obtain ⟨r, hr, hrp, hval⟩ := Mem.get_foldl_some c.lmem.mem ⟨q, hq, by rcases hrel with rfl | rfl <;> rfl⟩
    exact ⟨r, hr, hrp, hcell r hr p hp hrp, hval⟩
  refine ⟨_, (engineWrite_lmem hlmem hfar).trans hstore, lmemWriteCells_wf _ _ _, fun hnone p hp => ?exact_, fun p hp => ?either,
    fun a ha => ?other, rfl, rfl, rfl, fun j => ?ring⟩
  case exact_ =>
    rw [hmem]
    obtain ⟨q, hq, hqp, _, hval⟩ := hlast p hp
    rw [hfree hnone] at hq
    obtain ⟨p', hp', rfl⟩ := List.mem_map.1 hq
    obtain rfl : p' = p := List.inj_on_of_nodup_map hnodup ((hm p').1 hp') hp hqp
    exact hval
  case either =>
    rw [hmem]
    obtain ⟨q, -, -, hrel, hval⟩ := hlast p hp
    rcases hrel with rfl | rfl
    · exact .inl hval
    · refine .inr (hval.trans ?_)
      simp only [coreByte, (region_of_here (hlmem p hp)).2]
  case other =>
    rw [hmem]
    refine Mem.get_foldl_other _ _ _ fun q hq hqa => ?_
    obtain ⟨l, hl, hrel⟩ := hfrom q hq
    obtain ⟨p, hp, rfl⟩ := List.mem_map.1 hl
    exact ha p ((hm p).1 hp) (by rw [← hqa]; rcases hrel with rfl | rfl <;> rfl)
  case ring =>
    have hring : ringOf (lmemWriteCells [] qs (noteRace n idx (qs.map Prod.fst) { c with free := k })) j = _ :=
      ringOf_noteRace n idx j (qs.map Prod.fst) { c with free := k }
    rw [hring]
    refine ⟨rfl, rfl, ?_⟩
    rw [List.map_map]
    exact List.map_congr_left fun d _ => raceNote_phase _ _ _ _ _ d

end Sys2Proof.Machine
end

section
/-! SUPPORT. Flits of a port (R401 to R405): what a received codeword does, and what a port sends. -/

namespace Sys2Proof.Machine

/-! ## Received codewords -/

theorem flitFits_of {c : Chip} {n : Nat} {f : FlitIn} (hn : n < 4)
    (h : (portOf c n).streaming = true ∧ f.lanes.length = (portOf c n).width) : flitFits c n f = true := by
  simp [flitFits, show n < Config.ports from hn, h]

theorem flitArrives_lost {n ft : Nat} {f : FlitIn} {c : Chip} (h : flitOf f = none) : flitArrives n ft f c =
    let d := flitLost n (updPort n (fun p => { p with uncorr := satAdd 16 p.uncorr 1, badRun := p.badRun + 1 }) c)
    (none, if 4 ≤ (portOf d n).badRun then portRetrain n d else d) := by
  unfold flitArrives
  rw [h]

theorem flitArrives_some {n ft k : Nat} {f : FlitIn} {bs : List Byte} {c : Chip} (h : flitOf f = some (bs, k)) : flitArrives n ft f c =
    let d := updPort n (fun p => { p with corr := satAdd 32 p.corr k, badRun := 0 }) c
    if flitIntact bs ft then (some bs, d) else (none, flitLost n d) := by
  unfold flitArrives
  rw [h]

theorem takes_iff (p : Port) (bs : List Byte) : p.takes bs = true ↔
    p.rxLost = false ∨ bits (leNat (bs.take 5)) 4 12 = (p.rxSeq + 1) % 4096 := by simp [Port.takes]

section
variable {n k : Nat} {f : FlitIn} {bs : List Byte} {c : Chip} (hflit : flitOf f = some (bs, k))
include hflit

/-- An IDLE flit that is intact. -/
theorem flitIdle_intact (hfits : flitFits c n f = true) (hgood : flitIntact bs 0 = true) : flitIdle n f c =
    let d := updPort n (fun p => { p with corr := satAdd 32 p.corr k, badRun := 0 }) c
    if (portOf d n).takes bs then flitAck n bs (updPort n (fun p => { p with rxLost := false }) d) else d := by
  simp [flitIdle, hfits, flitArrives_some hflit, hgood]

theorem flitData_intact (hfits : flitFits c n f = true) (hgood : flitIntact bs 1 = true) : flitData n f c =
    let d := updPort n (fun p => { p with corr := satAdd 32 p.corr k, badRun := 0 }) c
    let s := bits (leNat (bs.take 5)) 4 12
    if s = ((portOf d n).rxSeq + 1) % 4096 then
      let e := flitAck n bs (updPort n (fun x => { x with rxSeq := s, rxLost := false, rx := x.rx ++ (bs.drop 5).take 331 }) d)
      rxPackets n (portOf e n).rx.length e
    else flitLost n d := by
  simp only [flitData, hfits, flitArrives_some hflit, hgood, Bool.not_true, Bool.false_eq_true, if_false, if_true]

theorem flitReplay_intact (hfits : flitFits c n f = true) (hgood : flitIntact bs 2 = true) : flitReplay n f c =
    let counted := updPort n (fun p => { p with corr := satAdd 32 p.corr k, badRun := 0 }) c
    if (portOf counted n).takes bs then
      let found := updPort n (fun p => { p with rxLost := false }) counted
      let d := flitAck n bs found
      let d := updPort n (fun p => { (if (portOf found n).resync then p else p.resend (gives d)) with replays := satAdd 16 p.replays 1 }) d
      if (portOf d n).replay.any (fun f => decide (8 ≤ f.count)) then portRetrain n d else d
    else counted := by
  simp only [flitReplay, hfits, flitArrives_some hflit, hgood, Bool.not_true, Bool.false_eq_true, if_false, if_true]
  generalize hd : updPort n (fun p => { p with corr := satAdd 32 p.corr k, badRun := 0 }) c = d
  cases (portOf d n).takes bs
  · rfl
  · simp only [Bool.not_true, Bool.false_eq_true, if_false, if_true]
    cases (portOf (updPort n (fun p => { p with rxLost := false }) d) n).resync <;> rfl

/-- A flit that is damaged, or not of the command's type, is lost. -/
theorem flit_damaged (hfits : flitFits c n f = true) :
    let d := updPort n (fun p => { p with corr := satAdd 32 p.corr k, badRun := 0 }) c
    (flitIntact bs 0 = false → flitIdle n f c = flitLost n d) ∧ (flitIntact bs 1 = false → flitData n f c = flitLost n d) ∧
    (flitIntact bs 2 = false → flitReplay n f c = flitLost n d) := by
  refine ⟨fun h => ?_, fun h => ?_, fun h => ?_⟩
  · simp only [flitIdle, hfits, flitArrives_some hflit, h, Bool.not_true, Bool.false_eq_true, if_false]
  · simp only [flitData, hfits, flitArrives_some hflit, h, Bool.not_true, Bool.false_eq_true, if_false]
  · simp only [flitReplay, hfits, flitArrives_some hflit, h, Bool.not_true, Bool.false_eq_true, if_false]

end

/-- An uncorrectable codeword. -/
theorem flit_uncorrectable {n : Nat} {f : FlitIn} {c : Chip} (hflit : flitOf f = none) (hfits : flitFits c n f = true) :
    let d := flitLost n (updPort n (fun p => { p with uncorr := satAdd 16 p.uncorr 1, badRun := p.badRun + 1 }) c)
    let lost := if 4 ≤ (portOf d n).badRun then portRetrain n d else d
    flitIdle n f c = lost ∧ flitData n f c = lost ∧ flitReplay n f c = lost := by
  refine ⟨?_, ?_, ?_⟩
  · simp only [flitIdle, hfits, flitArrives_lost hflit, Bool.not_true, Bool.false_eq_true, if_false]
  · simp only [flitData, hfits, flitArrives_lost hflit, Bool.not_true, Bool.false_eq_true, if_false]
  · simp only [flitReplay, hfits, flitArrives_lost hflit, Bool.not_true, Bool.false_eq_true, if_false]

/-! ## What a port sends -/

theorem send_wire (give : Bool) (ft seq : Nat) (data : List Byte) (p : Port) : (p.send give ft seq data).wire =
    p.wire ++ [⟨ft, (p.returning give).1, seq, p.rxSeq, (p.returning give).2, data⟩] := rfl

theorem sendData_replay_length (give : Bool) (t : Nat) (p : Port) : (p.sendData give t).replay.length ≤ p.replay.length + 1 := by
  simp [Port.sendData]

theorem pumpPort_replay_length (give : Bool) (self weight t fuel : Nat) (p : Port) (h : p.replay.length ≤ 256) :
    (pumpPort give self weight t fuel p).replay.length ≤ 256 := by
  induction fuel generalizing p with
  | zero => exact h
  | succ fuel ih =>
    unfold pumpPort
    split
    · exact h
    · rename_i hroom
      simp only [Bool.or_eq_true, decide_eq_true_eq, not_or, Nat.not_le] at hroom
      split
      · exact ih _ h
      · split
        · exact h
        · exact ih _ (le_trans (sendData_replay_length give t p) hroom.2)

/-- Flits sent in a row stand on the wire in that order. -/
theorem sends_wire (give : Bool) (fs : List BufFlit) (p : Port) : ∃ ws,
    (fs.foldl (fun p f => p.send give 1 f.seq f.data) p).wire = p.wire ++ ws ∧
    ws.map (fun f => (f.ft, f.seq, f.data)) = fs.map (fun f => (1, f.seq, f.data)) ∧
    (fs.foldl (fun p f => p.send give 1 f.seq f.data) p).replay = p.replay := by
  induction fs generalizing p with
  | nil => exact ⟨[], by simp, rfl, rfl⟩
  | cons f fs ih =>
    obtain ⟨ws, hwire, hsent, hreplay⟩ := ih (p.send give 1 f.seq f.data)
    exact ⟨_ :: ws, by rw [List.foldl_cons, hwire, send_wire, List.append_assoc]; rfl, by rw [List.map_cons, List.map_cons, hsent], hreplay⟩

/-- Settles O42. -/
theorem flits : Obligations.Flits := by
  unfold Obligations.Flits
  refine ⟨fun n f hn => ⟨fun bs k hflit => ?received, fun hflit => ?uncorrectable, fun c => rfl⟩, fun give ft seq data p => ⟨rfl, rfl⟩,
    pumpPort_replay_length, fun give p => ?resent⟩
  case received =>
    refine ⟨fun hgood => ⟨?idle, ?idleKept⟩, fun hgood => ?data, fun hgood => ?dataLost, fun hgood => ⟨?replay, ?replayKept⟩,
      fun hbad => ?_, fun hbad => ?_, fun hbad => ?_⟩
    case idle =>
      exact links_onLink (fun _ => rfl) fun c ⟨hfits, htakes⟩ =>
        (flitIdle_intact hflit (flitFits_of hn hfits) hgood).trans (if_pos ((takes_iff _ bs).2 htakes))
    case idleKept =>
      exact links_onLink (fun _ => rfl) fun c ⟨hfits, htakes⟩ =>
        (flitIdle_intact hflit (flitFits_of hn hfits) hgood).trans (if_neg fun h => htakes ((takes_iff _ bs).1 h))
    case data =>
      exact links_onLink (fun _ => rfl) fun c ⟨hfits, hnext⟩ => (flitData_intact hflit (flitFits_of hn hfits) hgood).trans (if_pos hnext)
    case dataLost =>
      exact links_onLink (fun _ => rfl) fun c ⟨hfits, hnext⟩ => (flitData_intact hflit (flitFits_of hn hfits) hgood).trans (if_neg hnext)
    case replay =>
      exact links_onLink (fun _ => rfl) fun c ⟨hfits, htakes⟩ =>
        (flitReplay_intact hflit (flitFits_of hn hfits) hgood).trans (if_pos ((takes_iff _ bs).2 htakes))
    case replayKept =>
      exact links_onLink (fun _ => rfl) fun c ⟨hfits, htakes⟩ =>
        (flitReplay_intact hflit (flitFits_of hn hfits) hgood).trans (if_neg fun h => htakes ((takes_iff _ bs).1 h))
    · exact links_onLink (fun _ => rfl) fun c hfits => (flit_damaged hflit (flitFits_of hn hfits)).1 hbad
    · exact links_onLink (fun _ => rfl) fun c hfits => (flit_damaged hflit (flitFits_of hn hfits)).2.1 hbad
    · exact links_onLink (fun _ => rfl) fun c hfits => (flit_damaged hflit (flitFits_of hn hfits)).2.2 hbad
  case uncorrectable =>
    exact ⟨links_onLink (fun _ => rfl) fun c hfits => (flit_uncorrectable hflit (flitFits_of hn hfits)).1,
      links_onLink (fun _ => rfl) fun c hfits => (flit_uncorrectable hflit (flitFits_of hn hfits)).2.1,
      links_onLink (fun _ => rfl) fun c hfits => (flit_uncorrectable hflit (flitFits_of hn hfits)).2.2⟩
  case resent =>
    obtain ⟨ws, hwire, hsent, hreplay⟩ := sends_wire give p.replay { p with replay := p.replay.map fun f => { f with count := f.count + 1 } }
    refine ⟨?_, hreplay⟩
    rw [Port.resend, hwire, List.drop_left, hsent]

end Sys2Proof.Machine
end

section
/-! SUPPORT. The layout engine's descriptors and the starts of descriptors (O32, O34). -/

namespace Sys2Proof.Machine

/-! ## Movement -/

@[simp] theorem notePermRange_ring (bad : Bool) (c : Chip) : (notePermRange bad c).ring = c.ring := by
  unfold notePermRange; split <;> rfl

theorem ownLcn_notePermRange (bad : Bool) (c : Chip) : ownLcn (notePermRange bad c) = ownLcn c := by
  unfold notePermRange; split <;> rfl

theorem mapAddr_notePermRange (bad : Bool) (c : Chip) : mapAddr (notePermRange bad c) = mapAddr c := by
  funext m a
  have hself : isSelf (notePermRange bad c) a = isSelf c a := by simp only [isSelf, ownLcn_notePermRange]
  unfold mapAddr
  rw [hself]

theorem descOf_notePermRange (bad : Bool) (c : Chip) (q : DescRef) : descOf (notePermRange bad c) q = descOf c q := by
  simp only [descOf, ringOf, notePermRange_ring]

/-- Moves along index elements: they and the chosen source bytes are read, an index out of range being noted between. -/
theorem works_indexed {i : Instr} {q : DescRef} {opc : Nat} {pairs : Chip → Desc → List (List Nat × Src)} {out : Desc → Nat}
    {m : Chip → Chip} (hx : ∀ s, exec i s = run (inP0 m) s)
    (e : ∀ c d, Running c q 0 opc d → m c = withBytes 5 vcData q d (idxNames d) (fun d c =>
      dmaMove q (pairs c d) d (notePermRange (idxOut c d (out d)) c)) c) :
    Works i q 0 opc (fun c d => AtHand c 5 q ((idxNames d).map (mapAddr c d.rmap)) ∧
        AtHand (notePermRange (idxOut c d (out d)) c) 5 q ((pairNames d (pairs c d)).map (mapAddr c d.rmap)))
      (fun d c => padStore q (pairBytes (notePermRange (idxOut c d (out d)) c) d (pairs c d)) d (notePermRange (idxOut c d (out d)) c)) :=
  works_row hx fun c d hr ⟨hidx, hsrc⟩ => by
    rw [← mapAddr_notePermRange (idxOut c d (out d))] at hsrc
    rw [e c d hr, withBytes_eq hidx hr.found]
    exact withBytes_eq hsrc ((descOf_notePermRange _ c q).trans hr.found)

/-- Settles O32. -/
theorem movementRows : Obligations.MovementRows := by
  unfold Obligations.MovementRows
  refine ⟨fun q => ⟨?copyb, ?copy, ?permute, ?fill, ?split, ?transpose⟩, fun q => ⟨?gather, ?scatter⟩⟩
  case copyb =>
    refine works_row (fun _ => rfl) fun c d hr hat => ?_
    simp only [dmaCopyb, onRunning_eq hr, withBytes_eq hat hr.found]
  case copy =>
    refine works_row (fun _ => rfl) fun c d hr hat => ?_
    simp only [dmaCopy, dmaMove, onRunning_eq hr, withBytes_eq hat hr.found]
  case permute =>
    refine works_row (fun _ => rfl) fun c d hr hat => ?_
    simp only [dmaPermute, dmaMove, onRunning_eq hr, withBytes_eq hat hr.found]
  case fill => exact works_row (fun _ => rfl) fun c d hr _ => by simp only [dmaFill, onRunning_eq hr]
  case split =>
    refine works_row (fun _ => rfl) fun c d hr hat => ?_
    simp only [dmaSplit, onRunning_eq hr, withBytes_eq hat hr.found]
  case transpose =>
    refine works_row (fun _ => rfl) fun c d hr hat => ?_
    simp only [xpbTranspose, onRunning_eq hr, withBytes_eq hat hr.found]
  case gather => exact works_indexed (fun _ => rfl) fun c d hr => by simp only [dmaGather, onRunning_eq hr]
  case scatter => exact works_indexed (fun _ => rfl) fun c d hr => by simp only [dmaScatter, onRunning_eq hr]

/-! ## Starts -/

theorem retryDesc_checked {c : Chip} {q : DescRef} {cls : Nat} {d : Desc} (h : Checked c q cls d) :
    retryDesc q.ring q.idx c = tryStart (classTable cls) cls q.ring d c := by
  have hfound : (ringOf c q.ring).find q.idx = some d := h.found
  simp only [retryDesc, hfound, h.cls, h.phase, if_true]

theorem startRow_inTurn {c : Chip} {q : DescRef} {cls : Nat} {d : Desc} (h : Checked c q cls d) (hturn : inTurn c cls q.ring = true) :
    startRow cls q c = tryStart (classTable cls) cls q.ring d c := (if_pos ⟨h.cls, hturn⟩).trans (retryDesc_checked h)

/-- Out of turn nothing starts, whatever class the row serves. -/
theorem startRow_late {c : Chip} {q : DescRef} (k : Nat) (h : inTurn c (ringOf c q.ring).cls q.ring = false) : startRow k q c = c := by
  refine if_neg ?_
  rintro ⟨rfl, hturn⟩
  exact absurd (h.symm.trans hturn) (by decide)

/-- A checked descriptor answers its row of starts in its turn. -/
theorem starts_of {i : Instr} {q : DescRef} {cls : Nat} {d : Desc} {s : State} {m : Chip → Chip} {d' : Chip}
    (h : Checked s.chip q cls d) (hx : exec i s = run (inP0 m) s) (e : m s.chip = d') : Answers i s d' := by
  unfold Answers
  rw [hx, run_eq (awake_defined h.awake), inP0_eq h.awake, e]

theorem bufferWait_inTurn {c : Chip} {q : DescRef} {cls : Nat} {d : Desc} (hcls : cls = 0 ∨ cls = 8) (h : Checked c q cls d)
    (hturn : inTurn c cls q.ring = true) : bufferWait q c = dmaSecondBuf (tryStart (classTable cls) cls q.ring d c) := by
  rw [← startRow_inTurn h hturn]
  simp only [bufferWait, h.cls, if_pos hcls]

theorem bufferWait_late {c : Chip} {q : DescRef} (hcls : (ringOf c q.ring).cls = 0 ∨ (ringOf c q.ring).cls = 8)
    (h : inTurn c (ringOf c q.ring).cls q.ring = false) : bufferWait q c = dmaSecondBuf c := by
  simp only [bufferWait, if_pos hcls, startRow_late _ h]

theorem pinStart_inTurn {c : Chip} {q : DescRef} {cls : Nat} {d : Desc} (h : Checked c q cls d) (hturn : inTurn c cls q.ring = true) :
    pinStart q c = tryStart (classTable cls) cls q.ring d c := by
  rw [← startRow_inTurn h hturn, pinStart, h.cls]

/-- What stops a start (R143, R145, R374). -/
theorem tryStart_stopped {k : EngineClass} {cls n : Nat} {d : Desc} {c : Chip} (h : (ringOf c n).halted = true ∨ (ringOf c n).en = false ∨
    pageStopped c (classPage cls) = true ∨ (c.wvm.hold ≠ none ∧ cls ≠ 7 ∧ cls ≠ 15)) : tryStart k cls n d c = c := by
  refine if_pos ?_
  rcases h with h | h | h | ⟨hheld, hwvm, hseq⟩
  · simp [h]
  · simp [h]
  · simp [h]
  · simp [Option.isSome_iff_ne_none.2 hheld, hwvm, hseq]

/-! ## DMA_STAGE -/

theorem maskWrite_zero (m v : W64) : maskWrite m 0#64 v = v &&& m := by simp [maskWrite]

/-- The bits of DMA_STAGE that a write keeps. -/
def stageMask : W64 := maskOf [(0, 1), (6, 22), (32, 13)]

theorem bitAt_getLsbD (v : W64) (i : Nat) : bitAt v i = v.getLsbD i := rfl

theorem bitAt_stageMask (v : W64) : bitAt (v &&& stageMask) 0 = v.getLsbD 0 := by
  have h : stageMask.getLsbD 0 = true := by decide
  rw [bitAt_getLsbD, BitVec.getLsbD_and, h, Bool.and_true]

/-- What DMA_STAGE refuses: a change while it serves, and an area outside LMEM. -/
def stageBad (v : W64) (c : Chip) : Bool :=
  stageBusy c || (v.getLsbD 0 && !inLmem (stageBase (v &&& stageMask)) (stageSize (v &&& stageMask)))

theorem dmaStageWrite_good {v : W64} {c : Chip} (h : stageBad v c = false) : dmaStageWrite v c =
    { c with dma.stageErr := c.dma.stageErr && !v.getLsbD 63, dma.stage := v &&& stageMask } := by
  unfold stageBad at h
  have hbusy : stageBusy { c with dma.stageErr := false } = stageBusy c := rfl
  have hmask : maskOf [(0, 1), (6, 22), (32, 13)] = stageMask := rfl
  simp only [dmaStageWrite, hmask, maskWrite_zero, bitAt_stageMask, bitAt_getLsbD v 63]
  rcases Bool.eq_false_or_eq_true (v.getLsbD 63) with hclr | hclr
  · simp only [hclr, if_true, hbusy, h, Bool.false_eq_true, if_false, Bool.not_true, Bool.and_false]
  · simp only [hclr, Bool.false_eq_true, if_false, h, Bool.not_false, Bool.and_true]

theorem dmaStageWrite_bad {v : W64} {c : Chip} (h : stageBad v c = true) : dmaStageWrite v c = { c with dma.stageErr := true } := by
  unfold stageBad at h
  have hbusy : stageBusy { c with dma.stageErr := false } = stageBusy c := rfl
  have hmask : maskOf [(0, 1), (6, 22), (32, 13)] = stageMask := rfl
  simp only [dmaStageWrite, hmask, maskWrite_zero, bitAt_stageMask, bitAt_getLsbD v 63]
  rcases Bool.eq_false_or_eq_true (v.getLsbD 63) with hclr | hclr
  · simp only [hclr, if_true, hbusy, h]
  · simp only [hclr, Bool.false_eq_true, if_false, h, if_true]

/-- Settles O34. -/
theorem descriptorStarts : Obligations.DescriptorStarts := by
  unfold Obligations.DescriptorStarts
  refine ⟨⟨fun v => ⟨?staged, ?refused⟩, fun q d s h hturn => ?dma, fun q d s h hturn => ?xpb, fun q => ?wait⟩,
    fun q d s => ⟨fun h hturn => ?mxa, fun h hturn => ?mvp, fun h hturn => ⟨?vec, ?tapped⟩, fun cls h hturn => ?pin⟩,
    fun q => ⟨?mxaLate, ?mvpLate, ?vecLate, ?tappedLate, ?pinLate⟩, fun k cls n d c h => tryStart_stopped h⟩
  case staged => exact acts_regWrite (fun _ => rfl) fun c h => dmaStageWrite_good h
  case refused => exact acts_regWrite (fun _ => rfl) fun c h => dmaStageWrite_bad h
  case dma => exact starts_of h rfl (bufferWait_inTurn (.inl rfl) h hturn)
  case xpb => exact starts_of h rfl (bufferWait_inTurn (.inr rfl) h hturn)
  case wait => exact acts_inP0 (fun _ => rfl) fun c ⟨hcls, h⟩ => bufferWait_late hcls h
  case mxa => exact starts_of h rfl (startRow_inTurn h hturn)
  case mvp => exact starts_of h rfl (startRow_inTurn h hturn)
  case vec => exact starts_of h rfl (startRow_inTurn h hturn)
  case tapped => exact starts_of h rfl (startRow_inTurn h hturn)
  case pin => exact starts_of h rfl (pinStart_inTurn h hturn)
  case mxaLate => exact acts_inP0 (fun _ => rfl) fun c h => startRow_late 1 h
  case mvpLate => exact acts_inP0 (fun _ => rfl) fun c h => startRow_late 2 h
  case vecLate => exact acts_inP0 (fun _ => rfl) fun c h => startRow_late 3 h
  case tappedLate => exact acts_inP0 (fun _ => rfl) fun c h => startRow_late 3 h
  case pinLate => exact acts_inP0 (fun _ => rfl) fun c h => startRow_late _ h

end Sys2Proof.Machine
end

section
/-! SUPPORT. The matrix engines' streams, weight changes and FORCE7 (O35). -/

namespace Sys2Proof.Machine

theorem mxaStream_sampled {opc : Nat} {q : DescRef} {c : Chip} {d : Desc} (hr : Running c q 1 opc d) (hs : d.sampled = true) :
    mxaStream opc q c = if mayStream c d = true then withBytes 0 vcData q d (streamNames d) (fun d c =>
      withBytes 1 vcData q d (drainNames d) (streamOrAsk q) c) c else c := by
  simp only [mxaStream, onRunning_eq hr, hs, Bool.not_true, Bool.false_eq_true, if_false]

theorem mxaStream_unsampled {opc : Nat} {q : DescRef} {c : Chip} {d : Desc} (hr : Running c q 1 opc d) (hs : d.sampled = false) :
    mxaStream opc q c = mxaSample q.ring q.idx c := by
  simp only [mxaStream, onRunning_eq hr, hs, Bool.not_false, if_true]

theorem sampled_of_mayStream {c : Chip} {d : Desc} (h : mayStream c d = true) : d.sampled = true := by
  simp only [mayStream, Bool.and_eq_true] at h
  exact h.1

/-- A stream that may run, its operands at hand, streams or asks for the power of its dense arrays. -/
theorem mxaStream_ready {opc : Nat} {q : DescRef} {c : Chip} {d : Desc} (hr : Running c q 1 opc d) (hmay : mayStream c d = true)
    (hin : AtHand c 0 q ((streamNames d).map (mapAddr c d.rmap))) (hout : AtHand c 1 q ((drainNames d).map (mapAddr c d.rmap))) :
    mxaStream opc q c = streamOrAsk q d c := by
  rw [mxaStream_sampled hr (sampled_of_mayStream hmay), if_pos hmay, withBytes_eq hin hr.found, withBytes_eq hout hr.found]

theorem streamOrAsk_dense {c : Chip} {d : Desc} (q : DescRef) (h : denseArrays c d ≠ []) :
    streamOrAsk q d c = (denseArrays c d).foldl (fun c n => addRequest (13 + n) c) c := by
  unfold streamOrAsk
  split
  next he => exact absurd he h
  next => rfl

/-- The four clauses of a stream, for STREAM and TAPS alike. -/
theorem works_stream {i : Instr} {q : DescRef} {opc : Nat} (hx : ∀ s, exec i s = run (inP0 (mxaStream opc q)) s) :
    Works i q 1 opc (fun c d => (mayStream c d = true ∧ AtHand c 0 q ((streamNames d).map (mapAddr c d.rmap)) ∧
      AtHand c 1 q ((drainNames d).map (mapAddr c d.rmap))) ∧ denseArrays c d = []) (streamWork q) ∧
    Works i q 1 opc (fun c d => (mayStream c d = true ∧ AtHand c 0 q ((streamNames d).map (mapAddr c d.rmap)) ∧
      AtHand c 1 q ((drainNames d).map (mapAddr c d.rmap))) ∧ denseArrays c d ≠ [])
      (fun d c => (denseArrays c d).foldl (fun c n => addRequest (13 + n) c) c) ∧
    Works i q 1 opc (fun c d => d.sampled = true ∧ mayStream c d = false) (fun _ c => c) ∧
    Works i q 1 opc (fun _ d => d.sampled = false) (fun _ => mxaSample q.ring q.idx) := by
  refine ⟨works_row hx fun c d hr ⟨⟨hmay, hin, hout⟩, hnone⟩ => ?sparse, works_row hx fun c d hr ⟨⟨hmay, hin, hout⟩, hsome⟩ => ?dense,
    works_row hx fun c d hr ⟨hs, hmay⟩ => ?early, works_row hx fun c d hr hs => mxaStream_unsampled hr hs⟩
  case sparse => simp only [mxaStream_ready hr hmay hin hout, streamOrAsk, hnone]
  case dense => exact (mxaStream_ready hr hmay hin hout).trans (streamOrAsk_dense q hsome)
  case early => simp only [mxaStream_sampled hr hs, hmay, Bool.false_eq_true, if_false]

theorem mvpProduct_ready {q : DescRef} {c : Chip} {d : Desc} (hr : Running c q 2 1 d)
    (hin : AtHand c 3 q ((mvpNames d).map (mapAddr c d.rmap))) (hold : AtHand c 3 q ((mvpOldNames d).map (mapAddr c d.wmap))) :
    mvpProduct q c = mvpWork q d c := by
  unfold AtHand at hold
  simp only [mvpProduct, onRunning_eq hr, withBytes_eq hin hr.found, hold, andThen, hr.found]

/-! ## The change of weight sets -/

theorem arrayFlip_front {a n : Nat} {d : Desc} {rest : List (Nat × Desc)} {c : Chip} (h : onArray c a 1 = (n, d) :: rest) :
    arrayFlip a c = if !d.sampled then mxaSample n d.idx c
      else if d.keepW = true ∨ (!mayEnter c d) = true then c
      else if d.mMode = mSPLIT3 then
        withBytes 0 vcData ⟨n, d.idx⟩ d (d.arrays.flatMap (wNames d)) (fun d c =>
          markLoad n d.idx (d.arrays.foldl (fun c a => loadSplit d a c) (putDesc n d.flipped c))) c
      else d.arrays.foldl (fun c a => swapSets a c) (putDesc n d.flipped c) := by
  simp only [arrayFlip, h]

theorem mayEnter_of_busy {c : Chip} {d : Desc} {b : Nat} (hb : b ∈ d.arrays) (h : onArray c b 2 ≠ []) : mayEnter c d = false :=
  List.all_eq_false.2 ⟨b, hb, by simpa using h⟩

theorem arrayFlip_waits {a n : Nat} {d : Desc} {rest : List (Nat × Desc)} {c : Chip} (h : onArray c a 1 = (n, d) :: rest)
    (hs : d.sampled = true) (hw : d.keepW = true ∨ ∃ b ∈ d.arrays, onArray c b 2 ≠ []) : arrayFlip a c = c := by
  have hstays : d.keepW = true ∨ (!mayEnter c d) = true := by
    rcases hw with hkeep | ⟨b, hb, hbusy⟩
    · exact .inl hkeep
    · exact .inr (by simp [mayEnter_of_busy hb hbusy])
  rw [arrayFlip_front h, hs, if_neg (by decide), if_pos hstays]

theorem arrayFlip_goes {a n : Nat} {d : Desc} {rest : List (Nat × Desc)} {c : Chip} (h : onArray c a 1 = (n, d) :: rest)
    (hs : d.sampled = true) (hkeep : d.keepW = false) (hmay : mayEnter c d = true) : arrayFlip a c =
      if d.mMode = mSPLIT3 then
        withBytes 0 vcData ⟨n, d.idx⟩ d (d.arrays.flatMap (wNames d)) (fun d c =>
          markLoad n d.idx (d.arrays.foldl (fun c a => loadSplit d a c) (putDesc n d.flipped c))) c
      else d.arrays.foldl (fun c a => swapSets a c) (putDesc n d.flipped c) := by
  rw [arrayFlip_front h, hs, if_neg (by decide), if_neg (by simp [hkeep, hmay])]

/-! ## FORCE7 -/

theorem force7Apply_idle {c : Chip} (hwait : c.mxa.f7Wait = true) (hidle : classDescs c 1 Desc.started = []) :
    force7Apply c = deriveLat { c with mxa.f7Wait := false } := if_pos ⟨hwait, by rw [hidle]; rfl⟩

theorem force7Apply_busy {c : Chip} (hbusy : classDescs c 1 Desc.started ≠ []) : force7Apply c = c :=
  if_neg fun h => hbusy (List.isEmpty_iff.1 h.2)

/-- Settles O35. -/
theorem matrixRows : Obligations.MatrixRows := by
  unfold Obligations.MatrixRows
  refine ⟨fun q => ⟨works_stream fun _ => rfl, works_stream fun _ => rfl, ?product⟩,
    fun a n d rest => ⟨?swap, ?split, ?sample, ?waits⟩, fun v => ?force7, ?applied, ?busy⟩
  case product => exact works_row (fun _ => rfl) fun c d hr ⟨hin, hold⟩ => mvpProduct_ready hr hin hold
  case swap =>
    refine acts_inP0 (fun _ => rfl) fun c ⟨h, hs, hkeep, hmay, hmode⟩ => ?_
    rw [arrayFlip_goes h hs hkeep hmay, if_neg hmode]
    rfl
  case split =>
    refine acts_inP0 (fun _ => rfl) fun c ⟨h, hs, hkeep, hmay, hmode, hfound, hat⟩ => ?_
    rw [arrayFlip_goes h hs hkeep hmay, if_pos hmode, withBytes_eq hat hfound]
    rfl
  case sample =>
    refine acts_inP0 (fun _ => rfl) fun c ⟨h, hs⟩ => ?_
    rw [arrayFlip_front h, hs, if_pos (by decide)]
  case waits => exact acts_inP0 (fun _ => rfl) fun c ⟨h, hs, hw⟩ => arrayFlip_waits h hs hw
  case force7 => exact does_regWrite fun _ => rfl
  case applied => exact acts_inP0 (fun _ => rfl) fun c ⟨hwait, hidle⟩ => force7Apply_idle hwait hidle
  case busy => exact acts_inP0 (fun _ => rfl) fun c ⟨_, hbusy⟩ => force7Apply_busy hbusy

end Sys2Proof.Machine
end

section
/-! SUPPORT. Vector passes, reductions and scale tracking (O36, O37). -/

namespace Sys2Proof.Machine

/-! ## VEC -/

theorem vecRun_sampled {q : DescRef} {c : Chip} {d : Desc} (hr : Running c q 3 1 d) (hs : d.sampled = true) :
    vecRun q c = if (d.vFwd.isEmpty || d.took.length == d.vRows) = true then withBytes 4 vcData q d (runNames d) (runWork q) c else c := by
  simp only [vecRun, onRunning_eq hr, hs, Bool.not_true, Bool.false_eq_true, if_false]

theorem vecRun_unsampled {q : DescRef} {c : Chip} {d : Desc} (hr : Running c q 3 1 d) (hs : d.sampled = false) :
    vecRun q c = vecSample q.ring q.idx c := by
  simp only [vecRun, onRunning_eq hr, hs, Bool.not_false, if_true]

/-- The META word of a TREDUCE summary (Table 4.15). -/
theorem treduce_meta (tag : Nat) : packNat [(0, 16, tag), (16, 4, 6), (20, 1, 1), (21, 4, 3)] =
    tag % 2 ^ 16 + 2 ^ 16 * 6 + 2 ^ 20 + 2 ^ 21 * 3 := by
  simp only [packNat]
  omega

theorem fwdRow_taken {ch n : Nat} {w : FwdRow} {d : Desc} {rest : List (Nat × Desc)} {c : Chip}
    (hrow : c.vec.fwd.find? (fun w => w.chain == ch) = some w)
    (htaker : classDescs c 3 (fun d => decide (d.phase = .running) && d.chs == [ch] && d.opc == 1 && !d.vFwd.isEmpty
      && d.vFwdTag == w.tag && decide (d.took.length < d.vRows)) = (n, d) :: rest) : fwdRow ch c =
      let others := (c.vec.fwd.takeWhile fun x => x.chain != ch) ++ (c.vec.fwd.dropWhile fun x => x.chain != ch).drop 1
      countElems w.lanes.length w.array (putDesc n { d with took := d.took ++ [w.lanes] } { c with vec.fwd := others }) := by
  simp only [fwdRow, hrow, htaker, List.head?_cons]

/-! ## RDU -/

theorem rduLreduce_taps {q : DescRef} {c : Chip} {d : Desc} (hr : Running c q 4 1 d) (hsrc : d.lSrc = 0) : rduLreduce q c =
    if d.fedRuns = d.lCount then lreduceAll q d (d.fed.map fun p => (p.1, fp64.decode p.2)) c else c := by
  simp only [rduLreduce, onRunning_eq hr, if_pos hsrc]

theorem rduLreduce_window {q : DescRef} {c : Chip} {d : Desc} (hr : Running c q 4 1 d) (hsrc : d.lSrc ≠ 0)
    (hat : AtHand c 4 q (((windowIdx [(d.lEl, d.lLanes), (d.lRow, d.lCount)]).flatMap fun ix =>
      elemAddrs (d.ten d.lTld).o (d.ten d.lTld).t ix).map (mapAddr c d.rmap))) : rduLreduce q c =
      if d.lAxis = 0 then lreduceAll q d ((lreduceElems c d).map fun x => (x.1 * d.lLanes + x.2.1, x.2.2)) c
      else lreduceAxis q d (lreduceElems c d) c := by
  simp only [rduLreduce, onRunning_eq hr, if_neg hsrc, withBytes_eq hat hr.found]

theorem rduCreduce_running {q : DescRef} {c : Chip} {d : Desc} (hr : Running c q 4 2 d) :
    rduCreduce q c = consumePieces q (d.cPieces - d.prog) c := by
  simp only [rduCreduce, hr.found]

theorem consumePiece_unsampled {q : DescRef} {c : Chip} {d : Desc} (hr : Running c q 4 2 d) (hs : d.sampled = false) :
    consumePiece q c = rduSample q.ring q.idx c := by
  simp only [consumePiece, onRunning_eq hr, hs, Bool.not_false, if_true]

theorem consumePiece_waits {q : DescRef} {c : Chip} {d : Desc} (hr : Running c q 4 2 d) (hs : d.sampled = true)
    (hwait : pieceHere c d = false ∨ freeRoom c d = false) : consumePiece q c = c := by
  have hstays : (!pieceHere c d || !freeRoom c d) = true := by
    rcases hwait with h | h
    · simp only [h, Bool.not_false, Bool.true_or]
    · simp only [h, Bool.not_false, Bool.or_true]
  simp only [consumePiece, onRunning_eq hr, hs, Bool.not_true, Bool.false_eq_true, if_false, hstays, if_true]

theorem rduXreduce_unsampled {q : DescRef} {c : Chip} {d : Desc} (hr : Running c q 4 3 d) (hs : d.sampled = false) :
    rduXreduce q c = rduSample q.ring q.idx c := by
  simp only [rduXreduce, onRunning_eq hr, hs, Bool.not_false, if_true]

/-- What an XREDUCE of sampled words reads out. -/
def xreduceExact (d : Desc) : Exact := d.exact (SMap.get 0 d.samp 1).toNat (SMap.get 0 d.samp 2).toNat

/-- The summary of an XREDUCE, for all kinds but 0. -/
def xreduceSum (q : DescRef) (d : Desc) : Chip → Chip :=
  addSums q [rduSummary d.xTag (if d.xKind = 1 then 0xE else 8) (xreduceExact d).read.2 (f64Code (xreduceExact d).read.1)]

/-- The record an XREDUCE writes. -/
def xreduceOut (q : DescRef) (d : Desc) : Chip → Chip :=
  writeOut 4 vcData q d [] (((rangeFrom 0 (if d.xOut = 0 then [] else (xreduceExact d).record).length).zip
    (if d.xOut = 0 then [] else (xreduceExact d).record)).map fun p => (byteAddr d.xOut p.1, p.2))

theorem rduXreduce_sampled {q : DescRef} {c : Chip} {d : Desc} (hr : Running c q 4 3 d) (hs : d.sampled = true) : rduXreduce q c =
    xreduceOut q d (if d.xKind = 1 ∧ (!(xreduceExact d).read.2) = true
      then noteNonfinite (xreduceExact d).src (if d.xKind = 0 then c else xreduceSum q d c)
      else if d.xKind = 0 then c else xreduceSum q d c) := by
  simp only [rduXreduce, onRunning_eq hr, hs, Bool.not_true, Bool.false_eq_true, if_false]
  rfl

/-- Settles O36. -/
theorem vectorAndReductionRows : Obligations.VectorAndReductionRows := by
  unfold Obligations.VectorAndReductionRows
  refine ⟨⟨fun q => ⟨?run, ?runWaits, ?runSamples, ?word, ?rows⟩, fun ch n w d rest => ?forward⟩,
    fun q => ⟨?taps, ?tapsWait, ?window, fun s d hr => ?pieces, fun s d hr => ?piece, ?pieceWaits, ?pieceSamples,
      ?silent, ?summed, ?nonfinite, ?xSamples⟩⟩
  case run =>
    exact works_row (fun _ => rfl) fun c d hr ⟨hs, hgo, hat⟩ => by rw [vecRun_sampled hr hs, if_pos hgo, withBytes_eq hat hr.found]
  case runWaits =>
    exact works_row (fun _ => rfl) fun c d hr ⟨hs, hgo⟩ => (vecRun_sampled hr hs).trans (if_neg (ne_true_of_eq_false hgo))
  case runSamples => exact works_row (fun _ => rfl) fun c d hr hs => vecRun_unsampled hr hs
  case word =>
    refine works_row (fun _ => rfl) fun c d hr hword => ?_
    simp only [vecTreduce, onRunning_eq hr, hword, treduce_meta, Bool.false_eq_true, if_false]
  case rows =>
    refine works_row (fun _ => rfl) fun c d hr hrows => ?_
    simp only [vecTreduce, onRunning_eq hr, hrows, treduce_meta, if_true]
    rfl
  case forward => exact acts_inP0 (fun _ => rfl) fun c ⟨hrow, htaker⟩ => fwdRow_taken hrow htaker
  case taps => exact works_row (fun _ => rfl) fun c d hr ⟨hsrc, hall⟩ => (rduLreduce_taps hr hsrc).trans (if_pos hall)
  case tapsWait => exact works_row (fun _ => rfl) fun c d hr ⟨hsrc, hmore⟩ => (rduLreduce_taps hr hsrc).trans (if_neg hmore)
  case window => exact works_row (fun _ => rfl) fun c d hr ⟨hsrc, hat⟩ => rduLreduce_window hr hsrc hat
  case pieces =>
    exact works_row (h := fun _ _ => True) (f := fun d c => consumePieces q (d.cPieces - d.prog) c) (fun _ => rfl)
      (fun c d hr _ => rduCreduce_running hr) s d hr trivial
  case piece => exact works_row (h := fun _ _ => True) (f := fun _ c => consumePiece q c) (fun _ => rfl) (fun _ _ _ _ => rfl) s d hr trivial
  case pieceWaits => exact works_row (fun _ => rfl) fun c d hr ⟨hs, hwait⟩ => consumePiece_waits hr hs hwait
  case pieceSamples => exact works_row (fun _ => rfl) fun c d hr hs => consumePiece_unsampled hr hs
  case silent =>
    refine works_row (fun _ => rfl) fun c d hr ⟨hs, hkind⟩ => ?_
    rw [rduXreduce_sampled hr hs, if_neg (by simp [hkind]), if_pos hkind]
    rfl
  case summed =>
    refine works_row (fun _ => rfl) fun c d hr ⟨hs, hkind, hfin⟩ => ?_
    have hquiet : ¬ (d.xKind = 1 ∧ (!(xreduceExact d).read.2) = true) := fun ⟨h1, hbad⟩ => by
      have hgood : (xreduceExact d).read.2 = true := hfin h1
      simp [hgood] at hbad
    rw [rduXreduce_sampled hr hs, if_neg hquiet, if_neg hkind]
    rfl
  case nonfinite =>
    refine works_row (fun _ => rfl) fun c d hr ⟨hs, hkind, hbad⟩ => ?_
    have hloud : d.xKind = 1 ∧ (!(xreduceExact d).read.2) = true := ⟨hkind, congrArg not hbad⟩
    rw [rduXreduce_sampled hr hs, if_pos hloud, if_neg (by omega)]
    rfl
  case xSamples => exact works_row (fun _ => rfl) fun c d hr hs => rduXreduce_unsampled hr hs

/-! ## SCT -/

theorem slotCfgWrite_refused {v : W64} (h : slotCfgOk v = false) (c : Chip) : slotCfgWrite v c = { c with sct.cfgErr := true } :=
  if_neg (ne_true_of_eq_false h)

theorem slotScaleWrite_eq (v : W64) (c : Chip) : slotScaleWrite v c = if expOk (sext 8 (v.toNat % 2 ^ 8)) = true then
    setSlot c.sct.sel { slotOf c c.sct.sel with x := v.toNat % 2 ^ 8, good := v.toNat / 2 ^ 16 % 2 ^ 16 } c
    else { c with sct.cfgErr := true } := by
  simp only [slotScaleWrite, fld_eq, pow_zero, Nat.div_one]

/-- Settles O37. -/
theorem scaleTrackerRows : Obligations.ScaleTrackerRows := by
  unfold Obligations.ScaleTrackerRows
  refine ⟨fun k n i g t => ?tap, fun v => ⟨fun hok => ?cfg, fun hbad => ?cfgBad, fun hok => ?scale, fun hbad => ?scaleBad⟩,
    does_regWrite, does_regWrite, does_regWrite⟩
  case tap => exact acts_inP0 (fun _ => rfl) fun c hdue => by simp only [sctTap, hdue]
  case cfg => exact acts_regWrite (fun _ => rfl) fun c _ => if_pos hok
  case cfgBad => exact acts_regWrite (fun _ => rfl) fun c _ => slotCfgWrite_refused hbad c
  case scale => exact acts_regWrite (fun _ => rfl) fun c _ => (slotScaleWrite_eq v c).trans (if_pos hok)
  case scaleBad => exact acts_regWrite (fun _ => rfl) fun c _ => (slotScaleWrite_eq v c).trans (if_neg (ne_true_of_eq_false hbad))

end Sys2Proof.Machine
end

section
/-! SUPPORT. The weight volume manager (O38). -/

namespace Sys2Proof.Machine

/-! ## Descriptors -/

theorem wvmUpdate_own {c : Chip} {d : Desc} {k : Cause} (h : wvmOwn c d = some k) (q : DescRef) (f : Chip → Chip) :
    wvmUpdate q d f c = abandonDesc q.ring q.idx k c := by
  simp only [wvmUpdate, h]

theorem wvmUpdate_free {c : Chip} {d : Desc} (h : wvmOwn c d = none) (q : DescRef) (f : Chip → Chip) :
    wvmUpdate q d f c = finishWork q (f c) := by
  simp only [wvmUpdate, h]

theorem wvmRelease_eq {q : DescRef} {c : Chip} {d : Desc} (hr : Running c q 7 2 d) : wvmRelease q c =
    if d.wRgns.all (rgnQuiet c) = true then finishWork q (dropOpens d.wRgns (d.wRgns.foldl (fun c g => setRgn g .reset c) c)) else c := by
  simp only [wvmRelease, onRunning_eq hr]

/-- What COMMIT and SKIP do first: ask for the hold, where nobody does or has it. -/
def askHold (q : DescRef) (c : Chip) : Chip :=
  if c.wvm.wants.isNone && c.wvm.hold.isNone then { c with wvm.wants := some (q.ring, q.idx) } else c

theorem wvmCommit_eq {q : DescRef} {c : Chip} {d : Desc} (hr : Running c q 7 4 d) : wvmCommit q c = askHold q c := onRunning_eq hr

theorem wvmSkip_eq {q : DescRef} {c : Chip} {d : Desc} (hr : Running c q 7 5 d) : wvmSkip q c = askHold q c := onRunning_eq hr

theorem askHold_free {c : Chip} (q : DescRef) (h : c.wvm.wants = none ∧ c.wvm.hold = none) :
    askHold q c = { c with wvm.wants := some (q.ring, q.idx) } := if_pos (by rw [h.1, h.2]; rfl)

theorem askHold_taken {c : Chip} (q : DescRef) (h : c.wvm.wants ≠ none ∨ c.wvm.hold ≠ none) : askHold q c = c :=
  if_neg (by simpa [imp_iff_not_or] using h)

theorem wvmOnStart_pin {n : Nat} {d : Desc} {c : Chip} (hopc : d.opc = 6) (hsel : d.wSel = 0) (hfree : wvmOwn c d = none) :
    wvmOnStart n d c = { c with wvm.handles := SMap.set .reset c.wvm.handles d.wPin ⟨d.wFirst, d.wCount, true, c.wvm.opt, pinSlots c d⟩ } := by
  simp only [wvmOnStart, if_pos hopc, hfree, pinHandle, if_pos hsel]

/-! ## The hold -/

/-- What the hold does once it is free (R376 to R382): the costs end, the step changes, and the descriptor's work is over. -/
def takeHold (q : DescRef) (d : Desc) (guarded commit : Bool) (c : Chip) : Chip :=
  let c := costMark q false c
  let c := stepChange commit { c with wvm.wants := none, wvm.hold := some (q.ring, q.idx) }
  let c := if guarded then { c with wvm.guarded := satAdd 16 c.wvm.guarded 1 } else c
  let c := if commit && d.wFreeze then stepFreeze d.wSnapGen c else c
  let what := if commit then 1 else if guarded then 3 else 2
  finishWork q (emit 0x0B pWVM (BitVec.ofNat 64 what) (pack [(0, 32, c.wvm.opt), (32, 32, c.wvm.batch)]) c)

theorem wvmHold_wanted {c : Chip} {n i : Nat} {d : Desc} (hwants : c.wvm.wants = some (n, i)) (hfound : descOf c ⟨n, i⟩ = some d) :
    wvmHold c = if (holdBlocked c || c.snap.latCopy) = true then costMark ⟨n, i⟩ (c.snap.latCopy && !holdBlocked c) c
      else takeHold ⟨n, i⟩ d (d.opc == 4 && SMap.get 0 d.samp 1 == 1) (d.opc == 4 && !(d.opc == 4 && SMap.get 0 d.samp 1 == 1)) c := by
  simp only [wvmHold, hwants, hfound]
  rfl

theorem wvmHold_free {c : Chip} {n i : Nat} {d : Desc} {guarded commit : Bool} (hwants : c.wvm.wants = some (n, i))
    (hfound : descOf c ⟨n, i⟩ = some d) (hw : anyWriter c = false) (hq : (pageOf c pSCT).qreq = false) (hl : c.snap.latCopy = false)
    (hguard : (d.opc == 4 && SMap.get 0 d.samp 1 == 1) = guarded) (hcommit : (d.opc == 4 && !guarded) = commit) :
    wvmHold c = takeHold ⟨n, i⟩ d guarded commit c := by
  rw [wvmHold_wanted hwants hfound, if_neg (by simp [holdBlocked, hw, hq, hl]), hguard, hcommit]

theorem holdBlocked_of {c : Chip} (h : anyWriter c = true ∨ (pageOf c pSCT).qreq = true) : holdBlocked c = true := by
  simpa [holdBlocked] using h

theorem wvmHold_blocked {c : Chip} {n i : Nat} {d : Desc} (hwants : c.wvm.wants = some (n, i)) (hfound : descOf c ⟨n, i⟩ = some d)
    (h : anyWriter c = true ∨ (pageOf c pSCT).qreq = true) : wvmHold c = costMark ⟨n, i⟩ false c := by
  have hb : holdBlocked c = true := holdBlocked_of h
  rw [wvmHold_wanted hwants hfound, hb, if_pos (Bool.true_or _), Bool.not_true, Bool.and_false]

theorem wvmHold_copying {c : Chip} {n i : Nat} {d : Desc} (hwants : c.wvm.wants = some (n, i)) (hfound : descOf c ⟨n, i⟩ = some d)
    (hw : anyWriter c = false) (hq : (pageOf c pSCT).qreq = false) (hl : c.snap.latCopy = true) : wvmHold c = costMark ⟨n, i⟩ true c := by
  have hb : holdBlocked c = false := by simp [holdBlocked, hw, hq]
  rw [wvmHold_wanted hwants hfound, hb, hl, if_pos (Bool.or_true _)]
  rfl

/-! ## WVM_STEP -/

theorem wvmStepWrite_eq (v : W64) (c : Chip) : wvmStepWrite v c =
    if ((classDescs c 7 Desc.started).isEmpty && c.wvm.rgns.all fun p => decide (p.2.other ≠ .pend)) = true then
      { c with wvm.opt := v.toNat % 2 ^ 32, wvm.batch := v.toNat / 2 ^ 32 % 2 ^ 32 } else { c with wvm.cfgErr := true } := by
  simp only [wvmStepWrite, fld_eq, pow_zero, Nat.div_one]

theorem wvmIdle_iff (c : Chip) : ((classDescs c 7 Desc.started).isEmpty && c.wvm.rgns.all fun p => decide (p.2.other ≠ .pend)) = true ↔
    classDescs c 7 Desc.started = [] ∧ ∀ p ∈ c.wvm.rgns, p.2.other ≠ .pend := by
  simp only [Bool.and_eq_true, List.isEmpty_iff, List.all_eq_true, decide_eq_true_eq]

/-- Settles O38. -/
theorem weightRows : Obligations.WeightRows := by
  unfold Obligations.WeightRows
  refine ⟨fun q => ⟨?register, fun k => ?registerOwn, fun k => ?thawOwn, ?release, ?releaseWaits, ⟨?step, ?take⟩, ?commit, ?skip,
    ?commitWaits, ?skipWaits, ?pin, fun n d c => wvmOnStart_pin, ?unpin, ?thaw⟩,
    fun n i d => ?held, fun n i d => ?committed, fun n i d => ?guarded, fun n i d => ?blocked, fun n i d => ?copying, ?nobody,
    fun v => ⟨?stepSet, ?stepRefused⟩⟩
  case register => exact works_row (fun _ => rfl) fun c d hr h => (onRunning_eq hr).trans (wvmUpdate_free h q _)
  case registerOwn => exact works_row (fun _ => rfl) fun c d hr h => (onRunning_eq hr).trans (wvmUpdate_own h q _)
  case thawOwn => exact works_row (fun _ => rfl) fun c d hr h => (onRunning_eq hr).trans (wvmUpdate_own h q _)
  case release => exact works_row (fun _ => rfl) fun c d hr h => (wvmRelease_eq hr).trans (if_pos h)
  case releaseWaits => exact works_row (fun _ => rfl) fun c d hr h => (wvmRelease_eq hr).trans (if_neg (ne_true_of_eq_false h))
  case step => exact works_row (fun _ => rfl) fun c d hr _ => onRunning_eq hr
  case take => exact works_row (m := wvmOpen q) (fun _ => rfl) fun c d hr _ => onRunning_eq hr
  case commit => exact works_row (fun _ => rfl) fun c d hr h => (wvmCommit_eq hr).trans (askHold_free q h)
  case skip => exact works_row (fun _ => rfl) fun c d hr h => (wvmSkip_eq hr).trans (askHold_free q h)
  case commitWaits => exact works_row (fun _ => rfl) fun c d hr h => (wvmCommit_eq hr).trans (askHold_taken q h)
  case skipWaits => exact works_row (fun _ => rfl) fun c d hr h => (wvmSkip_eq hr).trans (askHold_taken q h)
  case pin => exact works_row (fun _ => rfl) fun c d hr _ => onRunning_eq hr
  case unpin => exact works_row (fun _ => rfl) fun c d hr _ => onRunning_eq hr
  case thaw => exact works_row (fun _ => rfl) fun c d hr h => (onRunning_eq hr).trans (wvmUpdate_free h q _)
  case held =>
    exact acts_inP0 (fun _ => rfl) fun c ⟨hwants, hfound, hopc, hw, hq, hl⟩ =>
      wvmHold_free (guarded := false) (commit := false) hwants hfound hw hq hl (by simp [hopc]) (by simp [hopc])
  case committed =>
    exact acts_inP0 (fun _ => rfl) fun c ⟨hwants, hfound, hopc, hsamp, hw, hq, hl⟩ =>
      wvmHold_free (guarded := false) (commit := true) hwants hfound hw hq hl (by simp [hsamp]) (by simp [hopc])
  case guarded =>
    exact acts_inP0 (fun _ => rfl) fun c ⟨hwants, hfound, hopc, hsamp, hw, hq, hl⟩ =>
      wvmHold_free (guarded := true) (commit := false) hwants hfound hw hq hl (by simp [hopc, hsamp]) (by simp)
  case blocked => exact acts_inP0 (fun _ => rfl) fun c ⟨hwants, hfound, h⟩ => wvmHold_blocked hwants hfound h
  case copying => exact acts_inP0 (fun _ => rfl) fun c ⟨hwants, hfound, hw, hq, hl⟩ => wvmHold_copying hwants hfound hw hq hl
  case nobody => exact acts_inP0 (fun _ => rfl) fun c hnone => by simp only [wvmHold, hnone, id]
  case stepSet => exact acts_regWrite (fun _ => rfl) fun c h => (wvmStepWrite_eq v c).trans (if_pos ((wvmIdle_iff c).2 h))
  case stepRefused =>
    refine acts_regWrite (fun _ => rfl) fun c h => (wvmStepWrite_eq v c).trans (if_neg fun hidle => ?_)
    obtain ⟨hnone, hquiet⟩ := (wvmIdle_iff c).1 hidle
    rcases h with hsome | ⟨p, hp, hpend⟩
    · exact hsome hnone
    · exact hquiet p hp hpend

end Sys2Proof.Machine
end

section
/-! SUPPORT. Descriptors of the links and the training of ports (O40, O41). -/

namespace Sys2Proof.Machine

/-! ## PUT and RESHARD -/

theorem rshPush_waits {q : DescRef} {c : Chip} {d : Desc} (hr : Running c q 5 0x10 d) (h : d.prog ≠ 0 ∨ preMet c d = false) :
    rshPush q c = c := by
  have hstays : d.prog ≠ 0 ∨ (!preMet c d) = true := h.imp_right (congrArg not)
  simp only [rshPush, onRunning_eq hr, if_pos hstays]

theorem rshAnnounce_waits {q : DescRef} {c : Chip} {d : Desc} (hr : Running c q 5 0x10 d) (h : d.prog ≠ 1 ∨ allAcked c q = false) :
    rshAnnounce q c = c := by
  have hstays : d.prog ≠ 1 ∨ (!allAcked c q) = true := h.imp_right (congrArg not)
  simp only [rshAnnounce, onRunning_eq hr, if_pos hstays]

/-- A RESHARD that lands where it stays is over once every peer has announced itself. -/
theorem rshCopy_inPlace {q : DescRef} {c : Chip} {d : Desc} (hr : Running c q 5 0x10 d) (hprog : d.prog = 2) (hctr : SMap.get 0 d.samp 21 ≠ 0)
    (hland : d.landDelta = 0) (hall : reached c (SMap.get 0 d.samp 21 - 1).toNat (d.arrBase + (rshPeers d).length) = true) :
    rshCopy q c = finishWork q c := by
  simp only [rshCopy, onRunning_eq hr, hprog, hctr, hland, hall, ne_eq, not_true_eq_false, Bool.not_true, Bool.false_eq_true,
    or_self, if_false, if_true]

/-- The guard that a word of LGUARD names. -/
def guardWord (v : W64) : Guard := ⟨v.getLsbD 0, 64 * (v.toNat / 2 ^ 6 % 2 ^ 22), v.toNat / 2 ^ 32 % 2 ^ 22⟩

theorem lguardWrite_eq (v : W64) (c : Chip) : lguardWrite v c =
    if ((guardWord v).en && !inLmem (guardWord v).base (64 * (guardWord v).lines)) = true then c
    else { c with tlk.guards := SMap.set .off c.tlk.guards c.tlk.guardSel (guardWord v) } := by
  simp only [lguardWrite, fld_eq]
  rfl

theorem lguardWrite_good {v : W64} (h : v.getLsbD 0 = false ∨ (guardWord v).base + 64 * (guardWord v).lines ≤ Config.lmemBytes) (c : Chip) :
    lguardWrite v c = { c with tlk.guards := SMap.set .off c.tlk.guards c.tlk.guardSel (guardWord v) } := by
  refine (lguardWrite_eq v c).trans (if_neg ?_)
  rcases h with hoff | hin
  · have hen : (guardWord v).en = false := hoff
    simp only [hen, Bool.false_and, Bool.false_eq_true, not_false_iff]
  · simp only [inLmem, hin, decide_true, Bool.not_true, Bool.and_false, Bool.false_eq_true, not_false_iff]

theorem lguardWrite_refused {v : W64} (hon : v.getLsbD 0 = true) (hout : Config.lmemBytes < (guardWord v).base + 64 * (guardWord v).lines)
    (c : Chip) : lguardWrite v c = c := by
  refine (lguardWrite_eq v c).trans (if_pos ?_)
  have hen : (guardWord v).en = true := hon
  simp only [inLmem, hen, Nat.not_le.2 hout, decide_false, Bool.not_false, Bool.and_self]

/-- Settles O40. -/
theorem linkDescriptors : Obligations.LinkDescriptors := by
  unfold Obligations.LinkDescriptors
  refine ⟨fun q => ⟨?put, ?tees, fun s ha => ?reshard, ?pushWaits, fun s ha => ?push, ?announceWaits, fun s ha => ?announce,
    fun s ha => ?copy, ?inPlace⟩, fun v => ⟨?guard, ?guardRefused⟩, does_regWrite⟩
  case put =>
    refine works_row (fun _ => rfl) fun c d hr ⟨hprog, hat⟩ => ?_
    have hfresh : ¬ d.prog ≠ 0 := not_not.2 hprog
    simp only [tlkPut, onRunning_eq hr, if_neg hfresh, withBytes_eq hat hr.found]
    rfl
  case tees => exact works_row (fun _ => rfl) fun c d hr hprog => by simp only [tlkPut, onRunning_eq hr, if_pos hprog]
  case reshard => exact answers_awake (f := tlkReshard q) (fun _ => rfl) s ha
  case pushWaits => exact works_row (fun _ => rfl) fun c d hr h => rshPush_waits hr h
  case push => exact answers_awake (f := rshPush q) (fun _ => rfl) s ha
  case announceWaits => exact works_row (fun _ => rfl) fun c d hr h => rshAnnounce_waits hr h
  case announce => exact answers_awake (f := rshAnnounce q) (fun _ => rfl) s ha
  case copy => exact answers_awake (f := rshCopy q) (fun _ => rfl) s ha
  case inPlace => exact works_row (fun _ => rfl) fun c d hr ⟨hprog, hctr, hland, hall⟩ => rshCopy_inPlace hr hprog hctr hland hall
  case guard => exact acts_regWrite (fun _ => rfl) fun c h => lguardWrite_good h c
  case guardRefused => exact acts_regWrite (fun _ => rfl) fun c ⟨hon, hout⟩ => lguardWrite_refused hon hout c

/-! ## Training -/

/-- What a lane's word does to its port (R406): MARK and STATE as ranges, and what only the first CONFIG or END brings. -/
theorem Port.hear_eq (lane mark good st : Nat) : Port.hear lane mark good st = fun p =>
    let k := if mark = trainMark then min 4 (SMap.get 0 p.marks lane + 1) else 0
    { p with
      marks := SMap.set 0 p.marks lane k
      good := if k = 4 then p.good ||| 2 ^ lane else p.good &&& (255 - 2 ^ lane)
      peerCfg := p.peerCfg || decide (k = 4 ∧ 1 ≤ st ∧ st ≤ 2)
      peerGood := if k = 4 ∧ 1 ≤ st ∧ st ≤ 2 ∧ p.peerCfg = false then good % 256 else p.peerGood
      peerEnd := p.peerEnd || decide (k = 4 ∧ st = 2) } := by
  funext p
  unfold Port.hear
  generalize (if mark = trainMark then min 4 (SMap.get 0 p.marks lane + 1) else 0) = k
  by_cases hk : k = 4
  · cases hcfg : p.peerCfg
    · simp [hk, beq_eq_decide]
    · simp [hk, beq_eq_decide]
  · simp [hk]

/-- A port sends CONFIG, with the lanes it has locked. -/
def sendConfig (n : Nat) (c : Chip) : Chip := updPort n (fun p => { p with txTrain := 1, sentGood := p.good }) c

theorem trainConfig_eq (n : Nat) (c : Chip) : trainConfig n c =
    if (portOf c n).txTrain ≠ 0 ∨ (portOf c n).good = 0 then c
    else if (portOf c n).good = 255 then sendConfig n c
    else if Config.freeNat c.free % 2 = 0 then { c with free := c.free + 1 } else sendConfig n { c with free := c.free + 1 } := rfl

theorem trainChoose_eq (n : Nat) (c : Chip) : trainChoose n c =
    if (portOf c n).txTrain = 0 ∨ (portOf c n).peerCfg = false then c
    else if chooseWidth (portOf c n).sentGood (portOf c n).peerGood = 0 then trainFail n c
    else if (portOf c n).peerEnd then
      trainDone n (chooseWidth (portOf c n).sentGood (portOf c n).peerGood) (updPort n (fun p => { p with txTrain := 2 }) c)
    else updPort n (fun p => { p with txTrain := 2 }) c := by
  simp only [trainChoose, Bool.not_eq_true']

theorem trainChoose_trainConfig (n : Nat) (c : Chip) : trainChoose n (trainConfig n c) =
    if (portOf c n).txTrain ≠ 0 ∨ (portOf c n).good = 0 then trainChoose n c
    else if (portOf c n).good = 255 then trainChoose n (sendConfig n c)
    else if Config.freeNat c.free % 2 = 0 then trainChoose n { c with free := c.free + 1 }
    else trainChoose n (sendConfig n { c with free := c.free + 1 }) := by
  rw [trainConfig_eq]
  split
  · rfl
  · split
    · rfl
    · split <;> rfl

theorem trainingWord_heard {n lane : Nat} (hn : n < 4) (hl : lane < 8) (mark good st : Nat) {c : Chip} (h : (portOf c n).st = .train) :
    trainingWord n lane mark good st c = trainChoose n (trainConfig n (updPort n (Port.hear lane mark good st) c)) := by
  have hports : ¬ Config.ports ≤ n := Nat.not_le.2 hn
  have hlanes : ¬ 8 ≤ lane := Nat.not_le.2 hl
  exact if_neg (by simp [hports, hlanes, h])

theorem trainingTimeout_eq {n : Nat} (hn : n < 4) (c : Chip) :
    trainingTimeout n c = if now c < (portOf c n).trainFrom + 20000 then c else trainFail n c := by
  have hports : ¬ Config.ports ≤ n := Nat.not_le.2 hn
  simp only [trainingTimeout, hports, false_or]

theorem trainFail_train {n : Nat} {c : Chip} (h : (portOf c n).st = .train) : trainFail n c = if 3 ≤ (portOf c n).attempts + 1
    then portDown n .failed .linkDown (updPort n (fun p => { p with attempts := 0 }) c)
    else updPort n (fun p => { p.attempt (now c) with attempts := p.attempts + 1 }) c :=
  if_neg (not_not.2 h)

theorem laneLockLoss_eq {n lane : Nat} (hn : n < 4) (hl : lane < 8) (c : Chip) : laneLockLoss n lane c =
    if (portOf c n).st = .train then
      updPort n (fun p => { p with marks := SMap.set 0 p.marks lane 0, good := p.good &&& (255 - 2 ^ lane) }) c
    else if (portOf c n).active lane = true then portRetrain n c else c := by
  have hports : ¬ Config.ports ≤ n := Nat.not_le.2 hn
  have hlanes : ¬ 8 ≤ lane := Nat.not_le.2 hl
  exact if_neg (by simp [hports, hlanes])

theorem ackTimeout_eq {n : Nat} (hn : n < 4) (c : Chip) : ackTimeout n c =
    if (portOf c n).replay = [] ∨ now c < (portOf c n).ackFrom + 10000 then c else portRetrain n c := by
  have hports : ¬ Config.ports ≤ n := Nat.not_le.2 hn
  simp only [ackTimeout, hports, false_or, List.isEmpty_iff]

/-- Settles O41. -/
theorem portTraining : Obligations.PortTraining := by
  unfold Obligations.PortTraining
  refine fun n lane hn hl => ⟨fun mark good st => ⟨?other, ?word⟩, ?early, ?again, ?failed, ?loss, ?retrain, ?unused, ?silent, ?acked⟩
  case other =>
    refine links_onLink (fun _ => rfl) fun c h => ?_
    exact if_pos (.inr (.inr h))
  case word =>
    refine links_onLink (fun _ => rfl) fun c h => ?_
    rw [trainingWord_heard hn hl mark good st h, trainChoose_trainConfig, Port.hear_eq]
    simp only [trainChoose_eq]
    rfl
  case early => exact links_onLink (fun _ => rfl) fun c h => (trainingTimeout_eq hn c).trans (if_pos h)
  case again =>
    exact links_onLink (fun _ => rfl) fun c ⟨hst, htime, hmore⟩ => by
      rw [trainingTimeout_eq hn, if_neg (Nat.not_lt.2 htime), trainFail_train hst, if_neg (by omega)]
  case failed =>
    exact links_onLink (fun _ => rfl) fun c ⟨hst, htime, hlast⟩ => by
      rw [trainingTimeout_eq hn, if_neg (Nat.not_lt.2 htime), trainFail_train hst, if_pos (by omega)]
  case loss => exact links_onLink (fun _ => rfl) fun c h => (laneLockLoss_eq hn hl c).trans (if_pos h)
  case retrain =>
    exact links_onLink (fun _ => rfl) fun c ⟨hst, hactive⟩ => (laneLockLoss_eq hn hl c).trans ((if_neg hst).trans (if_pos hactive))
  case unused =>
    exact links_onLink (fun _ => rfl) fun c ⟨hst, hidle⟩ =>
      (laneLockLoss_eq hn hl c).trans ((if_neg hst).trans (if_neg (ne_true_of_eq_false hidle)))
  case silent =>
    exact links_onLink (fun _ => rfl) fun c ⟨hsome, htime⟩ =>
      (ackTimeout_eq hn c).trans (if_neg (not_or.2 ⟨hsome, Nat.not_lt.2 htime⟩))
  case acked => exact links_onLink (fun _ => rfl) fun c h => (ackTimeout_eq hn c).trans (if_pos h)

end Sys2Proof.Machine
end

section
/-! SUPPORT. Packets that a port takes (O43). -/

namespace Sys2Proof.Machine

/-- A packet of the type that its row names, in the form of the version the port has agreed. -/
def typedPacket (n ty : Nat) (p : Packet) (c : Chip) : Packet :=
  { p with ty := ty, v12 := decide (ty = tyNEGOTIATE) || decide ((portOf c n).ver = 1) }

theorem namedPacket_streaming {n ty : Nat} {p : Packet} {c : Chip} (h : (portOf c n).streaming = true) :
    namedPacket n ty p c = portPacket n (typedPacket n ty p c) c := if_pos h

theorem streaming_up {p : Port} (h : p.st = .up) : p.streaming = true := by simp [Port.streaming, h]

theorem streaming_negotiate {p : Port} (h : p.st = .negotiate) : p.streaming = true := by simp [Port.streaming, h]

theorem not_ports_le {n : Nat} (hn : n < 4) : ¬ Config.ports ≤ n := Nat.not_le.2 hn

/-- A packet that breaks a rule of R409 makes its port FAILED. -/
theorem packet_bad {i : Instr} {n ty : Nat} {p : Packet} (hn : n < 4) (hx : ∀ s, exec i s = run (onLink (namedPacket n ty p)) s) :
    Links i (fun c => (portOf c n).streaming = true ∧ packetBad (typedPacket n ty p c) = true) (portDown n .failed .linkDown) :=
  links_onLink hx fun c ⟨hs, hbad⟩ => by
    simp only [namedPacket_streaming hs, portPacket, if_neg (not_ports_le hn), hbad, hs, if_true]

/-- Before a version is agreed no packet but NEGOTIATE counts. -/
theorem packet_early {i : Instr} {n ty : Nat} {p : Packet} (hn : n < 4) (hx : ∀ s, exec i s = run (onLink (namedPacket n ty p)) s)
    (hty : ty ≠ tyNEGOTIATE) :
    Links i (fun c => (portOf c n).st = .negotiate ∧ packetBad (typedPacket n ty p c) = false) id :=
  links_onLink hx fun c ⟨hst, hgood⟩ => by
    have hform : (typedPacket n ty p c).ty ≠ tyNEGOTIATE := hty
    have hwaits : (portOf c n).st ≠ .up := by rw [hst]; decide
    simp only [namedPacket_streaming (streaming_negotiate hst), portPacket, if_neg (not_ports_le hn), hgood, if_neg hform, if_pos hwaits,
      Bool.false_eq_true, if_false, id]

/-- What an UP port does with a sound packet, by its type. -/
theorem namedPacket_up {n ty : Nat} {p : Packet} {c : Chip} (hn : n < 4) (hty : ty ≠ tyNEGOTIATE) (hst : (portOf c n).st = .up)
    (hgood : packetBad (typedPacket n ty p c) = false) : namedPacket n ty p c =
      if ty = tyTIMESYNC then rxFree n (typedPacket n ty p c) (timeSync n (typedPacket n ty p c) c)
      else if ty = tyTIMEREPLY then rxFree n (typedPacket n ty p c) (timeReply n (typedPacket n ty p c) c)
      else if ty = tyCLOSE then portClose n (rxFree n (typedPacket n ty p c) c)
      else routePacket n (packetRow n (typedPacket n ty p c)) (typedPacket n ty p c) c := by
  have hform : (typedPacket n ty p c).ty ≠ tyNEGOTIATE := hty
  have hopen : ¬ (portOf c n).st ≠ .up := not_not.2 hst
  simp only [namedPacket_streaming (streaming_up hst), portPacket, if_neg (not_ports_le hn), hgood, if_neg hform, if_neg hopen,
    Bool.false_eq_true, if_false]
  rfl

/-- A packet that is no message of the link is routed. -/
theorem packet_routed {i : Instr} {n ty : Nat} {p : Packet} (hn : n < 4) (hx : ∀ s, exec i s = run (onLink (namedPacket n ty p)) s)
    (hty : ty ≠ tyNEGOTIATE ∧ ty ≠ tyTIMESYNC ∧ ty ≠ tyTIMEREPLY ∧ ty ≠ tyCLOSE) :
    Links i (fun c => (portOf c n).st = .up ∧ packetBad (typedPacket n ty p c) = false)
      (fun c => routePacket n (packetRow n (typedPacket n ty p c)) (typedPacket n ty p c) c) :=
  links_onLink hx fun c ⟨hst, hgood⟩ => by
    obtain ⟨hneg, hsync, hreply, hclose⟩ := hty
    rw [namedPacket_up hn hneg hst hgood, if_neg hsync, if_neg hreply, if_neg hclose]

theorem negotiate_taken {n : Nat} {p : Packet} {c : Chip} (hn : n < 4) (hs : (portOf c n).streaming = true)
    (hgood : packetBad (typedPacket n tyNEGOTIATE p c) = false) : namedPacket n tyNEGOTIATE p c =
      rxFree n (typedPacket n tyNEGOTIATE p c) (portNegotiate n (typedPacket n tyNEGOTIATE p c) c) := by
  have hform : (typedPacket n tyNEGOTIATE p c).ty = tyNEGOTIATE := rfl
  simp only [namedPacket_streaming hs, portPacket, if_neg (not_ports_le hn), hgood, if_pos hform, Bool.false_eq_true, if_false]

/-- Settles O43. -/
theorem packets : Obligations.Packets := by
  unfold Obligations.Packets
  refine fun n p hn => ⟨?negotiate, packet_routed hn (fun _ => rfl) (by decide), packet_routed hn (fun _ => rfl) (by decide),
    packet_routed hn (fun _ => rfl) (by decide), packet_routed hn (fun _ => rfl) (by decide), packet_routed hn (fun _ => rfl) (by decide),
    packet_routed hn (fun _ => rfl) (by decide), packet_routed hn (fun _ => rfl) (by decide), packet_routed hn (fun _ => rfl) (by decide),
    ?sync, ?reply, ?close, ?early, ?bad⟩
  case negotiate => exact links_onLink (fun _ => rfl) fun c ⟨hs, hgood⟩ => negotiate_taken hn hs hgood
  case sync => exact links_onLink (fun _ => rfl) fun c ⟨hst, hgood⟩ => namedPacket_up hn (by decide) hst hgood
  case reply => exact links_onLink (fun _ => rfl) fun c ⟨hst, hgood⟩ => namedPacket_up hn (by decide) hst hgood
  case close => exact links_onLink (fun _ => rfl) fun c ⟨hst, hgood⟩ => namedPacket_up hn (by decide) hst hgood
  case early =>
    exact ⟨packet_early hn (fun _ => rfl) (by decide), packet_early hn (fun _ => rfl) (by decide), packet_early hn (fun _ => rfl) (by decide),
      packet_early hn (fun _ => rfl) (by decide), packet_early hn (fun _ => rfl) (by decide), packet_early hn (fun _ => rfl) (by decide),
      packet_early hn (fun _ => rfl) (by decide), packet_early hn (fun _ => rfl) (by decide), packet_early hn (fun _ => rfl) (by decide),
      packet_early hn (fun _ => rfl) (by decide), packet_early hn (fun _ => rfl) (by decide)⟩
  case bad =>
    exact ⟨packet_bad hn fun _ => rfl, packet_bad hn fun _ => rfl, packet_bad hn fun _ => rfl, packet_bad hn fun _ => rfl,
      packet_bad hn fun _ => rfl, packet_bad hn fun _ => rfl, packet_bad hn fun _ => rfl, packet_bad hn fun _ => rfl,
      packet_bad hn fun _ => rfl, packet_bad hn fun _ => rfl, packet_bad hn fun _ => rfl, packet_bad hn fun _ => rfl⟩

end Sys2Proof.Machine
end

section
/-! SUPPORT. Limits on responses and routes, route tables and the commands of ports (O44). -/

namespace Sys2Proof.Machine

/-! ## Limits -/

theorem respTimeout_found {tag : Nat} {r : Req} {c : Chip} (h : c.tlk.out.find? (fun r => r.tag == tag) = some r) :
    respTimeout tag c = if (!r.sent) = true ∨ now c - r.since < 1000 * max 1 (c.tlk.cfg.toNat % 2 ^ 20) then c
      else deliver r (faultCode pTLK .linkDown) [] (pageFault pTLK .linkDown { c with
        tlk.out := c.tlk.out.filter fun q => q.tag != tag, sync.held := c.sync.held.filter fun x => x.sent != some tag }) := by
  simp only [respTimeout, h, fld_eq, pow_zero, Nat.div_one]

theorem routeHoldTimeout_held {k : Nat} {r : Req} {c : Chip} (h : c.tlk.heldReqs[k]? = some r) : routeHoldTimeout k c =
    if now c - r.since < 1000 * (c.tlk.cfg.toNat / 2 ^ 20 % 2 ^ 20) then c
    else deliver r (faultCode pTLK .linkDown) []
      (pageFault pTLK .linkDown { c with tlk.heldReqs := c.tlk.heldReqs.eraseIdx k }) := by
  simp only [routeHoldTimeout, h, fld_eq]

theorem timeSyncSend_due {n : Nat} {c : Chip} (hrole : timeRole c n 1 = true)
    (hdue : ∀ t, (portOf c n).syncAt = some t → t + 1000 * max 1 c.tlk.timeCfg ≤ now c) : timeSyncSend n c =
      transmit n (timePacket c n tyTIMESYNC (leBytes 8 0)) (updPort n (fun p => { p with syncAt := some (now c) }) c) := by
  have hall : ((portOf c n).syncAt.all fun t => decide (t + syncInterval c ≤ now c)) = true := by
    rw [Option.all_eq_true]
    exact fun t ht => decide_eq_true (hdue t ht)
  exact if_pos (by rw [hrole, hall]; rfl)

theorem timeSyncSend_early {n t : Nat} {c : Chip} (ht : (portOf c n).syncAt = some t) (hearly : now c < t + 1000 * max 1 c.tlk.timeCfg) :
    timeSyncSend n c = c := by
  have hlate : ¬ t + syncInterval c ≤ now c := Nat.not_le.2 hearly
  exact if_neg (by simp [ht, hlate])

/-- A time message is stamped when it starts (R422). -/
theorem startPacket_sync {q : QPkt} (h : q.pkt.ty = tyTIMESYNC) (self t : Nat) (p : Port) : (startPacket self t q p).exch = some t ∧
    (startPacket self t q p).txbuf = p.txbuf ++ packetBytes { q.pkt with payload := leBytes 8 t } := by
  have hstamp : stampPacket t q.pkt = { q.pkt with payload := leBytes 8 t } := if_pos h
  have hty : (stampPacket t q.pkt).ty = tyTIMESYNC := by rw [hstamp]; exact h
  refine ⟨if_pos hty, ?_⟩
  rw [← hstamp]
  rfl

/-- The end of a port's time exchange, 100 µs after it began. -/
def expireExchange (c : Chip) (n : Nat) : Chip :=
  match (portOf c n).exch with
  | some t => if 100000 ≤ now c - t then updPort n (fun p => { p with exch := none }) c else c
  | none => c

theorem timeExchangeTimeout_eq (c : Chip) : timeExchangeTimeout c = (List.range 4).foldl expireExchange c := by
  rw [← rangeFrom_zero]
  rfl

theorem expireExchange_none {c : Chip} {n : Nat} (h : (portOf c n).exch = none) : expireExchange c n = c := by
  simp only [expireExchange, h]

/-- A fold in which only one element acts. -/
theorem foldl_only {α β : Type} {f : β → α → β} {l : List α} {a : α} {b : β} (hnodup : l.Nodup) (hmem : a ∈ l)
    (hbefore : ∀ x ∈ l, x ≠ a → f b x = b) (hafter : ∀ x ∈ l, x ≠ a → f (f b a) x = f b a) : l.foldl f b = f b a := by
  obtain ⟨s, t, rfl⟩ := List.append_of_mem hmem
  obtain ⟨hs, ht⟩ : a ∉ s ∧ a ∉ t := by
    have hparts := List.nodup_middle.1 hnodup
    simpa [not_or] using (List.nodup_cons.1 hparts).1
  have hfront : s.foldl f b = b :=
    foldl_id f b s fun x hx => hbefore x (List.mem_append_left _ hx) (ne_of_mem_of_not_mem hx hs)
  rw [List.foldl_append, List.foldl_cons, hfront]
  exact foldl_id f (f b a) t fun x hx => hafter x (List.mem_append_right _ (List.mem_cons_of_mem _ hx)) (ne_of_mem_of_not_mem hx ht)

theorem timeExchangeTimeout_one {n t0 : Nat} {c : Chip} (hn : n < 4) (hexch : (portOf c n).exch = some t0) (hold : 100000 ≤ now c - t0)
    (hother : ∀ m < 4, m ≠ n → (portOf c m).exch = none) : timeExchangeTimeout c = updPort n (fun p => { p with exch := none }) c := by
  have hends : expireExchange c n = updPort n (fun p => { p with exch := none }) c := by
    simp only [expireExchange, hexch, if_pos hold]
  rw [timeExchangeTimeout_eq, ← hends]
  refine foldl_only List.nodup_range (List.mem_range.2 hn) (fun m hm hne => ?_) fun m hm hne => ?_
  · exact expireExchange_none (hother m (List.mem_range.1 hm) hne)
  · rw [hends]
    exact expireExchange_none (by rw [portOf_updPort_other _ c hne]; exact hother m (List.mem_range.1 hm) hne)

theorem timeExchangeTimeout_none {c : Chip} (h : ∀ n < 4, (portOf c n).exch = none) : timeExchangeTimeout c = c :=
  (timeExchangeTimeout_eq c).trans (foldl_id expireExchange c _ fun n hn => expireExchange_none (h n (List.mem_range.1 hn)))

/-! ## Route tables -/

theorem routeSwap_refused {e : Nat} {c : Chip} (h : swapOk c e = false) : routeSwap e c = { c with tlk.cfgErr := true } :=
  if_pos (by rw [h]; rfl)

theorem routeSwap_done {e : Nat} {c : Chip} (h : swapOk c e = true) : routeSwap e c =
    let d := emit 0x07 pTLK 1#64 (BitVec.ofNat 64 e) { c with
      tlk.active := c.tlk.staged, tlk.staged := c.tlk.active, tlk.routeEpoch := e }
    let dead (x : RSig) : Bool := x.sent.isNone && hasLcn c.tlk.active x.lcn && decide (routeOf d x.lcn = .missing)
    sendHeld { d with
      sync.held := d.sync.held.filter fun x => !dead x
      sync.refused := satAdd 16 d.sync.refused (d.sync.held.filter dead).length } :=
  if_neg (by rw [h]; decide)

/-! ## Commands of ports -/

/-- A command written to the register of a port. -/
theorem acts_portReg {i : Instr} {n : Nat} {v : Port → W64} {f k : Chip → Chip} {h : Chip → Prop} (hn : n < 4)
    (hx : ∀ s, exec i s = run (portReg n v f) s) (e : ∀ c, h c → f c = k c) : Acts i h k :=
  acts_of hx fun c ha hc => (if_pos hn).trans ((regWrite_eq ha).trans (e c hc))

theorem portEnable_eq {n : Nat} (hn : n < 4) (c : Chip) : portEnable n c = if (portOf c n).en = true then c
    else if (portOf c n).st = .down ∨ (portOf c n).st = .closed then
      portState n .train (updPort n (Port.fresh (now c)) (updPort n (fun p => { p with en := true }) c))
    else updPort n (fun p => { p with en := true }) c := if_neg (not_ports_le hn)

theorem portDisable_eq {n : Nat} (hn : n < 4) (c : Chip) : portDisable n c = if (portOf c n).en = false then c
    else portStop n (updPort n (fun p => { p with en := false }) c) := by
  simp only [portDisable, not_ports_le hn, false_or, Bool.not_eq_true']

theorem tlkClear_port {n : Nat} (hn : n < 4) (c : Chip) : clearCounts 17 (0x148 + 8 * n) c =
    updPort n (fun p => { p with corr := 0, uncorr := 0, replays := 0 }) c := by
  have hport : (0x148 + 8 * n - 0x148) / 8 = n := by omega
  have hrange : 0x148 ≤ 0x148 + 8 * n ∧ 0x148 + 8 * n < 0x168 := by omega
  refine (if_pos rfl).trans ((if_pos hrange).trans ?_)
  rw [hport]

/-- Settles O44. -/
theorem routesAndTimeouts : Obligations.RoutesAndTimeouts := by
  unfold Obligations.RoutesAndTimeouts
  refine ⟨⟨fun tag r => ?resp, fun tag => ?respNone, fun tag r => ?respEarly, fun k r => ?holdEarly, fun k r => ?hold,
      fun n => ⟨?sync, ?syncEarly⟩, fun self t q p h => startPacket_sync h self t p, fun n t0 hn => ?exchange, ?exchangeNone⟩,
    fun e he => ⟨?swapBad, ?swap⟩, does_regWrite, does_regWrite,
    fun n hn => ⟨?enable, ?enableLater, ?enabled, ?disable, ?disabled, ?retrain⟩, ?routes, fun n hn => ?ports, ?host⟩
  case resp =>
    exact links_onLink (fun _ => rfl) fun c ⟨hfound, hsent, hold⟩ =>
      (respTimeout_found hfound).trans (if_neg (by simp only [hsent, Bool.not_true, Bool.false_eq_true, false_or, not_lt]; exact hold))
  case respNone => exact links_onLink (fun _ => rfl) fun c hnone => by simp only [respTimeout, hnone, id]
  case respEarly =>
    exact links_onLink (fun _ => rfl) fun c ⟨hfound, h⟩ =>
      (respTimeout_found hfound).trans (if_pos (h.imp_left (congrArg not)))
  case holdEarly => exact links_onLink (fun _ => rfl) fun c ⟨hheld, h⟩ => (routeHoldTimeout_held hheld).trans (if_pos h)
  case hold => exact links_onLink (fun _ => rfl) fun c ⟨hheld, h⟩ => (routeHoldTimeout_held hheld).trans (if_neg (Nat.not_lt.2 h))
  case sync => exact links_onLink (fun _ => rfl) fun c ⟨hrole, hdue⟩ => timeSyncSend_due hrole hdue
  case syncEarly => exact links_onLink (fun _ => rfl) fun c ⟨t, ht, hearly⟩ => timeSyncSend_early ht hearly
  case exchange => exact links_onLink (fun _ => rfl) fun c ⟨hexch, hold, hother⟩ => timeExchangeTimeout_one hn hexch hold hother
  case exchangeNone => exact links_onLink (fun _ => rfl) fun c h => timeExchangeTimeout_none h
  case swapBad => exact acts_regWrite (fun _ => rfl) fun c h => by rw [Nat.mod_eq_of_lt he]; exact routeSwap_refused h
  case swap => exact acts_regWrite (fun _ => rfl) fun c h => by rw [Nat.mod_eq_of_lt he]; exact routeSwap_done h
  case enable =>
    exact acts_portReg hn (fun _ => rfl) fun c ⟨hoff, hst⟩ =>
      (portEnable_eq hn c).trans ((if_neg (ne_true_of_eq_false hoff)).trans (if_pos hst))
  case enableLater =>
    exact acts_portReg hn (fun _ => rfl) fun c ⟨hoff, hdown, hclosed⟩ =>
      (portEnable_eq hn c).trans ((if_neg (ne_true_of_eq_false hoff)).trans (if_neg (not_or.2 ⟨hdown, hclosed⟩)))
  case enabled => exact acts_portReg hn (fun _ => rfl) fun c h => (portEnable_eq hn c).trans (if_pos h)
  case disable => exact acts_portReg hn (fun _ => rfl) fun c h => (portDisable_eq hn c).trans (if_neg (ne_false_of_eq_true h))
  case disabled => exact acts_portReg hn (fun _ => rfl) fun c h => (portDisable_eq hn c).trans (if_pos h)
  case retrain => exact acts_portReg hn (fun _ => rfl) fun c _ => if_neg (not_ports_le hn)
  case routes => exact acts_regWrite (fun _ => rfl) fun c _ => rfl
  case ports => exact acts_regWrite (fun _ => rfl) fun c _ => tlkClear_port hn c
  case host => exact acts_regWrite (fun _ => rfl) fun c _ => rfl

end Sys2Proof.Machine
end

section
/-! SUPPORT. The lanes of the host port, detaching, and the sideband (O45, O46). -/

namespace Sys2Proof.Machine

/-! ## Requests -/

theorem hppGate_awake {c : Chip} (h : isAwake c = true) (hold : Instr) (quick : Bool) (f : Chip → Chip) : hppGate hold quick f c = f c := by
  obtain ⟨hrun, hfull⟩ := (isAwake_iff c).1 h
  simp only [hppGate, hrun, hfull, true_or, if_true]

theorem pwrRuns_awake {c : Chip} (h : isAwake c = true) : pwrRuns c = true := by simp only [pwrRuns, ((isAwake_iff c).1 h).1]

/-- A granted request takes its credit and its beats, and is then served or refused (R425, R433). -/
theorem hppTake_granted {ch beats : Nat} {q : HppReq} {f : Chip → Chip} {c : Chip} (ha : isAwake c = true) (hch : ch < c.hport.channels)
    (hlive : hportLive c = true) (hcredit : SMap.get 0 c.hport.grant (2 * ch) ≠ 0) (hbeats : beats ≤ SMap.get 0 c.hport.grant (2 * ch + 1)) :
    hppTake ch beats q f c = if c.hport.refusing = true
      then hppRefuse ch beats q pHPORT .linkDown (takeGrant (2 * ch + 1) beats (takeGrant (2 * ch) 1 c))
      else f (takeGrant (2 * ch + 1) beats (takeGrant (2 * ch) 1 c)) := by
  have hopen : ¬ (c.hport.channels ≤ ch ∨ (!hportLive c) = true ∨ (!pwrRuns c) = true) := by
    simp [Nat.not_le.2 hch, hlive, pwrRuns_awake ha]
  have hroom : ¬ (SMap.get 0 c.hport.grant (2 * ch) = 0 ∨ SMap.get 0 c.hport.grant (2 * ch + 1) < beats) := by
    simp only [hcredit, Nat.not_lt.2 hbeats, or_self, not_false_iff]
  exact (if_neg hopen).trans (if_neg hroom)

/-- What a request finds on the lanes when it is taken. -/
def Granted (ch beats : Nat) (refusing : Bool) (c : Chip) : Prop := ch < c.hport.channels ∧ hportLive c = true ∧
  SMap.get 0 c.hport.grant (2 * ch) ≠ 0 ∧ beats ≤ SMap.get 0 c.hport.grant (2 * ch + 1) ∧ c.hport.refusing = refusing

theorem hppTake_refused {ch beats : Nat} {q : HppReq} {f : Chip → Chip} {c : Chip} (ha : isAwake c = true) (h : Granted ch beats true c) :
    hppTake ch beats q f c = hppRefuse ch beats q pHPORT .linkDown (takeGrant (2 * ch + 1) beats (takeGrant (2 * ch) 1 c)) := by
  obtain ⟨hch, hlive, hcredit, hbeats, hrefuse⟩ := h
  exact (hppTake_granted ha hch hlive hcredit hbeats).trans (if_pos hrefuse)

theorem hppTake_served {ch beats : Nat} {q : HppReq} {hold : Instr} {quick : Bool} {serve f : Chip → Chip} {c : Chip}
    (hf : f = hppGate hold quick serve) (ha : isAwake c = true) (h : Granted ch beats false c) :
    hppTake ch beats q f c = serve (takeGrant (2 * ch + 1) beats (takeGrant (2 * ch) 1 c)) := by
  obtain ⟨hch, hlive, hcredit, hbeats, hrefuse⟩ := h
  rw [hppTake_granted ha hch hlive hcredit hbeats, if_neg (ne_true_of_eq_false hrefuse), hf]
  exact hppGate_awake (c := takeGrant (2 * ch + 1) beats (takeGrant (2 * ch) 1 c)) ha hold quick serve

/-! ## Responses, timeouts and credits -/

theorem hppResponse_found {ch tag : Nat} {r : Req} {c : Chip} (h : hportReq c ch tag = some r) (status : Nat) (bs : List Byte) :
    hppResponse ch tag status bs c =
      if status ≠ 0 then deliver r status [] (hportDone r { c with hport.errRsp := satAdd 16 c.hport.errRsp 1 })
      else if r.kind = .rd then
        if bs.length ≠ 64 * linesOf r.addr r.len then c else deliver r 0 ((bs.drop (r.addr % 64)).take r.len) (hportDone r c)
      else deliver r 0 [] (hportDone r c) := by
  simp only [hppResponse, h]

theorem hppResponse_peer {ch tag : Nat} {r : PeerReq} {c : Chip} (hnone : hportReq c ch tag = none) (hpeer : peerReq c ch tag = some r)
    (status : Nat) (bs : List Byte) : hppResponse ch tag status bs c = if status = 0 then peerDone r c
      else failPacket status r.pkt (peerDone r { c with hport.errRsp := satAdd 16 c.hport.errRsp 1 }) := by
  simp only [hppResponse, hnone, peerResponse, hpeer]

theorem hppResponse_none {ch tag : Nat} {c : Chip} (hnone : hportReq c ch tag = none) (hpeer : peerReq c ch tag = none)
    (status : Nat) (bs : List Byte) : hppResponse ch tag status bs c = c := by
  simp only [hppResponse, hnone, peerResponse, hpeer]

theorem hportTimeout_late {ch tag : Nat} {r : Req} {c : Chip} (h : hportReq c ch tag = some r)
    (hlate : 1000 * max 1 c.hport.timeoutUs ≤ now c - r.since) : hportTimeout ch tag c =
      deliver r (faultCode pHPORT .linkDown) [] (noteTimeout (hportDone r c)) := by
  have hover : hportLate c r.since = true := decide_eq_true hlate
  simp only [hportTimeout, h, hover, if_true]

theorem hportTimeout_peer {ch tag : Nat} {r : PeerReq} {c : Chip} (hnone : hportReq c ch tag = none) (hpeer : peerReq c ch tag = some r)
    (hlate : 1000 * max 1 c.hport.timeoutUs ≤ now c - r.since) : hportTimeout ch tag c =
      failPacket (faultCode pHPORT .linkDown) r.pkt (noteTimeout (peerDone r c)) := by
  have hover : hportLate c r.since = true := decide_eq_true hlate
  simp only [hportTimeout, hnone, hpeer, hover, if_true]

/-- A row of the host port that its lanes need not run for, in P0. -/
theorem acts_onHport {i : Instr} {f k : Chip → Chip} {h : Chip → Prop} (hx : ∀ s, exec i s = run (onHport f) s)
    (e : ∀ c, h c → f c = k c) : Acts i h k :=
  acts_of hx fun c ha hc => (onHport_eq (awake_up ha)).trans (e c hc)

theorem addCredit_free {ch : Nat} {b : Bool} {c : Chip} (h : b = true → SMap.get 0 c.hport.due ch = 0) : addCredit ch b c =
    { c with hport.credits := SMap.set 0 c.hport.credits (2 * ch + b2n b) (SMap.get 0 c.hport.credits (2 * ch + b2n b) + 1) } := by
  refine if_neg ?_
  rw [Bool.and_eq_true, decide_eq_true_eq]
  exact fun ⟨hb, hdue⟩ => absurd (h hb) (by omega)

theorem addCredit_due {ch : Nat} {c : Chip} (h : 0 < SMap.get 0 c.hport.due ch) :
    addCredit ch true c = { c with hport.due := SMap.set 0 c.hport.due ch (SMap.get 0 c.hport.due ch - 1) } :=
  if_pos (by rw [decide_eq_true h]; rfl)

/-! ## Detaching -/

theorem detach_up {c : Chip} (ha : isAwake c = true) (h : c.hport.st = .up) :
    detach c = setQreq pSEQ (sbState 3 { c with hport.st := .detaching, hport.detachFrom := some (now c) }) := if_pos ⟨awake_up ha, h⟩

/-- A detach, by its pin or its register, in P0. -/
theorem acts_detach {i : Instr} {f : Chip → Chip} {h : Chip → Prop}
    (hx : ∀ s, exec i s = run (inUp fun c => if asleep c then holdWake 5 i c else detach c) s)
    (e : ∀ c, isAwake c = true → h c → detach c = f c) : Acts i h f :=
  acts_of hx fun c ha hc => (inUp_eq (awake_up ha)).trans ((if_neg (by rw [awake_not_asleep ha]; decide)).trans (e c ha hc))

theorem detachTimeout_over {t : Nat} {c : Chip} (hup : isUp c = true) (hfrom : c.hport.detachFrom = some t)
    (hlate : 1000000 * max 1 c.hport.detachMs ≤ now c - t) : detachTimeout c = detachEnds true (closePorts c) := by
  simp only [detachTimeout, hfrom]
  exact if_pos ⟨hup, hlate⟩

/-- Settles O45. -/
theorem hostLanes : Obligations.HostLanes := by
  unfold Obligations.HostLanes
  refine ⟨⟨fun ch q => ⟨?rd, ?rdRefused, fun beats => ⟨?wr, ?wrRefused⟩, fun p => ⟨?peer, ?peerRefused, ?noPeer⟩⟩,
    fun ch tag r bs => ⟨fun status hbad => ?err, fun hkind hlen => ?data, fun hkind => ?ack, ?late⟩,
    fun ch tag r => ⟨fun bs => ?peerDone, fun status bs hbad => ?peerFails, fun status bs => ?unknown, ?peerLate⟩,
    fun ch b => ⟨?credit, ?due⟩⟩, ?pin, ?begins, ?idle, ?complete, fun t => ?forced⟩
  case rd => exact acts_of (fun _ => rfl) fun c ha h => hppTake_served rfl ha h
  case rdRefused => exact acts_of (fun _ => rfl) fun c ha h => hppTake_refused ha h
  case wr => exact acts_of (fun _ => rfl) fun c ha h => hppTake_served rfl ha h
  case wrRefused => exact acts_of (fun _ => rfl) fun c ha h => hppTake_refused ha h
  case peer => exact acts_of (fun _ => rfl) fun c ha ⟨h, hpeer⟩ => (if_pos hpeer).trans (hppTake_served rfl ha h)
  case peerRefused => exact acts_of (fun _ => rfl) fun c ha ⟨h, hpeer⟩ => (if_pos hpeer).trans (hppTake_refused ha h)
  case noPeer => exact acts_of (fun _ => rfl) fun c ha h => if_neg (ne_true_of_eq_false h)
  case err => exact acts_onLanes (fun _ => rfl) fun c _ h => (hppResponse_found h status bs).trans (if_pos hbad)
  case data =>
    exact acts_onLanes (fun _ => rfl) fun c _ h => by
      rw [hppResponse_found h, if_neg (not_not.2 rfl), if_pos hkind, if_neg (not_not.2 hlen)]
  case ack =>
    exact acts_onLanes (fun _ => rfl) fun c _ h => by rw [hppResponse_found h, if_neg (not_not.2 rfl), if_neg hkind]
  case late => exact acts_onHport (fun _ => rfl) fun c ⟨h, hlate⟩ => hportTimeout_late h hlate
  case peerDone =>
    exact acts_onLanes (fun _ => rfl) fun c _ ⟨hnone, hpeer⟩ => (hppResponse_peer hnone hpeer 0 bs).trans (if_pos rfl)
  case peerFails =>
    exact acts_onLanes (fun _ => rfl) fun c _ ⟨hnone, hpeer⟩ => (hppResponse_peer hnone hpeer status bs).trans (if_neg hbad)
  case unknown => exact acts_onLanes (fun _ => rfl) fun c _ ⟨hnone, hpeer⟩ => hppResponse_none hnone hpeer status bs
  case peerLate => exact acts_onHport (fun _ => rfl) fun c ⟨⟨hnone, hpeer⟩, hlate⟩ => hportTimeout_peer hnone hpeer hlate
  case credit =>
    exact acts_onLanes (fun _ => rfl) fun c _ ⟨hch, h⟩ => (if_pos hch).trans (congrArg pumpPeers (addCredit_free h))
  case due => exact acts_onLanes (fun _ => rfl) fun c _ ⟨hch, h⟩ => (if_pos hch).trans (congrArg pumpPeers (addCredit_due h))
  case pin => exact acts_detach (fun _ => rfl) fun c ha h => detach_up ha h
  case begins => exact acts_detach (fun _ => rfl) fun c ha h => detach_up ha h
  case idle => exact acts_detach (fun _ => rfl) fun c ha h => if_neg fun hgo => h hgo.2
  case complete =>
    exact takes_of (fun _ => rfl) fun c ⟨hup, hready⟩ => if_pos (by rw [hup, hready]; rfl)
  case forced => exact takes_of (fun _ => rfl) fun c ⟨hup, hfrom, hlate⟩ => detachTimeout_over hup hfrom hlate

/-! ## The sideband -/

theorem hello_cold {w : Nat} {c : Chip} (h : c.core.phase = .cold 2) : hello w c =
    if w % 16 < 2 ∨ 3 < w % 16 then startFails 3 false (pageFault pHPORT .versionMismatch c)
    else { c with
      core.helloSeen := true
      hport := { c.hport with
        st := .up, major := w % 16, minor := if w % 16 = 3 then 0 else w / 2 ^ 4 % 2 ^ 4, channels := min 16 (w / 2 ^ 8 % 2 ^ 5)
        tags := if w % 16 = 3 then 1024 else 256, maxLines := if w % 16 = 3 then 64 else 4, peer := decide (w % 16 = 3)
        grant := hostGrant (min 16 (w / 2 ^ 8 % 2 ^ 5))
        credits := (rangeFrom 0 (min 16 (w / 2 ^ 8 % 2 ^ 5))).foldl (fun m k =>
          SMap.set 0 (SMap.set 0 m (2 * k) (w / 2 ^ 13 % 2 ^ 8)) (2 * k + 1) (8 * (w / 2 ^ 21 % 2 ^ 7))) [] } } := by
  have hmajor : w / 2 ^ 0 % 2 ^ 4 = w % 16 := by rw [pow_zero, Nat.div_one]; rfl
  simp only [hello, h, ne_eq, not_true_eq_false, if_false, bits_eq, hmajor, Config.channels, decide_eq_true_eq]

theorem imgEnd_cold {c : Chip} (h : c.core.phase = .cold 2) : imgEnd c =
    if (!c.core.helloSeen) = true then startFails 3 false (pageFault pHPORT .versionMismatch c)
    else if imgOk c.core.imgWords = true then imgApply c.core.imgWords c else startFails 2 false c := if_neg (not_not.2 h)

theorem sbAllowed_awake {c : Chip} (h : isAwake c = true) (off : Nat) : sbAllowed c off = pageAccessOk off 8 := by
  simp only [sbAllowed, ((isAwake_iff c).1 h).1, Bool.and_true]

/-- In P0, where no access waits, a sideband access is served. -/
theorem sbAccess_awake {c : Chip} (h : isAwake c = true) (hidle : sbWaits c = false) (off : Nat) (v : Option W64) (hold : Instr) :
    sbAccess off v hold c = sbServe off v c := by
  have hlive : sbLive c = true := by simp only [sbLive, ((isAwake_iff c).1 h).1]
  simp only [sbAccess, hlive, hidle, awake_not_asleep h, Bool.not_true, Bool.and_false, Bool.false_and, Bool.false_eq_true, if_false]

theorem sbServe_awake {c : Chip} (h : isAwake c = true) {off p o : Nat} (hok : pageAccessOk off 8 = true) (hat : pageAt off = some (p, o)) :
    sbServe off none c = regRsp 0 (pageRead p o c).1 (pageRead p o c).2 ∧
    ∀ v, sbServe off (some v) c = regRsp 0 0#64 (pageWrite 0xFFFF p o v c) := by
  simp only [sbServe, sbAllowed_awake h, hok, if_true, hat, implies_true, and_self]

theorem sbServe_refused {c : Chip} (h : isAwake c = true) {off : Nat} (hbad : pageAccessOk off 8 = false) (v : Option W64) :
    sbServe off v c = regRsp (faultCode (((pageAt off).map Prod.fst).getD pCORE) .addrUnmapped) 0#64 c :=
  if_neg (by rw [sbAllowed_awake h, hbad]; decide)

/-- Settles O46. -/
theorem sideband : Obligations.Sideband := by
  unfold Obligations.Sideband
  refine ⟨fun w hmajor => ?hello, fun w hmajor => ?mismatch, fun ws => ?image, ?applied, ?badImage, ?noHello, ?late,
    fun off p o => ?rd, fun off => ?refused, fun off p o v => ?wr⟩
  case hello =>
    have hknown : ¬ (w % 16 < 2 ∨ 3 < w % 16) := by omega
    exact takes_of (fun _ => rfl) fun c h => (hello_cold h).trans (if_neg hknown)
  case mismatch => exact takes_of (fun _ => rfl) fun c h => (hello_cold h).trans (if_pos hmajor)
  case image => exact takes_of (fun _ => rfl) fun c h => if_pos h
  case applied =>
    exact takes_of (fun _ => rfl) fun c ⟨h, hseen, hok⟩ => by rw [imgEnd_cold h, hseen, if_neg (by decide), if_pos hok]
  case badImage =>
    exact takes_of (fun _ => rfl) fun c ⟨h, hseen, hbad⟩ => by
      rw [imgEnd_cold h, hseen, if_neg (by decide), if_neg (ne_true_of_eq_false hbad)]
  case noHello => exact takes_of (fun _ => rfl) fun c ⟨h, hunseen⟩ => by rw [imgEnd_cold h, hunseen, if_pos (by decide)]
  case late => exact takes_of (fun _ => rfl) fun c h => if_pos h
  case rd =>
    exact acts_of (fun _ => rfl) fun c ha ⟨hidle, hok, hat⟩ => (sbAccess_awake ha hidle off none _).trans (sbServe_awake ha hok hat).1
  case refused =>
    exact acts_of (fun _ => rfl) fun c ha ⟨hidle, hbad⟩ => (sbAccess_awake ha hidle off none _).trans (sbServe_refused ha hbad none)
  case wr =>
    exact acts_of (fun _ => rfl) fun c ha ⟨hidle, hok, hat⟩ => (sbAccess_awake ha hidle off (some v) _).trans ((sbServe_awake ha hok hat).2 v)

end Sys2Proof.Machine
end

section
/-! SUPPORT. Power states, operating points, the drogue and lending (O47). -/

namespace Sys2Proof.Machine

/-! ## Power states and operating points -/

theorem beginWake_awake {c : Chip} (h : isAwake c = true) (row : Nat) : beginWake row c = c :=
  if_neg fun hasleep => hasleep.2 ((isAwake_iff c).1 h).2

theorem pwrOff_eq (c : Chip) : pwrOff c = if enginePages.all (quiesced c) = true then enterP3 false c else { c with pwr.cfgErr := true } := rfl

theorem dvfsPointWrite_eq (v : W64) (c : Chip) : dvfsPointWrite v c = if 5 ≤ v.toNat % 8 then { c with pwr.cfgErr := true }
    else if c.pwr.busy = true then { c with pwr.point := v.toNat % 8 } else dvfsGo { c with pwr.point := v.toNat % 8 } := by
  have hpoint : fld v 0 3 = v.toNat % 8 := by rw [fld_eq, pow_zero, Nat.div_one]; rfl
  simp only [dvfsPointWrite, hpoint]

theorem dvfsStepDone_busy {c : Chip} (ha : isAwake c = true) (hbusy : c.pwr.busy = true) (huv : c.pwr.uvNow = false) : dvfsStepDone c =
    if c.pwr.down = true then dvfsGo { c with pwr.cur := c.pwr.cur - 1, pwr.down := false }
    else if unitOn c 12 = true then
      dvfsGo (settleDecl { c with pwr.cur := min 4 (c.pwr.cur + 1), pwr.ungated := SMap.set none c.pwr.ungated 12 none })
    else c :=
  if_neg (by simp [hbusy, huv, ha])

theorem latTolWrite_eq (v : W64) (c : Chip) : latTolWrite v c =
    if exitWithin { c with pwr.latTol := v.toNat % 2 ^ 32 } c.pwr.state (v.toNat % 2 ^ 32) = true then { c with pwr.latTol := v.toNat % 2 ^ 32 }
    else beginWake 8 { c with pwr.latTol := v.toNat % 2 ^ 32 } := by
  simp only [latTolWrite, fld_eq, pow_zero, Nat.div_one]

theorem evalState_free {c : Chip} (hup : isUp c = true) (h : c.pwr.waking = none) : evalState c = enterState (deepest c) c := if_pos ⟨hup, h⟩

theorem p1Entry_quiet {q : Nat} {c : Chip} (hup : isUp c = true) (hquiet : c.sync.quietSince = some q)
    (htime : c.pwr.cfg.toNat % 2 ^ 16 ≤ now c - q) (hfree : c.pwr.waking = none) : p1Entry c = enterState (deepest c) c := by
  simp only [p1Entry, hquiet, fld_eq, pow_zero, Nat.div_one, if_pos htime, evalState_free hup hfree]

theorem p2Entry_quiet {q : Nat} {c : Chip} (hup : isUp c = true) (hquiet : c.sync.quietSince = some q)
    (htime : c.pwr.cfg.toNat % 2 ^ 16 ≤ now c - q ∧ 1000 * (c.pwr.cfg.toNat / 2 ^ 16 % 2 ^ 16) ≤ now c - q) (hfree : c.pwr.waking = none) :
    p2Entry c = enterState (deepest c) c := by
  simp only [p2Entry, hquiet, fld_eq, pow_zero, Nat.div_one, if_pos htime, evalState_free hup hfree]

theorem wakeExitDone_waking {row : Nat} {c : Chip} (hup : isUp c = true) (h : c.pwr.waking = some row) : wakeExitDone c = wakeExit row c := by
  simp only [wakeExitDone, h, if_pos hup]

/-- While the supply is low nothing is admitted and the operating point stays (R461). -/
theorem undervoltage_stops {c : Chip} (h : c.pwr.uvNow = true) : admissible c = none ∧ baseFits c = false ∧ dvfsGo c = c :=
  ⟨if_pos (by simp [h]), by simp [baseFits, h], if_pos (.inl h)⟩

/-! ## The drogue -/

theorem blockGate_idle {u step : Nat} {c : Chip} (hu : 1 ≤ u) (hu' : u ≤ 11) (hidle : unitIdle c u = true)
    (hon : SMap.get none c.pwr.ungated u = some step) : blockGate u c = settleDecl { c with
      pwr.ungated := SMap.set none c.pwr.ungated u none, pwr.half := SMap.set false c.pwr.half u false, pwr.decl := c.pwr.decl - step } := by
  have hin : ¬ (u < 1 ∨ 11 < u ∨ (!unitIdle c u) = true) := by
    simp [hidle]
    omega
  simp only [blockGate, if_neg hin, hon]

theorem admissible_some {c : Chip} {h : PwrReq} (hadm : admissible c = some h) : c.pwr.ramp = none ∧ c.pwr.uvNow = false ∧
    drogueHead c = some h ∧ c.pwr.decl + h.step ≤ min h.amps (budgetOf c) - c.pwr.lent := by
  unfold admissible at hadm
  split at hadm
  case isTrue => exact absurd hadm (by simp)
  case isFalse hfree =>
    obtain ⟨hhead, hfits⟩ := Option.filter_eq_some_iff.1 hadm
    simp only [Bool.or_eq_true, not_or, Bool.not_eq_true, Option.isSome_eq_false_iff, Option.isNone_iff_eq_none] at hfree
    obtain ⟨⟨hramp, huv⟩, -⟩ := hfree
    exact ⟨hramp, huv, hhead, of_decide_eq_true hfits⟩

theorem drogueTurn_awake {c : Chip} (h : isAwake c = true) : drogueTurn c = drogueAdmit c := if_pos h

theorem drogueAdmit_some {c : Chip} {h : PwrReq} (hadm : admissible c = some h) : drogueAdmit c = grantRamp h c := by
  simp only [drogueAdmit, hadm]

theorem drogueAdmit_none {c : Chip} (ha : isAwake c = true) (hadm : admissible c = none) (hramp : c.pwr.ramp = none)
    (huv : c.pwr.uvNow = false) (hqueue : c.pwr.queue ≠ []) : drogueAdmit c = reclaim c := by
  simp [drogueAdmit, hadm, hramp, huv, ((isAwake_iff c).1 ha).2, hqueue]

/-- A ramp that is over, of a unit that has one step. -/
theorem endRamp_over {c : Chip} {h : PwrReq} (hunit : h.unit < 12) (hramp : c.pwr.ramp = some h) (hover : c.pwr.rampEnd ≤ now c) :
    endRamp c = { c with
      pwr.ramp := none, pwr.rampEnd := 0
      pwr.ungated := SMap.set none c.pwr.ungated h.unit (some ((SMap.get none c.pwr.ungated h.unit).getD 0 + h.step)) } := by
  have hname : unitOf h.unit = h.unit := (if_neg (by omega)).trans (if_neg (by omega))
  have hsmall : ¬ 17 ≤ h.unit := by omega
  have hhalf : ¬ 13 ≤ h.unit := by omega
  have hblock : h.unit ≠ 12 := by omega
  simp only [endRamp, hramp, if_neg (Nat.not_lt.2 hover), hname, if_neg hsmall, if_neg hhalf, hblock, false_and, if_false]

theorem endRamp_early {c : Chip} (h : c.pwr.ramp = none ∨ now c < c.pwr.rampEnd) : endRamp c = c := by
  unfold endRamp
  split
  next => rfl
  next r hr => exact if_pos (h.resolve_left (by simp [hr]))

theorem rampTurn_awake {c : Chip} (h : isAwake c = true) : rampTurn c = retryStarts (endRamp c) := if_pos h

/-! ## BASE in a start or an exit -/

theorem drogueTurn_base {c : Chip} (hruns : pwrRuns c = true) (ha : isAwake c = false) (hwaits : baseWaits c = true) :
    drogueTurn c = admitBase c := (if_neg (ne_true_of_eq_false ha)).trans (if_pos (by rw [hruns, hwaits]; rfl))

theorem admitBase_eq {c : Chip} (h : baseRamps c = false) :
    admitBase c = if baseFits c = true then grantRamp (baseRequest c) c else deferBase c := if_neg (ne_true_of_eq_false h)

theorem baseRamps_some {c : Chip} {h : PwrReq} (hramp : c.pwr.ramp = some h) (hunit : h.unit = 0) : baseRamps c = true := by
  simp [baseRamps, hramp, hunit]

/-- What the end of BASE's ramp lets go on: the exit from P1 or P2, or a start. -/
theorem rampTurn_base {c : Chip} {h : PwrReq} (hruns : pwrRuns c = true) (ha : isAwake c = false) (hramp : c.pwr.ramp = some h)
    (hunit : h.unit = 0) (hover : c.pwr.rampEnd ≤ now c) : rampTurn c =
      runHeld (if isUp c = true then leftState (c.pwr.waking.getD 0) { c with pwr.ramp := none, pwr.rampEnd := 0 }
        else startGoes { c with pwr.ramp := none, pwr.rampEnd := 0 }) :=
  (if_neg (ne_true_of_eq_false ha)).trans (if_pos ⟨hruns, baseRamps_some hramp hunit, hover⟩)

/-- What a start whose BASE has ramped is. -/
theorem start_asleep {c : Chip} (hcold : ∃ k, c.core.phase = .cold k ∨ c.core.phase = .warm k) :
    pwrRuns c = true ∧ isUp c = false ∧ isAwake c = false := by
  obtain ⟨k, hk | hk⟩ := hcold
  · simp [pwrRuns, isAwake, isUp, hk]
  · simp [pwrRuns, isAwake, isUp, hk]

theorem rampTurn_cold {c : Chip} {h : PwrReq} (hunit : h.unit = 0) (hramp : c.pwr.ramp = some h) (hover : c.pwr.rampEnd ≤ now c)
    (hphase : c.core.phase = .cold 5) : rampTurn c = runHeld (coldOver { c with pwr.ramp := none, pwr.rampEnd := 0 }) := by
  obtain ⟨hruns, hup, ha⟩ := start_asleep ⟨5, .inl hphase⟩
  rw [rampTurn_base hruns ha hramp hunit hover, if_neg (ne_true_of_eq_false hup)]
  simp only [startGoes, hphase]

theorem rampTurn_warm {c : Chip} {h : PwrReq} (hunit : h.unit = 0) (hramp : c.pwr.ramp = some h) (hover : c.pwr.rampEnd ≤ now c)
    (hphase : c.core.phase = .warm 4) : rampTurn c = runHeld (startOver { c with pwr.ramp := none, pwr.rampEnd := 0 }) := by
  obtain ⟨hruns, hup, ha⟩ := start_asleep ⟨4, .inr hphase⟩
  rw [rampTurn_base hruns ha hramp hunit hover, if_neg (ne_true_of_eq_false hup)]
  simp only [startGoes, hphase]

theorem rampTurn_exit {c : Chip} {h : PwrReq} {row : Nat} (hunit : h.unit = 0) (hup : isUp c = true) (hramp : c.pwr.ramp = some h)
    (hover : c.pwr.rampEnd ≤ now c) (hasleep : c.pwr.state ≠ 0) (hwaking : c.pwr.waking = some row) :
    rampTurn c = runHeld (leftState row { c with pwr.ramp := none, pwr.rampEnd := 0 }) := by
  have hruns : pwrRuns c = true := by simp only [pwrRuns, (isUp_iff c).1 hup]
  have ha : isAwake c = false := by simp [isAwake, hasleep]
  rw [rampTurn_base hruns ha hramp hunit hover, if_pos hup, hwaking, Option.getD_some]

theorem rampTurn_early {c : Chip} (ha : isAwake c = false) (hearly : now c < c.pwr.rampEnd) : rampTurn c = c :=
  (if_neg (ne_true_of_eq_false ha)).trans (if_neg fun hover => absurd hover.2.2 (Nat.not_le.2 hearly))

/-! ## Lending -/

theorem lendOffer_due {q : Nat} {c : Chip} (hup : isUp c = true) (hquiet : c.sync.quietSince = some q) (hlend : c.pwr.lend = 0)
    (hack : c.pwr.plAck = false) (hen : c.pwr.cfg.getLsbD 52 = true)
    (hdue : 1000 * (c.pwr.cfg.toNat / 2 ^ 32 % 2 ^ 12) ≤ now c - max q c.pwr.offerFrom) : lendOffer c =
      if c.pwr.amtStable = true ∧ c.pwr.plAmt = offerAmps c then { c with pwr.lend := 1, pwr.plReq := true }
      else { c with pwr.plAmt := offerAmps c, pwr.amtStable := false } := by
  have hbit : bitAt c.pwr.cfg 52 = true := hen
  simp only [lendOffer, hquiet, hup, hlend, hack, hbit, fld_eq, decide_eq_true hdue, beq_self_eq_true, Bool.not_false, Bool.and_self,
    if_true, Bool.and_eq_true, beq_iff_eq]

theorem plAckRise_offered {c : Chip} (hlink : (isUp c || inWarm c) = true) (hreq : c.pwr.plReq = true) (hlend : c.pwr.lend = 1) :
    plAckRise c = { c with pwr.plAck := true, pwr.lend := 2, pwr.lent := 8 * c.pwr.plAmt } := by
  have hgo : (envelopeUp { c with pwr.plAck := true } && c.pwr.plReq && c.pwr.lend == 1) = true := by
    rw [Bool.and_eq_true, Bool.and_eq_true]
    exact ⟨⟨hlink, hreq⟩, beq_iff_eq.2 hlend⟩
  exact if_pos hgo

theorem plAckFall_eq {c : Chip} (hlink : (isUp c || inWarm c) = true) : plAckFall c =
    if c.pwr.lend = 3 then { c with pwr.plAck := false, pwr.lend := 0, pwr.lent := 0, pwr.reclaimFrom := none }
    else if c.pwr.lend = 2 then
      { c with pwr.plAck := false, pwr.lend := 0, pwr.lent := 0, pwr.plReq := false, pwr.offerFrom := now c }
    else { c with pwr.plAck := false } := by
  have hgo : ¬ (!envelopeUp { c with pwr.plAck := false }) = true := by
    have henv : envelopeUp { c with pwr.plAck := false } = true := hlink
    rw [henv]
    decide
  exact if_neg hgo

theorem reclaimLate_over {t : Nat} {c : Chip} (hfrom : c.pwr.reclaimFrom = some t) (hack : c.pwr.plAck = true)
    (hlate : 1000 * (c.pwr.cfg.toNat / 2 ^ 44 % 2 ^ 8) ≤ now c - t) : reclaimLate c = { c with pwr.reclaimLate := true } := by
  simp only [reclaimLate, hfrom, fld_eq, hack, hlate, and_self, if_true]

/-- Settles O47. -/
theorem powerRows : Obligations.PowerRows := by
  unfold Obligations.PowerRows
  refine ⟨⟨?hold, ?release, ?off, ?offRefused, fun v hbad => ?pointBad, fun v hok => ?point, fun v hok => ?pointBusy, ?up, ?down,
      fun v => ?latTol, fun q => ⟨?p1, ?p2⟩, fun row => ?exit, ?uv, ?recover, fun c => undervoltage_stops⟩,
    fun u step hu hu' => ?gate, fun c h => admissible_some, fun h => ?admits, ?reclaims, fun h hunit => ?ramp, ?noRamp,
    fun a => ⟨?half, ?notHalf⟩, ⟨?base, ?baseWaits⟩, fun h hunit => ⟨?cold, ?warm, fun row => ?exitGoes, ?early⟩, fun q => ?offer,
    ?rise, ?fallReclaim, ?fallTaken, fun t => ?late⟩
  case hold => exact acts_of (fun _ => rfl) fun c ha _ => (regWrite_eq ha).trans (beginWake_awake (c := { c with pwr.held := true }) ha 7)
  case release => exact acts_regWrite (fun _ => rfl) fun c _ => rfl
  case off => exact acts_regWrite (fun _ => rfl) fun c h => (pwrOff_eq c).trans (if_pos h)
  case offRefused => exact acts_regWrite (fun _ => rfl) fun c h => (pwrOff_eq c).trans (if_neg (ne_true_of_eq_false h))
  case pointBad => exact acts_regWrite (fun _ => rfl) fun c _ => (dvfsPointWrite_eq v c).trans (if_pos hbad)
  case point =>
    exact acts_regWrite (fun _ => rfl) fun c h =>
      (dvfsPointWrite_eq v c).trans ((if_neg (Nat.not_le.2 hok)).trans (if_neg (ne_true_of_eq_false h)))
  case pointBusy =>
    exact acts_regWrite (fun _ => rfl) fun c h => (dvfsPointWrite_eq v c).trans ((if_neg (Nat.not_le.2 hok)).trans (if_pos h))
  case up =>
    exact acts_of (fun _ => rfl) fun c ha ⟨hbusy, huv, hup, hon⟩ => by
      rw [inUp_eq (awake_up ha), dvfsStepDone_busy ha hbusy huv, if_neg (ne_true_of_eq_false hup), if_pos hon]
  case down =>
    exact acts_of (fun _ => rfl) fun c ha ⟨hbusy, huv, hdown⟩ => by
      rw [inUp_eq (awake_up ha), dvfsStepDone_busy ha hbusy huv, if_pos hdown]
  case latTol => exact acts_regWrite (fun _ => rfl) fun c _ => latTolWrite_eq v c
  case p1 =>
    exact takes_of (fun _ => rfl) fun c ⟨hup, hquiet, htime, hfree⟩ => (inUp_eq hup).trans (p1Entry_quiet hup hquiet htime hfree)
  case p2 =>
    exact takes_of (fun _ => rfl) fun c ⟨hup, hquiet, htime, hlong, hfree⟩ =>
      (inUp_eq hup).trans (p2Entry_quiet hup hquiet ⟨htime, hlong⟩ hfree)
  case exit => exact takes_of (fun _ => rfl) fun c ⟨hup, hwaking⟩ => wakeExitDone_waking hup hwaking
  case uv => exact takes_of (fun _ => rfl) fun c h => if_neg (by rw [h]; decide)
  case recover => exact takes_of (fun _ => rfl) fun c h => if_pos h
  case gate => exact acts_inP0 (fun _ => rfl) fun c ⟨hidle, hon⟩ => blockGate_idle hu hu' hidle hon
  case admits => exact acts_of (fun _ => rfl) fun c ha h => (drogueTurn_awake ha).trans (drogueAdmit_some h)
  case reclaims =>
    exact acts_of (fun _ => rfl) fun c ha ⟨hadm, hramp, huv, hqueue⟩ =>
      (drogueTurn_awake ha).trans (drogueAdmit_none ha hadm hramp huv hqueue)
  case ramp =>
    exact acts_of (fun _ => rfl) fun c ha ⟨hramp, hover⟩ =>
      (rampTurn_awake ha).trans (congrArg retryStarts (endRamp_over hunit hramp hover))
  case noRamp => exact acts_of (fun _ => rfl) fun c ha h => (rampTurn_awake ha).trans (congrArg retryStarts (endRamp_early h))
  case half => exact acts_inP0 (fun _ => rfl) fun c h => if_pos h
  case notHalf => exact acts_inP0 (fun _ => rfl) fun c h => if_neg (ne_true_of_eq_false h)
  case base =>
    exact takes_of (fun _ => rfl) fun c ⟨⟨hruns, ha, hwaits, hidle⟩, hfits⟩ =>
      (drogueTurn_base hruns ha hwaits).trans ((admitBase_eq hidle).trans (if_pos hfits))
  case baseWaits =>
    exact takes_of (fun _ => rfl) fun c ⟨⟨hruns, ha, hwaits, hidle⟩, hfits⟩ =>
      (drogueTurn_base hruns ha hwaits).trans ((admitBase_eq hidle).trans (if_neg (ne_true_of_eq_false hfits)))
  case cold => exact takes_of (fun _ => rfl) fun c ⟨⟨hramp, hover⟩, hphase⟩ => rampTurn_cold hunit hramp hover hphase
  case warm => exact takes_of (fun _ => rfl) fun c ⟨⟨hramp, hover⟩, hphase⟩ => rampTurn_warm hunit hramp hover hphase
  case exitGoes =>
    exact takes_of (fun _ => rfl) fun c ⟨hup, ⟨hramp, hover⟩, hasleep, hwaking⟩ => rampTurn_exit hunit hup hramp hover hasleep hwaking
  case early => exact takes_of (fun _ => rfl) fun c ⟨ha, _, hearly⟩ => rampTurn_early ha hearly
  case offer =>
    exact takes_of (fun _ => rfl) fun c ⟨hup, hquiet, hlend, hack, hen, hdue⟩ =>
      (inUp_eq hup).trans (lendOffer_due hup hquiet hlend hack hen hdue)
  case rise => exact takes_of (fun _ => rfl) fun c ⟨hlink, hreq, hlend⟩ => plAckRise_offered hlink hreq hlend
  case fallReclaim => exact takes_of (fun _ => rfl) fun c ⟨hlink, h⟩ => (plAckFall_eq hlink).trans (if_pos h)
  case fallTaken =>
    exact takes_of (fun _ => rfl) fun c ⟨hlink, h⟩ => (plAckFall_eq hlink).trans ((if_neg (by rw [h]; decide)).trans (if_pos h))
  case late => exact takes_of (fun _ => rfl) fun c ⟨hup, hfrom, hack, hlate⟩ => (onLink_eq hup).trans (reclaimLate_over hfrom hack hlate)

end Sys2Proof.Machine
end

section
/-! SUPPORT. Cold and warm starts (O48). -/

namespace Sys2Proof.Machine

/-! ## Commands that act in every state -/

/-- A command that acts in the undefined state too answers its effect. -/
theorem answers_always {i : Instr} {f : Chip → Chip} {s : State} {d : Chip} (hx : exec i s = runAlways f s) (e : f s.chip = d) :
    Answers i s d := by
  unfold Answers
  rw [hx, runAlways, e]

/-! ## Cold starts -/

theorem startCmdCold_begins {c : Chip} (h : c.core.phase = .running ∨ ∃ k, c.core.phase = .warm k ∨ c.core.phase = .cold k) :
    startCmdCold c = coldBegin 1 true c := by
  rcases h with h | ⟨k, h | h⟩
  · simp only [startCmdCold, h]
  · simp only [startCmdCold, h]
  · simp only [startCmdCold, h]

/-- A failed start leaves the core retrying or in P3. -/
theorem startFails_phase (cause : Nat) (ret : Bool) (c : Chip) :
    (startFails cause ret c).core.phase = .p3 ∨ (startFails cause ret c).core.phase = .retry := by
  unfold startFails
  dsimp only
  split
  · exact .inl rfl
  · exact .inr rfl

theorem startHeld_stopped {old c : Chip} (h : c.core.phase = .p3 ∨ c.core.phase = .retry) : startHeld old c = c := by
  rcases h with h | h
  · exact if_neg (by simp [h])
  · exact if_neg (by simp [h])

/-- With step 4 of a cold start the lanes run, and what waited for them does. -/
theorem startHeld_lanes {old c : Chip} (hold : old.core.phase = .cold 3) (h : c.core.phase = .cold 4) : startHeld old c = runHeld c :=
  if_pos (by simp [h, hold])

theorem marchTestDone_failed {es : List W64} {c : Chip} (hphase : c.core.phase = .cold 3)
    (hreps : softRepairs (c.lmem.repairs.map BitVec.toNat) (es.map BitVec.toNat) = none) : marchTestDone es c = startFails 4 false c := by
  simp only [marchTestDone, if_neg (not_not.2 hphase), hreps]

theorem marchTestDone_repaired {es : List W64} {reps : List Nat} {c : Chip} (hphase : c.core.phase = .cold 3)
    (hreps : softRepairs (c.lmem.repairs.map BitVec.toNat) (es.map BitVec.toNat) = some reps) : marchTestDone es c = { c with
      core.phase := .cold 4, core.stepFrom := now c, lmem.repairs := reps.map (BitVec.ofNat 64), lmem.softCount := reps.length - c.lmem.hard
      lmem.banks := bankTable reps c.lmem.hard, lmem.mem := [], lmem.ecc := [], lmem.wbQueue := [] } := by
  simp only [marchTestDone, if_neg (not_not.2 hphase), hreps]

theorem marchDone_failed {es : List W64} {c : Chip} (hphase : c.core.phase = .cold 3)
    (hreps : softRepairs (c.lmem.repairs.map BitVec.toNat) (es.map BitVec.toNat) = none) : marchDone es c = startFails 4 false c := by
  rw [marchDone, marchTestDone_failed hphase hreps]
  exact startHeld_stopped (startFails_phase 4 false c)

theorem marchDone_repaired {es : List W64} {reps : List Nat} {c : Chip} (hphase : c.core.phase = .cold 3)
    (hreps : softRepairs (c.lmem.repairs.map BitVec.toNat) (es.map BitVec.toNat) = some reps) : marchDone es c = runHeld { c with
      core.phase := .cold 4, core.stepFrom := now c, lmem.repairs := reps.map (BitVec.ofNat 64), lmem.softCount := reps.length - c.lmem.hard
      lmem.banks := bankTable reps c.lmem.hard, lmem.mem := [], lmem.ecc := [], lmem.wbQueue := [] } := by
  rw [marchDone, marchTestDone_repaired hphase hreps]
  exact startHeld_lanes hphase rfl

theorem foldl_core {α : Type} {f : Chip → α → Chip} (h : ∀ c a, (f c a).core = c.core) (l : List α) (c : Chip) :
    (l.foldl f c).core = c.core := by
  induction l generalizing c with
  | nil => rfl
  | cons a l ih => exact (ih (f c a)).trans (h c a)

theorem deriveLat_core (c : Chip) : (deriveLat c).core = c.core := by
  refine foldl_core (l := rangeFrom 0 Config.arrays) ?_ c
  exact fun _ _ => rfl

theorem startBase_cold {c : Chip} {k : Nat} (h : c.core.phase = .cold k) : startBase c = admitBase { c with core.phase := .cold 5 } := by
  simp only [startBase, h]

theorem startBase_warm {c : Chip} {k : Nat} (h : c.core.phase = .warm k) : startBase c = admitBase { c with core.phase := .warm 4 } := by
  simp only [startBase, h]

theorem pllLock_cold {c : Chip} (h : c.core.phase = .cold 4) : pllLock c =
    if tileOr (deriveLat (coldReset c)) ≠ 0 then startFails 6 false (deriveLat (coldReset c))
    else startBase (deriveLat (coldReset c)) := by
  simp only [pllLock, h]
  rfl

theorem overvoltage_powered {c : Chip} (h1 : c.core.phase ≠ .unpowered) (h2 : c.core.phase ≠ .p3) (h3 : c.core.phase ≠ .wrapper) :
    overvoltage c = enterP3 false c := by
  unfold overvoltage
  split
  next h => exact absurd h h1
  next h => exact absurd h h2
  next h => exact absurd h h3
  next => rfl

/-! ## Warm starts -/

theorem warmRequest_running {c : Chip} (h : c.core.phase = .running) : warmRequest c =
    if (c.wvm.hold.isSome || c.pwr.state != 0) = true then beginWake 0 { c with core.warmWaits := true } else warmBegin c := by
  simp only [warmRequest, h]

theorem warmRequest_free {c : Chip} (h : c.core.phase = .running) (hhold : c.wvm.hold = none) (hstate : c.pwr.state = 0) :
    warmRequest c = warmBegin c :=
  (warmRequest_running h).trans (if_neg (by simp [hhold, hstate]))

theorem warmRequest_waits {c : Chip} (h : c.core.phase = .running) (hwait : c.wvm.hold ≠ none ∨ c.pwr.state ≠ 0) :
    warmRequest c = beginWake 0 { c with core.warmWaits := true } :=
  (warmRequest_running h).trans (if_pos (by simpa [Option.isSome_iff_ne_none] using hwait))

theorem warmRequest_warm {c : Chip} {k : Nat} (h : c.core.phase = .warm k) : warmRequest c = warmBegin c := by
  simp only [warmRequest, h]

theorem warmRequest_cold {c : Chip} {k : Nat} (h : c.core.phase = .cold k) : warmRequest c = c := by
  simp only [warmRequest, h]

theorem warmBegin_lost {c : Chip} (h : c.core.retainV = false) : warmBegin c = coldBegin 3 true { c with core.warmWaits := false } :=
  if_pos (congrArg not h)

theorem pllLock_warm {c : Chip} (h : c.core.phase = .warm 3) : pllLock c =
    if tileOr (warmReset c) ≠ 0 then warmFails (warmReset c) else startBase (warmReset c) := by
  simp only [pllLock, h]
  rfl

theorem warm_requests {i : Instr} (hx : ∀ s, exec i s = run warmRequest s) :
    Takes i (fun c => c.core.phase = .running ∧ c.wvm.hold = none ∧ c.pwr.state = 0) warmBegin ∧
    Takes i (fun c => c.core.phase = .running ∧ (c.wvm.hold ≠ none ∨ c.pwr.state ≠ 0))
      (fun c => beginWake 0 { c with core.warmWaits := true }) ∧
    (∀ k : Nat, Takes i (fun c => c.core.phase = .warm k) warmBegin) :=
  ⟨takes_of hx fun _ ⟨h, hhold, hstate⟩ => warmRequest_free h hhold hstate, takes_of hx fun _ ⟨h, hwait⟩ => warmRequest_waits h hwait,
    fun _ => takes_of hx fun _ h => warmRequest_warm h⟩

/-- Settles O48. -/
theorem starts : Obligations.Starts := by
  unfold Obligations.Starts
  refine ⟨⟨?powerOn, fun s h1 h2 => ?assert, fun s h => ?release, fun s => ?loss, ?wake, ?cmd, fun k => ⟨?cmdWarm, ?cmdCold⟩, ?rails,
      fun rail => ?regulator, ?retry, fun es => ?march, fun es reps => ?repaired, ⟨?tiles, ?base⟩, ?lock, ?tooHigh⟩,
    fun i hi => ?requests, fun k => ⟨?ignored, ?ignoredPin⟩, fun c h => warmBegin_lost h, ?warmRails, ?warmTiles, ?warmBase,
    fun rail h => ?lost, ?stop⟩
  case powerOn => exact takes_of (fun _ => rfl) fun c h => if_pos h
  case assert => exact answers_always rfl (if_neg (not_or.2 ⟨h1, h2⟩))
  case release => exact answers_always rfl (if_pos h)
  case loss => exact answers_always rfl rfl
  case wake => exact takes_of (fun _ => rfl) fun c h => if_pos h
  case cmd => exact takes_of (fun _ => rfl) fun c h => startCmdCold_begins (.inl h)
  case cmdWarm => exact takes_of (fun _ => rfl) fun c h => startCmdCold_begins (.inr ⟨k, .inl h⟩)
  case cmdCold => exact takes_of (fun _ => rfl) fun c h => startCmdCold_begins (.inr ⟨k, .inr h⟩)
  case rails => exact takes_of (fun _ => rfl) fun c h => by simp only [railPowerGood, h]
  case regulator => exact takes_of (fun _ => rfl) fun c h => if_pos h
  case retry => exact takes_of (fun _ => rfl) fun c h => if_pos h
  case march => exact takes_of (fun _ => rfl) fun c ⟨h, hreps⟩ => marchDone_failed h hreps
  case repaired => exact takes_of (fun _ => rfl) fun c ⟨h, hreps⟩ => marchDone_repaired h hreps
  case tiles => exact takes_of (fun _ => rfl) fun c ⟨h, hbad⟩ => (pllLock_cold h).trans (if_pos hbad)
  case base =>
    exact takes_of (fun _ => rfl) fun c ⟨h, hgood⟩ =>
      (pllLock_cold h).trans ((if_neg (not_not.2 hgood)).trans (startBase_cold (k := 4) ((congrArg _ (deriveLat_core _)).trans h)))
  case lock => exact takes_of (fun _ => rfl) fun c h => if_pos h
  case tooHigh => exact takes_of (fun _ => rfl) fun c ⟨h1, h2, h3⟩ => overvoltage_powered h1 h2 h3
  case requests =>
    rcases hi with rfl | rfl
    · exact warm_requests fun _ => rfl
    · exact warm_requests fun _ => rfl
  case ignored => exact takes_of (fun _ => rfl) fun c h => warmRequest_cold h
  case ignoredPin => exact takes_of (fun _ => rfl) fun c h => warmRequest_cold h
  case warmRails => exact takes_of (fun _ => rfl) fun c h => by simp only [railPowerGood, h]
  case warmTiles => exact takes_of (fun _ => rfl) fun c ⟨h, hbad⟩ => (pllLock_warm h).trans (if_pos hbad)
  case warmBase =>
    exact takes_of (fun _ => rfl) fun c ⟨h, hgood⟩ =>
      (pllLock_warm h).trans ((if_neg (not_not.2 hgood)).trans (startBase_warm (c := warmReset c) (k := 3) h))
  case lost => exact takes_of (fun _ => rfl) fun c _ => if_pos h
  case stop => exact takes_of (fun _ => rfl) fun c h => if_neg (by rw [h]; decide)

end Sys2Proof.Machine
end

section
/-! SUPPORT. Time base, trace rings and the registers that every page has (O49, O50). -/

namespace Sys2Proof.Machine

/-! ## Time and trace -/

theorem tpulseEdge_sync {c : Chip} (h : timeSrc c = 1) : tpulseEdge c =
    if (!c.time.nextV) = true then { c with time.missed := satAdd 16 c.time.missed 1 }
    else measure ((c.time.next : Int) - (now c : Int)) 0 { c with time.nextV := false } := if_neg (not_not.2 h)

theorem tpulseArm_eq (v : W64) (c : Chip) : tpulseArm v c = { c with time.next := v.toNat % 2 ^ 63, time.nextV := v.getLsbD 63 } := by
  simp only [tpulseArm, fld_eq, pow_zero, Nat.div_one]
  rfl

theorem holdoverExpire_over {t0 : Nat} {c : Chip} (hmeas : c.time.lastMeas = some t0) (hlock : c.time.lock = true)
    (hlate : holdoverMs c * 1000000 ≤ now c - t0) : holdoverExpire c = setLock false c.time.lastE { c with time.good := 0 } := by
  simp only [holdoverExpire, hmeas]
  exact if_pos ⟨hlock, hlate⟩

/-- A trace ring is changed by what happens to the ring it is. -/
theorem updTrace_congr {r : Nat} {f g : Trace → Trace} {c : Chip} (h : f (traceOf c r) = g (traceOf c r)) :
    updTrace r f c = updTrace r g c := by
  have hset : SMap.upd .reset c.time.traces r f = SMap.upd .reset c.time.traces r g :=
    congrArg (SMap.set Trace.reset c.time.traces r) h
  simp only [updTrace, hset]

/-- The fields of TIME_TRACE_CFG that may change while the ring is disabled. -/
def traceMask : W64 := maskOf [(0, 7), (8, 20), (32, 16)]

theorem bitAt_traceMask (old v : W64) : bitAt (maskWrite traceMask old v) 0 = v.getLsbD 0 := by
  have h : traceMask.getLsbD 0 = true := by decide
  have hbit : bitAt (maskWrite traceMask old v) 0 = (maskWrite traceMask old v).getLsbD 0 := rfl
  rw [hbit, maskWrite, BitVec.getLsbD_or, BitVec.getLsbD_and, BitVec.getLsbD_and, BitVec.getLsbD_not, h]
  simp only [Bool.not_true, Bool.and_false, Bool.false_or, Bool.and_true]

/-- What a write of TIME_TRACE_CFG makes of a disabled ring: with EN it starts empty. -/
theorem traceCfgWrite_off {v : W64} {c : Chip} (h : (traceOf c c.time.sel).en = false) : traceCfgWrite v c =
    if v.getLsbD 0 = true then
      updTrace c.time.sel (fun t => { t with cfg := maskWrite traceMask t.cfg v, head := 0, tail := 0, unacked := 0 }) c
    else updTrace c.time.sel (fun t => { t with cfg := maskWrite traceMask t.cfg v }) c := by
  split
  next hon =>
    refine updTrace_congr ?_
    have hmask : maskOf [(0, 7), (8, 20), (32, 16)] = traceMask := rfl
    simp only [h, Bool.false_eq_true, if_false, hmask, bitAt_traceMask, hon, Bool.not_false, Bool.and_self, if_true]
  next hoff =>
    refine updTrace_congr ?_
    have hmask : maskOf [(0, 7), (8, 20), (32, 16)] = traceMask := rfl
    simp only [h, Bool.false_eq_true, if_false, hmask, bitAt_traceMask, hoff, Bool.false_and]

theorem traceCfgWrite_on {v : W64} {c : Chip} (h : (traceOf c c.time.sel).en = true) : traceCfgWrite v c =
    updTrace c.time.sel (fun t => { t with cfg := maskWrite (maskOf [(0, 1), (6, 1), (8, 20), (32, 16)]) t.cfg v }) c := by
  refine updTrace_congr ?_
  simp only [h, if_true, Bool.not_true, Bool.and_false, Bool.false_eq_true, if_false]

theorem traceHeadWrite_eq (v : W64) (c : Chip) : traceHeadWrite v c = updTrace c.time.sel (fun t =>
    if sub32 t.tail (v.toNat % 2 ^ 32) ≤ t.size then { t with head := v.toNat % 2 ^ 32 } else t) c := by
  simp only [traceHeadWrite, fld_eq, pow_zero, Nat.div_one]

theorem traceStatWrite_zero (c : Chip) : traceStatWrite 0#64 c = updTrace c.time.sel (fun t => { t with lost := 0 }) c := by
  refine updTrace_congr ?_
  have hbit : bitAt 0#64 32 = false := rfl
  simp only [hbit, Bool.not_false, Bool.and_true]

theorem traceAck_answered {r : Nat} {c : Chip} (hunacked : (traceOf c r).unacked ≠ 0)
    (hwaiting : (c.time.waiting.any fun w => w.1 == r && w.2.1 == (traceOf c r).addr (traceOf c r).tail) = false)
    (hsent : ((c.outbox ++ c.tlk.waitReqs ++ c.hport.out).any fun q =>
      q.who == .trace r && q.addr == (traceOf c r).addr (traceOf c r).tail) = false) :
    traceAck r c = updTrace r (fun t => { t with tail := add32 t.tail 1, unacked := t.unacked - 1 }) c := by
  refine if_neg ?_
  rw [hsent, hwaiting]
  simp [hunacked]

/-- Settles O49. -/
theorem timeRows : Obligations.TimeRows := by
  unfold Obligations.TimeRows
  refine ⟨?missed, ?measured, fun v => ?arm, fun t0 => ?holdover, fun v who hwho => ?mark, does_regWrite, fun v => ?cfgOn,
    fun v => ?cfgOff, fun v => ?cfgBusy, fun v => ?head, ?stat, fun r hr => ?ack⟩
  case missed =>
    exact links_onLink (fun _ => rfl) fun c ⟨hsrc, hnext⟩ => (tpulseEdge_sync hsrc).trans (if_pos (by rw [hnext]; rfl))
  case measured =>
    exact links_onLink (fun _ => rfl) fun c ⟨hsrc, hnext⟩ => (tpulseEdge_sync hsrc).trans (if_neg (by rw [hnext]; decide))
  case arm => exact acts_regWrite (fun _ => rfl) fun c _ => tpulseArm_eq v c
  case holdover => exact links_onLink (fun _ => rfl) fun c ⟨hmeas, hlock, hlate⟩ => holdoverExpire_over hmeas hlock hlate
  case mark =>
    have hname : who % 2 ^ 16 = who := Nat.mod_eq_of_lt hwho
    exact acts_regWrite (fun _ => rfl) fun c _ => by rw [hname, timeMark]
  case cfgOn => exact acts_regWrite (fun _ => rfl) fun c ⟨hen, hon⟩ => (traceCfgWrite_off hen).trans (if_pos hon)
  case cfgOff =>
    exact acts_regWrite (fun _ => rfl) fun c ⟨hen, hoff⟩ => (traceCfgWrite_off hen).trans (if_neg (ne_true_of_eq_false hoff))
  case cfgBusy => exact acts_regWrite (fun _ => rfl) fun c hen => traceCfgWrite_on hen
  case head => exact acts_regWrite (fun _ => rfl) fun c _ => traceHeadWrite_eq v c
  case stat => exact acts_regWrite (fun _ => rfl) fun c _ => traceStatWrite_zero c
  case ack =>
    exact links_onLink (fun _ => rfl) fun c ⟨hunacked, hwaiting, hsent⟩ => (if_pos hr).trans (traceAck_answered hunacked hwaiting hsent)

/-! ## Registers of pages -/

theorem regCommand_up {p off : Nat} {v : W64} {c : Chip} (hp : p < 20) (hoff : off < 0x10000) (h8 : off % 8 = 0) (hup : isUp c = true) :
    regCommand p off v c = if (asleep c && !pageAlwaysOn p) = true then holdWake 5 (.registerWrite p off v) c
      else pageWrite 0xFFFF p off v c :=
  if_neg (by simp [hup, Nat.not_le.2 hp, Nat.not_le.2 hoff, h8])

/-- A command of a page's control register. -/
theorem does_pageReg {i : Instr} {p : Nat} {v : PageHdr → Bool × Bool} {f k : Chip → Chip} (hp : p < 20)
    (hx : ∀ s, exec i s = run (pageReg p v f) s) (e : ∀ c, f c = k c) : Does i k :=
  acts_of hx fun c ha _ => (if_pos hp).trans ((regWrite_eq ha).trans (e c))

/-- A read of a page's readback word, in P0, has the effect of the access. -/
theorem acts_rbRead {p : Nat} {h : Chip → Prop} {k : Chip → Chip} (hp : p < 20) (e : ∀ c, h c → (rbDataRead p c).2 = k c) :
    Acts (.rbDataRead p) h k :=
  acts_of (fun _ => rfl) fun c ha hc => by
    have hread : regRead p 0x070 (.rbDataRead p) c = (rbDataRead p c).2 := by
      simp only [regRead, awake_up ha, awake_not_asleep ha, Bool.not_true, Bool.false_eq_true, Bool.false_and, if_false]
      rfl
    exact (if_pos hp).trans (hread.trans (e c hc))

theorem acts_rbWrite {p : Nat} {v : W64} {h : Chip → Prop} {k : Chip → Chip} (hp : p < 20) (e : ∀ c, h c → rbDataWrite p v c = k c) :
    Acts (.rbDataWrite p v) h k :=
  acts_of (fun _ => rfl) fun c ha hc => (if_pos hp).trans ((regWrite_eq ha).trans (e c hc))

theorem rbDataRead_inside {p words : Nat} {c : Chip} (h : rbInside c p = some words) : (rbDataRead p c).2 =
    rbAdvance p words (rbWord p (pageOf c p).rbSpace (pageOf c p).rbItem (pageOf c p).rbWord c).2 := by
  simp only [rbDataRead, h]

theorem rbDataRead_outside {p : Nat} {c : Chip} (h : rbInside c p = none) :
    (rbDataRead p c).2 = updPage p (fun h => { h with rbErr := true }) c := by
  simp only [rbDataRead, h, rbFail]

theorem rbDataWrite_inside {p words : Nat} {v : W64} {c : Chip} (h : rbInside c p = some words) : rbDataWrite p v c =
    if (quiesced c p && rbWritable c p (pageOf c p).rbSpace (pageOf c p).rbItem (pageOf c p).rbWord) = true then
      rbAdvance p words (rbPut p (pageOf c p).rbSpace (pageOf c p).rbItem (pageOf c p).rbWord v c)
    else updPage p (fun h => { h with rbErr := true }) c := by
  simp only [rbDataWrite, h, rbFail]

/-! ## Fault registers -/

/-- What a fault makes of its page's header. -/
def PageHdr.faulted (c : Chip) (page code : Nat) (k : Cause) (h : PageHdr) : PageHdr :=
  { h with
    fault := h.fault ||| (1#20 <<< k.bit), first := firstAfter c page code h
    ftime := if h.fault = 0#20 then now c else h.ftime }

theorem pageOf_recordFault (page code ctx ring : Nat) (k : Cause) (d1 : W64) (c : Chip) (p : Nat) :
    pageOf (recordFault page k code ctx ring d1 c) p = pageOf (updPage page (PageHdr.faulted c page code k) c) p := rfl

theorem recordFault_page (page code ctx ring : Nat) (k : Cause) (d1 : W64) (c : Chip) :
    pageOf (recordFault page k code ctx ring d1 c) page = PageHdr.faulted c page code k (pageOf c page) := by
  rw [pageOf_recordFault, pageOf_updPage]

theorem recordFault_other {page p : Nat} (code ctx ring : Nat) (k : Cause) (d1 : W64) (c : Chip) (h : p ≠ page) :
    pageOf (recordFault page k code ctx ring d1 c) p = pageOf c p := by
  rw [pageOf_recordFault, pageOf_updPage_other _ c h]

theorem recordFault_firsts {page : Nat} (code ctx ring : Nat) (k : Cause) (d1 : W64) {c : Chip} (h : (pageOf c page).fault = 0#20) :
    page ∈ (recordFault page k code ctx ring d1 c).firsts := by
  have hfirsts : (recordFault page k code ctx ring d1 c).firsts = page :: c.firsts := if_pos h
  rw [hfirsts]
  exact List.mem_cons_self

theorem firstAfter_empty {c : Chip} {page code : Nat} {h : PageHdr} (he : h.fault = 0#20) : firstAfter c page code h = code := if_pos he

theorem firstAfter_more {c : Chip} {page code : Nat} {h : PageHdr} (he : h.fault ≠ 0#20) :
    firstAfter c page code h = if page ∈ c.firsts then min code h.first else h.first := by
  rw [firstAfter, if_neg he]
  simp only [List.contains_eq_mem, decide_eq_true_eq]

theorem pageWrite_fault (p : Nat) (v : W64) (c : Chip) : pageOf (pageWrite 0xFFFF p 0x020 v c) p = (pageOf c p).clearFaults v :=
  pageOf_updPage p (fun h => h.clearFaults v) c

/-- Settles O50. -/
theorem pageRows : Obligations.PageRows := by
  unfold Obligations.PageRows
  refine ⟨⟨fun p off v hp hoff h8 => ⟨?write, ?held⟩, fun p hp => ⟨does_pageReg hp (fun _ => rfl) fun c => if_pos hp,
    does_pageReg hp (fun _ => rfl) fun c => if_pos hp, fun en => does_pageReg hp (fun _ => rfl) fun c => if_pos hp,
    fun words => ?rbRead, ?rbReadErr, fun v words => ?rbWrite, fun v words => ?rbWriteErr⟩⟩,
    fun page code ctx ring k d1 c => ⟨?bit, ?mask, fun h => ⟨?first, ?time, ?firsts⟩, fun h => ⟨?keepsTime, ?lowest⟩,
      fun p h => recordFault_other code ctx ring k d1 c h, ?event⟩, fun p v c => ?clear⟩
  case write =>
    refine acts_of (fun _ => rfl) fun c ha _ => (regCommand_up hp hoff h8 (awake_up ha)).trans (if_neg ?_)
    simp only [awake_not_asleep ha, Bool.false_and, Bool.false_eq_true, not_false_iff]
  case held =>
    refine takes_of (fun _ => rfl) fun c ⟨hup, hasleep, hpage⟩ => (regCommand_up hp hoff h8 hup).trans (if_pos ?_)
    simp [asleep, hasleep, hpage]
  case rbRead => exact acts_rbRead hp fun c h => rbDataRead_inside h
  case rbReadErr => exact acts_rbRead hp fun c h => rbDataRead_outside h
  case rbWrite => exact acts_rbWrite hp fun c ⟨h, hq, hw⟩ => (rbDataWrite_inside h).trans (if_pos (by rw [hq, hw]; rfl))
  case rbWriteErr => exact acts_rbWrite hp fun c ⟨h, hq⟩ => (rbDataWrite_inside h).trans (if_neg (by rw [hq, Bool.false_and]; decide))
  case bit => rw [recordFault_page]; rfl
  case mask => rw [recordFault_page]; rfl
  case first => rw [recordFault_page]; exact firstAfter_empty h
  case time => rw [recordFault_page]; exact if_pos h
  case firsts => exact recordFault_firsts code ctx ring k d1 h
  case keepsTime => rw [recordFault_page]; exact if_neg h
  case lowest => rw [recordFault_page]; exact firstAfter_more h
  case event => rfl
  case clear =>
    rw [pageWrite_fault]
    exact ⟨rfl, rfl, fun h => ⟨if_pos h, if_pos h⟩, fun h => ⟨if_neg h, if_neg h⟩⟩

end Sys2Proof.Machine
end

section
/-! SUPPORT. The test wrapper (O51). -/

namespace Sys2Proof.Machine

/-- An intrusive instruction takes the core (R505). -/
theorem wrapTake_live {c : Chip} (h : wrapLive c = true) (code : Nat) : wrapTake code c = { c with
    wrap.instr := code, wrap.undef := Config.freeNat c.free, core.phase := .wrapper, core.retainV := false, free := c.free + 1 } := if_pos h

theorem wrapLoad_live {c : Chip} (h : wrapLive c = true) (code : Nat) : wrapLoad code c = { c with wrap.instr := code } := if_pos h

theorem wsBypass_live {c : Chip} (h : wrapLive c = true) : wsBypass c = selectBypass { c with wrap.instr := 0 } :=
  (if_pos h).trans (congrArg selectBypass (wrapLoad_live h 0))

/-- CLAMP and SAFE take the core and select the bypass register. -/
theorem bypassed_live {c : Chip} (h : wrapLive c = true) (code : Nat) :
    (if wrapLive c = true then selectBypass (wrapTake code c) else c) = selectBypass { c with
      wrap.instr := code, wrap.undef := Config.freeNat c.free, core.phase := .wrapper, core.retainV := false, free := c.free + 1 } :=
  (if_pos h).trans (congrArg selectBypass (wrapTake_live h code))

theorem wsExtest_live {c : Chip} (h : wrapLive c = true) : wsExtest c = { c with
    wrap.instr := 1, wrap.undef := Config.freeNat c.free, core.phase := .wrapper, core.retainV := false
    wrap.bndOut := Config.freeNat (c.free + 1), wrap.bndIn := pinsIn c, free := c.free + 2 } := by
  refine (if_pos h).trans ?_
  rw [wrapTake_live h]
  rfl

theorem mbistGo_live {b : Nat} {c : Chip} (hb : b < 256) (h : wrapLive c = true) : mbistGo b c = { c with
    wrap.instr := 0x10, wrap.undef := Config.freeNat c.free, core.phase := .wrapper, core.retainV := false, free := c.free + 1
    wrap.mbistGo := true, wrap.mbistDone := false, wrap.mbistFail := false, wrap.mbistBank := b } := by
  refine (if_pos h).trans ?_
  rw [wrapTake_live h, Nat.mod_eq_of_lt hb]

theorem outLevel_boundary {c : Chip} (h : c.core.phase = .wrapper) (hi : c.wrap.instr = 1 ∨ c.wrap.instr = 2) (cell : PinCell)
    (held level : Bool) : outLevel c cell held level = c.wrap.bndOut.testBit cell.bit := (if_pos h).trans (if_pos hi)

theorem outLevel_safe {c : Chip} (h : c.core.phase = .wrapper) (hi : c.wrap.instr = 3) (cell : PinCell) (held level : Bool) :
    outLevel c cell held level = held := (if_pos h).trans ((if_neg (by rw [hi]; decide)).trans (if_pos hi))

theorem wrapLive_up {c : Chip} (h : isUp c = true) : wrapLive c = true := by simp only [wrapLive, (isUp_iff c).1 h]

theorem regaccGo_awake {c : Chip} (h : isAwake c = true) (v : W64) (w : Bool) (off : Nat) : regaccGo v w off c = regaccServe v w off c := by
  simp only [regaccGo, ((isAwake_iff c).1 h).1, awake_not_asleep h, Bool.false_and, Bool.false_eq_true, if_false]

theorem imgRead_found {i : Nat} {w : W32} {c : Chip} (hi : i < 65536) (hup : isUp c = true) (h : c.core.image[i]? = some w) :
    imgRead i c = { c with wrap.instr := 0x12, wrap.imgIndex := i, wrap.imgWord := w.toNat } := by
  simp only [imgRead, wrapLive_up hup, Bool.not_true, Bool.false_eq_true, if_false, Nat.mod_eq_of_lt hi, h]

/-- Settles O51. -/
theorem wrapperRows : Obligations.WrapperRows := by
  unfold Obligations.WrapperRows
  refine ⟨?bypass, ?extest, ?clamp, ?safe, ?intest, fun b hb => ?mbist, fun c cell held level h => ⟨fun hi => ?boundary, fun hi => ?held⟩,
    fun f => ?done, fun v w off => ?loaded, fun v w off => ?served, fun i w hi => ?image, ?reset⟩
  case bypass => exact takes_of (fun _ => rfl) fun c h => wsBypass_live h
  case extest => exact takes_of (fun _ => rfl) fun c h => wsExtest_live h
  case clamp => exact takes_of (fun _ => rfl) fun c h => bypassed_live h 2
  case safe => exact takes_of (fun _ => rfl) fun c h => bypassed_live h 3
  case intest => exact takes_of (fun _ => rfl) fun c h => wrapTake_live h 4
  case mbist => exact takes_of (fun _ => rfl) fun c h => mbistGo_live hb h
  case boundary => exact outLevel_boundary h hi cell held level
  case held => exact outLevel_safe h hi cell held level
  case done => exact takes_of (fun _ => rfl) fun c h => if_pos h
  case loaded => exact takes_of (fun _ => rfl) fun c ⟨hup, _⟩ => if_pos (wrapLive_up hup)
  case served =>
    refine acts_of (fun _ => rfl) fun c ha _ => (if_pos (wrapLive_up (awake_up ha))).trans ?_
    exact regaccGo_awake (c := { c with wrap := { c.wrap with
      instr := 0x11, accOff := off, accWrite := w, accData := v, accStatus := 3 } }) ha v w off
  case image => exact takes_of (fun _ => rfl) fun c ⟨hup, h⟩ => imgRead_found hi hup h
  case reset => exact takes_of (fun _ => rfl) fun c _ => rfl

end Sys2Proof.Machine
end
